-- ==== Sys2Proof/Word.lean ====
section
/-! DEFINITION. The fixed-width words of the KR512 manual. -/

namespace Sys2Proof

/-- A byte, on the wire and in a granule. -/
abbrev Byte := BitVec 8

/-- A sequence of bytes, first byte first. -/
abbrev Bytes := List Byte

/-- A 32-bit record key (R4). -/
abbrev Key := BitVec 32

/-- A generation number, 1 to 65535 where it is present (Table 1-1). -/
abbrev Gen := BitVec 16

/-- The 32 bytes of one granule (R25): the byte at position `p` is bits `8 * p` to `8 * p + 7`. -/
abbrev Data := BitVec 256

/-- A class number, 0 to 7 (Table 1-1). -/
abbrev Cls := Fin 8

end Sys2Proof
end

