-- ==== Sys2Proof/Config.lean ====
section
/-! DEFINITION. What an implementation of the KR512 fixes and the manual leaves open. The opaque constants are free
values: nothing in Lean can prove which value they have. -/

namespace Sys2Proof

/-- What the check bits of a granule say of its data (R33). -/
inductive CheckReport where
  /-- the check bits show no error -/
  | noError
  /-- the check bits show one wrong bit: bit `bit` of the data, or, where there is none, one of the check bits -/
  | oneError (bit : Option (Fin 256))
  /-- the check bits show two or more wrong bits -/
  | manyErrors
deriving DecidableEq, Repr, Inhabited

/-- What the check bits report where the manual does not say it: three or more wrong bits, which may pass for one
(R33), and check bits of no known data (R26, R47). Free value, log entry 2. -/
opaque Config.unstatedRead (data : Data) (coded : Option Data) (wrong : List Nat) (tag : Nat) : CheckReport

/-- Whether check bit `k` of the check bits computed for `data` is a programmed bit (R25, R26): the code is not given.
Free value, log entry 2. -/
opaque Config.checkProgrammed (data : Data) (k : Nat) : Bool

/-- How far a suspended step had progressed (R40). Free value, log entry 20. -/
opaque Config.suspendProgress (tag : Nat) : Nat

/-- The level of the straps ADDR1 and ADDR0 (R175, Table 10-4): fixed by the board. -/
opaque Config.addrPins : BitVec 2

end Sys2Proof
end

