-- ==== Sys2Proof/Syntax.lean ====
section
/-! DEFINITION. The commands of the block: one constructor of `Instr` for each row of spec/opcode_table.json, and the
types of their operands. -/

namespace Sys2Proof

/-- The two command ports (Chapter 11). -/
inductive Port where
  | m
  | s
deriving DecidableEq, Repr

/-- The two cells of a pair (R25). -/
inductive CellName where
  | a
  | b
deriving DecidableEq, Repr

/-- The marks of a cell, Table 2-2; `patch g` is the patch-map bit of data granule `g`, 1 to 7. -/
inductive Mark where
  | commit
  | supersede
  | retire
  | fixed
  | bad
  | patch (granule : Nat)
deriving DecidableEq, Repr

/-- One bit of a cell that is found changed of itself when an array step on the cell ends: a bit of a granule's data,
one of its check bits, or one of the three copies of a mark. The array's wear is an input of the block. -/
inductive Upset where
  | dataBit (granule bit : Nat)
  | checkBit (granule bit : Nat)
  | markCopy (mark : Mark) (copy : Nat)
deriving DecidableEq, Repr

/-- Which of a granule's check bits an interrupted step had brought to their new value (R47): those given and no other, or
all but those given. -/
inductive CheckMove where
  | only (bits : List Nat)
  | allBut (bits : List Nat)
deriving DecidableEq, Repr

/-- What an interrupted step had done to one granule of its cell: `moved` has a 1 for each data bit that had reached
its new value (R47). -/
structure GranuleResidue where
  granule : Nat
  moved : Data
  check : CheckMove
deriving DecidableEq, Repr

/-- What an array step that a reset abandons leaves on its cell (R47). A granule or mark copy that is not named had
not moved. -/
structure Residue where
  granules : List GranuleResidue
  copies : List (Mark × Nat)
deriving DecidableEq, Repr

/-- The interrupted step had changed nothing yet. -/
def Residue.untouched : Residue := ⟨[], []⟩

/-- A fetch transaction (R174, R175). On Port M: the whole bytes the host sends after the fetch code F0H while the part
answers, the echo byte among them. On Port S: how many bytes the controller reads, and whether it acknowledges the
check byte. -/
inductive Fetch where
  | onM (sent : Bytes)
  | onS (count : Nat) (acked : Bool)
deriving DecidableEq, Repr

/-- The port a fetch is made on. -/
def Fetch.port : Fetch → Port
  | .onM _ => .m
  | .onS _ _ => .s

/-- The commands and events of the block. `args` are the argument bytes of a well-formed command frame whose code is
that of the command (R173, R183). -/
inductive Instr where
  | find (p : Port) (args : Bytes)
  | list (p : Port) (args : Bytes)
  | read (p : Port) (args : Bytes)
  /-- the granule reads of the port READ that holds the array end; `upsets` fall on the cell being read -/
  | readComplete (upsets : List Upset)
  | stage (p : Port) (args : Bytes)
  | discard (p : Port) (args : Bytes)
  | commit (p : Port) (args : Bytes)
  | result (p : Port) (args : Bytes)
  | patch (p : Port) (args : Bytes)
  | retire (p : Port) (args : Bytes)
  | hold (p : Port) (args : Bytes)
  | renew (p : Port) (args : Bytes)
  | release (p : Port) (args : Bytes)
  | fix (p : Port) (args : Bytes)
  | inhibit (p : Port) (args : Bytes)
  | capture (p : Port) (args : Bytes)
  | captureClear (p : Port) (args : Bytes)
  | refreshList (p : Port) (args : Bytes)
  | census (p : Port) (args : Bytes)
  | censusResult (p : Port) (args : Bytes)
  | censusCancel (p : Port) (args : Bytes)
  | setupRead (p : Port) (args : Bytes)
  | setupWrite (p : Port) (args : Bytes)
  | status (p : Port) (args : Bytes)
  | ack (p : Port) (args : Bytes)
  | eventMask (p : Port) (args : Bytes)
  /-- `residue` is what the array step in progress leaves, when the restart is carried out during one -/
  | restart (p : Port) (args : Bytes) (residue : Residue)
  /-- a well-formed frame whose code is not in Table 11-1 -/
  | unknownCommand (p : Port) (code : Byte) (args : Bytes)
  /-- a fetch, with its confirmation (R174, R175, R177) -/
  | fetch (f : Fetch)
  /-- a command frame that is not well formed: its whole bytes, and whether it ended in the middle of a byte -/
  | badFrame (p : Port) (bytes : Bytes) (midByte : Bool)
  /-- a well-formed command frame that arrives while the response slot is PENDING: its bytes -/
  | ignoredFrame (p : Port) (bytes : Bytes)
  | powerOn (residue : Residue)
  | resetN (residue : Residue)
  | resetHoldEnd
  | scanEnd
  | leaseInterval
  | holdLapsed (slot : Nat)
  | jobStart
  | refreshStart
  | recoveryStart
  /-- `upsets` fall on the cell of the step, before a read and after a program or an erase -/
  | engineReadEnd (upsets : List Upset)
  | granuleProgramEnd (upsets : List Upset)
  | markProgramEnd (upsets : List Upset)
  | cellEraseEnd (upsets : List Upset)
  | censusReadEnd (upsets : List Upset)
  | scanGranuleReadEnd (upsets : List Upset)
deriving DecidableEq, Repr

end Sys2Proof
end

