-- ==== Sys2Proof/Decode.lean ====
section
/-! DEFINITION. From the bytes of a frame to a row of the table (R173 to R176, R183). The table itself gives no row any
bits, so `decodeTableWord` answers none. -/

namespace Sys2Proof

/-- One shift of the CRC-8 of R173. -/
def crc8Shift (r : Byte) : Byte :=
  if r.msb then (r <<< 1) ^^^ 0x07#8 else r <<< 1

/-- One byte into the CRC-8 register (R173). -/
def crc8Byte (r b : Byte) : Byte :=
  crc8Shift (crc8Shift (crc8Shift (crc8Shift (crc8Shift (crc8Shift (crc8Shift (crc8Shift (r ^^^ b))))))))

/-- The check byte over a sequence of bytes (R173). -/
def crc8 (bs : Bytes) : Byte := bs.foldl crc8Byte 0x00#8

/-- The check byte of a command frame or of a response follows the bytes it covers. -/
def withCheck (bs : Bytes) : Bytes := bs ++ [crc8 bs]

/-- A frame is well formed (R173): it is a code, an argument count N of 240 or less, N argument bytes and a check byte
over all the bytes before it. -/
def frameWellFormed : Bytes → Bool
  | code :: n :: rest =>
    decide (n.toNat ≤ 240) && rest.length == n.toNat + 1 &&
      rest.getLast? == some (crc8 (code :: n :: rest.dropLast))
  | _ => false

/-- The command frame of a code and its arguments (R173). -/
def commandFrame (code : Byte) (args : Bytes) : Bytes :=
  withCheck (code :: BitVec.ofNat 8 args.length :: args)

/-- The codes of Table 11-1 that name a command of a command frame. -/
def commandCodes : List Byte :=
  [0x01, 0x02, 0x10, 0x20, 0x21, 0x22, 0x23, 0x30, 0x31, 0x40, 0x41, 0x42, 0x43, 0x44] ++
    [0x50, 0x51, 0x52, 0x58, 0x59, 0x5A, 0x60, 0x61, 0x70, 0x71, 0x72, 0x7F]

/-- The row of the table that a code and its arguments stand for (Table 11-1). A code that is not in the table, and F0H
in a command frame of Port S, is UNKNOWN_COMMAND. What an array step that a RESTART abandons leaves (R47) is in no frame:
it is given beside it. -/
def rowOfCode (p : Port) (code : Byte) (args : Bytes) (residue : Residue) : Instr :=
  match code.toNat with
  | 0x01 => .find p args
  | 0x02 => .list p args
  | 0x10 => .read p args
  | 0x20 => .stage p args
  | 0x21 => .discard p args
  | 0x22 => .commit p args
  | 0x23 => .result p args
  | 0x30 => .patch p args
  | 0x31 => .retire p args
  | 0x40 => .hold p args
  | 0x41 => .renew p args
  | 0x42 => .release p args
  | 0x43 => .fix p args
  | 0x44 => .inhibit p args
  | 0x50 => .capture p args
  | 0x51 => .captureClear p args
  | 0x52 => .refreshList p args
  | 0x58 => .census p args
  | 0x59 => .censusResult p args
  | 0x5A => .censusCancel p args
  | 0x60 => .setupRead p args
  | 0x61 => .setupWrite p args
  | 0x70 => .status p args
  | 0x71 => .ack p args
  | 0x72 => .eventMask p args
  | 0x7F => .restart p args residue
  | _ => .unknownCommand p code args

/-- A first byte of F0H on Port M begins a fetch frame, not a command frame (R174). -/
def beginsFetch : Port → Bytes → Bool
  | .m, b :: _ => b == 0xF0#8
  | _, _ => false

/-- A frame that the port discards (R176): it is not well formed, or, on Port M, it ends in the middle of a byte. A Port S
frame is judged by its whole bytes; log entry 40. -/
def discardsFrame (p : Port) (bytes : Bytes) (midByte : Bool) : Bool :=
  !frameWellFormed bytes || (midByte && p == .m)

/-- The row a transaction of Port M, or a write transaction of Port S, stands for (R173 to R176): none for one that
carries no byte, which is no frame and has no effect; the fetch for a fetch frame of Port M. `midByte` says that the
transaction ended in the middle of a byte. -/
def commandOfTransaction (p : Port) (bytes : Bytes) (midByte : Bool) (residue : Residue) : Option Instr :=
  match bytes with
  | [] => none
  | code :: rest =>
    if beginsFetch p bytes then some (.fetch (.onM rest))
    else if discardsFrame p bytes midByte then some (.badFrame p bytes midByte)
    else some (rowOfCode p code (rest.drop 1).dropLast residue)

/-- Port S answers the 7-bit address 4CH plus the value of ADDR1 and ADDR0, and no other (R175). -/
def portSAnswers (address : BitVec 7) : Bool :=
  address == 0x4C#7 + Config.addrPins.setWidth 7

/-- The command a word of the opcode table spells: the table gives no row any bits, so no word spells one. -/
def decodeTableWord (_nbits _w : Nat) : Option Instr := none

end Sys2Proof
end

