-- ==== Sys2Proof/Machine/Layout.lean ====
section
/-! DEFINITION. Bytes and bits: the bytes of a granule, big-endian fields, the CRC-32 of the census, the next value of
the generation cycle, and what the factory writes into the setup pair. -/

namespace Sys2Proof.Machine

/-- The byte at a position of a granule (R28). -/
def byteAt (d : Data) (pos : Nat) : Byte := d.extractLsb' (8 * pos) 8

/-- The bytes at `count` positions from `pos` on. -/
def bytesAt (d : Data) (pos count : Nat) : Bytes := (List.range count).map (fun i => byteAt d (pos + i))

/-- The number whose base-256 digits, least first, are the bytes. -/
def natOfBytesLE : Bytes → Nat
  | [] => 0
  | b :: bs => b.toNat + 256 * natOfBytesLE bs

/-- A granule that holds the bytes from position 0 on and FFH at the positions past them (R27, R28, R165). -/
def dataOfBytes (bs : Bytes) : Data :=
  BitVec.ofNat 256 (natOfBytesLE ((bs ++ List.replicate (32 - bs.length) 0xFF#8).take 32))

/-- An erased granule reads as 32 bytes of FFH (R26). -/
def erasedData : Data := BitVec.allOnes 256

/-- Two bytes, most significant first. -/
def be16 (n : Nat) : Bytes := [BitVec.ofNat 8 (n / 256), BitVec.ofNat 8 n]

/-- Four bytes, most significant first. -/
def be32 (w : BitVec 32) : Bytes :=
  [w.extractLsb' 24 8, w.extractLsb' 16 8, w.extractLsb' 8 8, w.extractLsb' 0 8]

/-- The two-byte field whose bytes are `h` and `l`, most significant first. -/
def word16 (h l : Byte) : BitVec 16 := h ++ l

/-- The four-byte field of four bytes, most significant first. -/
def word32 (a b c d : Byte) : BitVec 32 := a ++ b ++ c ++ d

/-- The next value of the generation cycle: 65535 is followed by 1, and 0 by 1 (R66, R154, R169). -/
def nextGen (g : Gen) : Gen := if g = 0xFFFF#16 then 1#16 else g + 1#16

/-- The next value of a ticket counter: from 255 back to 1 (R54). -/
def nextTicket (t : Byte) : Byte := if t = 0xFF#8 then 1#8 else t + 1#8

/-- One shift of the CRC-32 register (R145). -/
def crc32Shift (r : BitVec 32) : BitVec 32 :=
  if r.getLsbD 0 then (r >>> 1) ^^^ 0xEDB88320#32 else r >>> 1

/-- One byte into the CRC-32 register (R145). -/
def crc32Byte (r : BitVec 32) (b : Byte) : BitVec 32 :=
  crc32Shift (crc32Shift (crc32Shift (crc32Shift (crc32Shift (crc32Shift (crc32Shift (crc32Shift
    (r ^^^ b.setWidth 32))))))))

/-- Bytes into the CRC-32 register, in order (R145). -/
def crc32Bytes (r : BitVec 32) (bs : Bytes) : BitVec 32 := bs.foldl crc32Byte r

/-- A class number from a byte, when it is 0 to 7. -/
def clsOfByte (b : Byte) : Option Cls := if h : b.toNat < 8 then some ⟨b.toNat, h⟩ else none

/-- The tag of a setup header (Table 10-1): 7A5E0C13H, most significant byte first; log entry 34. -/
def setupTag : Bytes := [0x7A, 0x5E, 0x0C, 0x13]

/-- The header granule of setup cell A as the factory leaves it: setup generation 1 (R165, Remark). -/
def factorySetupHeader : Data := dataOfBytes (setupTag ++ [0x00, 0x01])

/-- Granule 1 of setup cell A as the factory leaves it: the factory values of Table 10-2 (R165, Remark). -/
def factorySetupContents : Data :=
  dataOfBytes ((List.replicate 8 [0x0F#8, 0xE0#8, 0x32#8]).flatten ++ [0x04])

end Sys2Proof.Machine
end

