-- ==== Sys2Proof/Machine/State.lean ====
section
/-! DEFINITION. The state of the part: everything the manual gives it, as plain data, and its state after reset. -/

namespace Sys2Proof.Machine

/-- Sparse data by key, in one canonical form: rising keys, no entry equal to what an unlisted key reads as. -/
abbrev Sparse (α : Type) := List (Nat × α)

/-! ### The record array (2.1, 2.2) -/

/-- A pair of cells: a numbered pair, 0 to 543, or the setup pair (R25). -/
inductive PairId where
  | num (n : Nat)
  | setup
deriving DecidableEq, Repr

/-- A cell of the array. -/
structure Loc where
  pair : PairId
  cell : CellName
deriving DecidableEq, Repr

/-- The check bits of a granule. The code is not stated, so they are held as what they were computed for. `wrong` is
the set of check bits that are not as computed, by number: those that changed of themselves since, or that an abandoned
step left (R47). -/
inductive CheckBits where
  /-- the check bits computed for `coded` -/
  | matching (coded : Data) (wrong : List Nat)
  /-- check bits that no longer are those of one known data word: after a second program (R26), or a step over such bits
  that was abandoned (R47). `tag` tells one such set of bits from another -/
  | unmatched (tag : Nat) (wrong : List Nat)
deriving DecidableEq, Repr

/-- A granule: the 32 bytes it holds, bit by bit, and its check bits (R25, R26). -/
structure Granule where
  data : Data
  check : CheckBits
deriving DecidableEq, Repr

/-- The mark field of a cell: three copies of twelve flags, a 1 for a programmed copy (R29). Bits 0 to 4 are the commit,
supersede, retire, fixed and bad marks, bits 5 to 11 the patch-map bits of granules 1 to 7. -/
structure MarkField where
  copy0 : BitVec 12
  copy1 : BitVec 12
  copy2 : BitVec 12
deriving DecidableEq, Repr

/-- Read outcomes, in the order of R35. -/
inductive Outcome where
  | clean
  | unguarded
  | corrected
  | uncorrectable
deriving DecidableEq, Repr

/-- Cell classifications (Table 2-4). -/
inductive Classification where
  | bad
  | erased
  | debris
  | retired
  | superseded
  | committed
  | written
deriving DecidableEq, Repr

/-- The fields of a valid header (Table 2-1). -/
structure Header where
  key : Key
  entry : Nat
  cls : Cls
  gen : Gen
  length : Nat
deriving DecidableEq, Repr

/-! ### The directory (Chapter 1) -/

/-- The fields of a LIVE entry (Table 1-1). Bit `i` of `guardMap` is granule `i + 1`, a set bit is UNGUARDED. -/
structure Live where
  key : Key
  cls : Cls
  length : Nat
  gen : Gen
  cell : CellName
  guardMap : BitVec 7
  fixed : Bool
  damaged : Bool
  refreshWanted : Bool
deriving DecidableEq, Repr

/-- The state of an entry with the fields that are present in it (Table 1-1). -/
inductive EntryBody where
  | free
  | nascent (key : Key) (cls : Cls)
  | live (l : Live)
  | retiring (key : Key) (cls : Cls) (gen : Gen)
deriving DecidableEq, Repr

/-- A directory entry: what its state gives it, and the two fields present in every state (Table 1-1). -/
structure Entry where
  body : EntryBody
  pair : Option Nat
  jobs : Nat
deriving DecidableEq, Repr

/-! ### Setup (Chapter 10) -/

/-- The policy of one class (Table 10-2). -/
structure ClassPolicy where
  patchOk : Bool
  refreshOk : Bool
  sWriteOk : Bool
  retireOk : Bool
  maxLength : Byte
  lease : Byte
deriving DecidableEq, Repr

/-- The setup contents: what SETUP_WRITE carries and granule 1 of a setup cell holds. -/
structure SetupContents where
  classes : Vector ClassPolicy 8
  spareThreshold : Byte
deriving DecidableEq, Repr

/-- The setup store (R165). -/
structure SetupStore where
  contents : SetupContents
  gen : Gen
  fixed : Bool
  currentCell : Option CellName
  lastGen : Gen
deriving DecidableEq, Repr

/-! ### Staging buffers, jobs and results (Chapter 3) -/

/-- States of a staging buffer (Table 3-1). -/
inductive BufferState where
  | empty
  | filling
  | queued
deriving DecidableEq, Repr

/-- A staging buffer (R48): positions that are not listed hold FFH. -/
structure Buffer where
  state : BufferState
  data : Sparse Byte
  filled : Nat
deriving DecidableEq, Repr

/-- What a job record holds beside its ticket and port (Table 3-3). -/
inductive JobBody where
  | commit (entry : Nat) (key : Key) (buffer : Fin 8) (length : Nat) (expected : Gen)
  | patch (entry : Nat) (key : Key) (offset : Nat) (data : Bytes) (expected : Gen)
  | retire (entry : Nat) (key : Key) (expected : Gen)
  | fix (entry : Nat) (key : Key)
  | setup (contents : SetupContents) (fix : Bool)
deriving DecidableEq, Repr

/-- A job record (Table 3-3). -/
structure Job where
  ticket : Byte
  port : Port
  body : JobBody
deriving DecidableEq, Repr

/-- Job kinds (Table 11-4). -/
inductive JobKind where
  | commit
  | patch
  | retire
  | fix
  | setup
  | refresh
deriving DecidableEq, Repr

/-- Job result codes (Table 11-3). -/
inductive JobResult where
  | done
  | superseded
  | staleGen
  | gone
  | locked
  | inhibited
  | notClear
  | damaged
  | noSpare
deriving DecidableEq, Repr

/-- A result record (Table 3-7). -/
structure ResultRecord where
  ticket : Byte
  kind : JobKind
  entry : Option Nat
  key : Option Key
  result : JobResult
  newGen : Option Gen
  relocated : Bool
deriving DecidableEq, Repr

/-! ### The engine's work -/

/-- A classification in progress (R32): the granule being read, the mark field as it was read with the header, and
whether every granule read so far read as erased. -/
structure Classifying where
  granule : Nat
  marks : MarkField
  erased : Bool
deriving DecidableEq, Repr

/-- The record a COMMIT or REFRESH is writing (3.5, 5.3). -/
structure WriteJob where
  entry : Nat
  key : Key
  cls : Cls
  newGen : Gen
  length : Nat
  /-- the contents of data granules 1 to 7 -/
  payload : List Data
  /-- the pair and cell of the old record, when the entry was LIVE at start (R64) -/
  old : Option (Nat × CellName)
  /-- the entry was LIVE and stranded at start (R104) -/
  stranded : Bool
  /-- the pair and cell being written -/
  pair : Nat
  cell : CellName
  /-- the pair being written is the job's reserved spare -/
  spare : Bool
  /-- the failed pairs of the job with the cell that failed, in the order in which they failed (R103) -/
  failed : List (Nat × CellName)
deriving DecidableEq, Repr

/-- Where a COMMIT or REFRESH stands (Figure 3-1). -/
inductive WriteStep where
  | classify (c : Classifying)
  | erase
  | header
  | data (granule : Nat)
  | verify (granule : Nat)
  | commitMark
  | supersede
  /-- bad marks after the switch (R105): the cells still to be marked after the one in progress -/
  | badMarks (rest : List (Nat × CellName))
  /-- bad marks before NO_SPARE (R106) -/
  | exhaustMarks (rest : List (Nat × CellName))
deriving DecidableEq, Repr

/-- A changed granule of a PATCH (R83, R84): its new content, whether it is programmed for the first time. -/
structure Changed where
  granule : Nat
  new : Data
  first : Bool
deriving DecidableEq, Repr

/-- A PATCH past its start checks (4.2). -/
structure PatchJob where
  entry : Nat
  pair : Nat
  cell : CellName
  offset : Nat
  data : Bytes
  /-- the target granules read so far, in ascending order -/
  reads : List (Nat × Outcome × Data)
  changed : List Changed
  /-- the patch-map bits the job programs in step 3 -/
  marking : BitVec 7
  /-- those of them that read set at the end of step 3 (R88) -/
  marked : BitVec 7
  /-- the job has made a program step -/
  programmed : Bool
deriving DecidableEq, Repr

/-- Where a PATCH stands (Figure 4-1): the granules still to come after the one in progress. -/
inductive PatchStep where
  | read (granule : Nat)
  | mark
  | program (rest : List Changed)
  | verify (now : Changed) (rest : List Changed)
deriving DecidableEq, Repr

/-- A RETIRE past its start checks, or a FINISH_RETIRE item (5.1.2, R164). -/
structure RetireJob where
  entry : Nat
  pair : Nat
  /-- the retired cell -/
  cell : CellName
  /-- the pair was in the BAD set at start, or an erase has failed: step 4 is made (R95, R97, R164) -/
  markPair : Bool
deriving DecidableEq, Repr

/-- Where a RETIRE stands (Figure 5-1). -/
inductive RetireStep where
  | retireMark
  | classify (c : Classifying)
  | eraseOther
  /-- the bad mark of the other cell after its erase failed (R95) -/
  | badOther
  | eraseRetired
  | badRetired
  | badA
  | badB
deriving DecidableEq, Repr

/-- A SETUP job past its start check (R169). -/
structure SetupJob where
  contents : SetupContents
  fix : Bool
  gen : Gen
  idle : CellName
  /-- the current setup cell was NONE at start -/
  wasNone : Bool
deriving DecidableEq, Repr

/-- Where a SETUP job stands (Figure 10-1). -/
inductive SetupStep where
  | classify (c : Classifying)
  | erase
  | header
  | data
  | verify (granule : Nat)
  | commitMark
  | fixedMark
  | classifyOld (c : Classifying)
  | supersede
deriving DecidableEq, Repr

/-- Where an ERASE_DEBRIS item stands (R163). -/
inductive DebrisStep where
  | erase
  | badFailed
  | badOther
deriving DecidableEq, Repr

/-- Recovery items (R162). A FINISH_RETIRE also carries the pair and the retired cell of its claim (R164). -/
inductive RecoveryItem where
  | eraseDebris (pair : Nat) (cell : CellName)
  | supersede (pair : Nat) (cell : CellName)
  | finishRetire (entry pair : Nat) (cell : CellName)
  | markBad (pair : Nat)
deriving DecidableEq, Repr

/-- The running-job record: the engine's work and where it stands (R76). -/
inductive Work where
  | idle
  /-- a COMMIT (`some job`) or, from its first write step on, a REFRESH (`none`) -/
  | write (job : Option Job) (w : WriteJob) (step : WriteStep)
  /-- a REFRESH reading its record: the granule being read and the data read so far (R122) -/
  | refreshRead (entry : Nat) (pair : Nat) (cell : CellName) (granule : Nat) (got : List Data)
  | patch (job : Job) (w : PatchJob) (step : PatchStep)
  /-- a RETIRE (`some job`) or a FINISH_RETIRE item (`none`) -/
  | retire (job : Option Job) (w : RetireJob) (step : RetireStep)
  | fix (job : Job) (entry : Nat)
  | setup (job : Job) (w : SetupJob) (step : SetupStep)
  | eraseDebris (pair : Nat) (cell : CellName) (step : DebrisStep)
  | supersede (pair : Nat) (cell : CellName)
  | markBad (pair : Nat) (cell : CellName)
deriving DecidableEq, Repr

/-! ### The arbiter (2.6) -/

/-- An engine step of the array (Table 2-3). A read carries the entry index its report names (R35). -/
inductive EngineStep where
  | read (loc : Loc) (granule : Nat) (entry : Option Nat)
  | program (loc : Loc) (granule : Nat) (data : Data)
  | mark (loc : Loc) (marks : BitVec 12)
  | erase (loc : Loc)
deriving DecidableEq, Repr

/-- A READ among the waiting claimants: its entry, range, and the entry's current cell when it arrived (R37, R43). -/
structure ReadClaim where
  entry : Nat
  offset : Nat
  count : Nat
  loc : Loc
deriving DecidableEq, Repr

/-- A READ that holds its grant (R38): what the port took from the directory, the count after cutting. -/
structure ReadGrant where
  port : Port
  entry : Nat
  loc : Loc
  gen : Gen
  offset : Nat
  count : Nat
deriving DecidableEq, Repr

/-- The census unit's waiting claim: the header of an entry, or a data granule of the entry recorded (R144). -/
inductive CensusClaim where
  | header (entry : Nat)
  | data (granule : Nat)
deriving DecidableEq, Repr

/-- The user of the array (R40). A census read whose run was cancelled or replaced no longer counts (R148). -/
inductive User where
  | port (g : ReadGrant)
  | census (loc : Loc) (granule : Nat) (entry : Nat) (counts : Bool)
  | engine (step : EngineStep)
deriving DecidableEq, Repr

/-- The suspended-step record (R40), with the ports already granted in this suspension (R43). -/
structure Suspended where
  step : EngineStep
  progress : Nat
  granted : List Port
deriving DecidableEq, Repr

/-- What a step boundary still has to grant before the engine's next step (R42). -/
structure Boundary where
  ports : List Port
  census : Bool
deriving DecidableEq, Repr

/-- The array arbiter (R40). -/
structure Arbiter where
  waitM : Option ReadClaim
  waitS : Option ReadClaim
  waitCensus : Option CensusClaim
  waitEngine : Option EngineStep
  user : Option User
  suspended : Option Suspended
  suspCount : Nat
  lastPort : Port
  boundary : Option Boundary
deriving DecidableEq, Repr

/-! ### Holds (Chapter 7) -/

/-- A hold slot (R125). A LAPSED slot has lease_remaining 0. -/
inductive HoldSlot where
  | empty
  | active (port : Port) (entry : Nat) (key : Key) (lease : Byte)
  | lapsed (port : Port) (entry : Nat) (key : Key)
deriving DecidableEq, Repr

/-! ### Integrity (Chapter 6) -/

/-- The source of an array read (R35). -/
inductive Party where
  | portM
  | portS
  | engine
  | census
  | scan
deriving DecidableEq, Repr

/-- A location of the capture record (R110). -/
structure Location where
  loc : Loc
  granule : Nat
  entry : Option Nat
  party : Party
deriving DecidableEq, Repr

/-- A report to the integrity monitor (R109). -/
structure Report where
  outcome : Outcome
  place : Location
deriving DecidableEq, Repr

/-- The integrity capture record (Table 6-2). -/
structure Capture where
  correctedCount : Nat
  uncorrectableCount : Nat
  firstCorrected : Option Location
  latestCorrected : Option Location
  firstUncorrectable : Option Location
  latestUncorrectable : Option Location
deriving DecidableEq, Repr

/-- The refresh list and its overflow flag (R117). -/
structure RefreshList where
  list : List Nat
  overflow : Bool
deriving DecidableEq, Repr

/-! ### Census (Chapter 8) -/

/-- The state of a census that has been started (Table 8-1). -/
inductive CensusState where
  | running
  | done
  | cancelled
deriving DecidableEq, Repr

/-- The entry recorded at the header grant (R144), and the payload bytes its data reads have given so far. -/
structure CensusEntry where
  entry : Nat
  key : Key
  cls : Cls
  gen : Gen
  length : Nat
  loc : Loc
  payload : Bytes
deriving DecidableEq, Repr

/-- The census result record when it is not NONE (Table 8-1), the CRC-32 register and the run state. -/
structure CensusRun where
  state : CensusState
  /-- the class of the scope, none for ALL -/
  scope : Option Cls
  port : Port
  cursor : Nat
  crc : BitVec 32
  visited : Nat
  corrected : Nat
  uncorrectable : Nat
  unguarded : Nat
  stale : Bool
  current : Option CensusEntry
deriving DecidableEq, Repr

/-! ### Ports (Chapter 11) -/

/-- Status codes (Table 11-3). -/
inductive Status where
  | ok
  | accepted
  | pending
  | none
  | endOfList
  | noResult
  | notReady
  | notFound
  | gone
  | held
  | notHeld
  | expired
  | locked
  | denied
  | inhibited
  | full
  | noEntry
  | inUse
  | badArg
  | badLength
  | busy
  | unknown
  | absentData
deriving DecidableEq, Repr

/-- The response slot of a port (R177). -/
inductive Slot where
  | empty
  | pending
  | ready (status : Status) (data : Bytes)
deriving DecidableEq, Repr

/-- What each port holds. `flags` is the event byte of Table 11-5 without its RESULT_READY bit; `sent` is what the port
drove on SDO or SDA in its last fetch. -/
structure PortState where
  slot : Slot
  results : List ResultRecord
  outstanding : Nat
  ticket : Byte
  flags : Byte
  mask : Byte
  sent : Bytes
deriving DecidableEq, Repr

/-! ### The scan (Chapter 9) -/

/-- What the scan records of a classified cell (R156). -/
structure CellFound where
  cls : Classification
  header : Option Header
  marks : BitVec 12
deriving DecidableEq, Repr

/-- What the scan records of a setup cell (R155): the generation of a valid setup header, and granule 1 when it was read
and did not give UNCORRECTABLE. -/
structure SetupFound where
  cls : Classification
  gen : Option Gen
  marks : BitVec 12
  contents : Option Data
deriving DecidableEq, Repr

/-- What the scan is reading. -/
inductive ScanPos where
  | setupCell (cell : CellName)
  | setupContents (cell : CellName)
  | cell (pair : Nat) (cell : CellName)
  | done
deriving DecidableEq, Repr

/-- The start-up scan (R153 to R156). `first` is the classification of cell A of the pair whose cell B is being read;
`found` the classifications of the pairs read so far, but those with both cells ERASED, in pair order. -/
structure Scan where
  pos : ScanPos
  now : Classifying
  setupA : Option SetupFound
  setupB : Option SetupFound
  first : Option CellFound
  found : List (Nat × Classification × Classification)
deriving DecidableEq, Repr

/-! ### The whole part -/

/-- Held in reset, STARTING or READY (R150, R153). -/
inductive Phase where
  | held
  | starting
  | ready
deriving DecidableEq, Repr

/-- The state of the part. -/
structure State where
  phase : Phase
  restartDeferred : Bool
  granules : Sparse Granule
  marks : Sparse MarkField
  entries : Sparse Entry
  pool : List Nat
  reserved : Option Nat
  bad : List Nat
  arb : Arbiter
  buffers : Vector Buffer 8
  queue : List Job
  work : Work
  recovery : List RecoveryItem
  holds : Vector HoldSlot 8
  inhibit : BitVec 8
  capture : Capture
  refresh : RefreshList
  census : Option CensusRun
  setup : SetupStore
  scan : Scan
  portM : PortState
  portS : PortState
  /-- the model's own: how many free values have been handed out -/
  free : Nat
  /-- the model's own: the commands that wait to be taken, first in first out -/
  pending : List Instr
deriving DecidableEq, Repr

/-- The manual names no fault of the part: no command stops the machine. -/
inductive Fault where
deriving DecidableEq, Repr

/-- Reasons to refuse a command. -/
inductive Refusal where
  /-- raised by exec's arms of commands that have no meaning yet; safe. No arm raises it. -/
  | notModelled (mnemonic : String)
deriving DecidableEq, Repr

/-! ### Reset values -/

/-- No mark copy is programmed. -/
def MarkField.erased : MarkField := ⟨0, 0, 0⟩

/-- The factory policy of a class (Table 10-2). -/
def ClassPolicy.factory : ClassPolicy := ⟨true, true, true, true, 224, 50⟩

/-- The factory setup contents (Table 10-2). -/
def SetupContents.factory : SetupContents := ⟨Vector.replicate 8 ClassPolicy.factory, 4⟩

/-- The setup store as a reset leaves it, before the scan fills it (R165; the values are log entry 23). -/
def SetupStore.emptied : SetupStore := ⟨SetupContents.factory, 0, false, none, 0⟩

/-- The arbiter after a reset (R40). -/
def Arbiter.reset : Arbiter := ⟨none, none, none, none, none, none, 0, .s, none⟩

/-- An EMPTY buffer (R48). -/
def Buffer.emptied : Buffer := ⟨.empty, [], 0⟩

/-- The capture record, emptied (R110). -/
def Capture.emptied : Capture := ⟨0, 0, none, none, none, none⟩

/-- A port after a reset (R54, R73, R177, R178). -/
def PortState.reset : PortState := ⟨.empty, [], 0, 1, 0, 0x01, []⟩

/-- The beginning of a classification: the header granule is read first (R32). -/
def Classifying.start : Classifying := ⟨0, MarkField.erased, true⟩

/-- The scan at its beginning: it reads the setup pair first (R153). -/
def Scan.start : Scan := ⟨.setupCell .a, Classifying.start, none, none, none, []⟩

/-- The part when STARTING begins after a reset (Table 9-1), on a part as the factory leaves it. -/
def State.reset : State where
  phase := .starting
  restartDeferred := false
  granules := []
  marks := []
  entries := []
  pool := List.range' 512 32
  reserved := none
  bad := []
  arb := Arbiter.reset
  buffers := Vector.replicate 8 Buffer.emptied
  queue := []
  work := .idle
  recovery := []
  holds := Vector.replicate 8 HoldSlot.empty
  inhibit := 0
  capture := Capture.emptied
  refresh := ⟨[], false⟩
  census := none
  setup := SetupStore.emptied
  scan := Scan.start
  portM := PortState.reset
  portS := PortState.reset
  free := 0
  pending := []

end Sys2Proof.Machine
end

