-- ==== Sys2Proof/Machine/Ops.lean ====
section
/-! DEFINITION. The named operations over sparse data, the record array, the directory's entries, the pairs and the
ports. Every other file reads and writes the state through them. -/

namespace Sys2Proof.Machine

/-! ### Sparse data -/

/-- What is held at a key. -/
def sparseGet {α : Type} (dflt : Nat → α) : Sparse α → Nat → α
  | [], k => dflt k
  | (k', v) :: t, k => if k = k' then v else sparseGet dflt t k

/-- List a value at a key, in key order. -/
def sparsePut {α : Type} (k : Nat) (v : α) : Sparse α → Sparse α
  | [] => [(k, v)]
  | (k', v') :: t =>
    if k < k' then (k, v) :: (k', v') :: t
    else if k = k' then (k, v) :: t
    else (k', v') :: sparsePut k v t

/-- List nothing at a key. -/
def sparseDrop {α : Type} (k : Nat) (m : Sparse α) : Sparse α := m.filter (fun e => e.1 != k)

/-- Write a value at a key: writing what an unlisted key reads as removes the entry. -/
def sparseSet {α : Type} [DecidableEq α] (dflt : Nat → α) (m : Sparse α) (k : Nat) (v : α) : Sparse α :=
  if v = dflt k then sparseDrop k m else sparsePut k v m

/-- The keys rise from above `low` on, and no entry equals what an unlisted key reads as. -/
def sparseWfFrom {α : Type} [DecidableEq α] (dflt : Nat → α) : Option Nat → Sparse α → Bool
  | _, [] => true
  | low, (k, v) :: t =>
    (match low with | none => true | some l => decide (l < k)) && decide (v ≠ dflt k) && sparseWfFrom dflt (some k) t

/-- The canonical form of sparse data. -/
def sparseWf {α : Type} [DecidableEq α] (dflt : Nat → α) (m : Sparse α) : Bool := sparseWfFrom dflt none m

/-! ### Sets of numbers, in rising order -/

/-- Put a number into a set. -/
def insertNum (k : Nat) : List Nat → List Nat
  | [] => [k]
  | h :: t => if k < h then k :: h :: t else if k = h then h :: t else h :: insertNum k t

/-- Put a number into a set, or take it out when it is in. -/
def toggleNum (k : Nat) : List Nat → List Nat
  | [] => [k]
  | h :: t => if k < h then k :: h :: t else if k = h then t else h :: toggleNum k t

/-! ### Cells and granules -/

/-- The other cell of a pair. -/
def otherCell : CellName → CellName
  | .a => .b
  | .b => .a

/-- A cell of a numbered pair. -/
def Loc.num (pair : Nat) (cell : CellName) : Loc := ⟨.num pair, cell⟩

/-- A cell of the setup pair. -/
def Loc.setup (cell : CellName) : Loc := ⟨.setup, cell⟩

/-- The number of a cell among all cells: the setup pair follows pair 543. -/
def Loc.index (l : Loc) : Nat :=
  2 * (match l.pair with | .num n => if n < 544 then n else n + 1 | .setup => 544) +
    (match l.cell with | .a => 0 | .b => 1)

/-- The address of a granule in the array. -/
def granuleKey (l : Loc) (g : Nat) : Nat := 8 * l.index + g

/-- An erased granule: its check bits match its erased data (R26). -/
def Granule.erased : Granule := ⟨erasedData, .matching erasedData []⟩

/-- A granule programmed once with `d`. -/
def Granule.programmed (d : Data) : Granule := ⟨d, .matching d []⟩

/-- The number of a mark in the mark field; a patch-map bit 0 does not exist, and 12 is no bit of the field. -/
def markNumber : Mark → Nat
  | .commit => 0
  | .supersede => 1
  | .retire => 2
  | .fixed => 3
  | .bad => 4
  | .patch g => if g = 0 then 12 else 4 + g

/-- The mark field bit of a mark. -/
def markBit (m : Mark) : BitVec 12 := 1#12 <<< markNumber m

/-- Each mark is read by majority of its three copies (R29). -/
def MarkField.voted (f : MarkField) : BitVec 12 :=
  (f.copy0 &&& f.copy1) ||| (f.copy0 &&& f.copy2) ||| (f.copy1 &&& f.copy2)

/-- A mark reads set. -/
def MarkField.has (f : MarkField) (m : Mark) : Bool := f.voted.getLsbD (markNumber m)

/-- The patch-map bits as read, bit `i` for granule `i + 1`. -/
def patchMapOf (voted : BitVec 12) : BitVec 7 := voted.extractLsb' 5 7

/-- What the array holds in a part from the factory (R165, Remark; log entry 4). -/
def factoryGranule (k : Nat) : Granule :=
  if k = granuleKey (Loc.setup .a) 0 then Granule.programmed factorySetupHeader
  else if k = granuleKey (Loc.setup .a) 1 then Granule.programmed factorySetupContents
  else Granule.erased

/-- The mark fields of a part from the factory (R165, Remark; log entry 4). -/
def factoryMarks (k : Nat) : MarkField :=
  if k = (Loc.setup .a).index then ⟨markBit .commit, markBit .commit, markBit .commit⟩ else MarkField.erased

/-- A granule of the array. -/
def State.granule (s : State) (l : Loc) (g : Nat) : Granule :=
  sparseGet factoryGranule s.granules (granuleKey l g)

/-- Write a granule of the array. -/
def State.setGranule (s : State) (l : Loc) (g : Nat) (v : Granule) : State :=
  { s with granules := sparseSet factoryGranule s.granules (granuleKey l g) v }

/-- The mark field of a cell. -/
def State.markField (s : State) (l : Loc) : MarkField := sparseGet factoryMarks s.marks l.index

/-- Write the mark field of a cell. -/
def State.setMarkField (s : State) (l : Loc) (f : MarkField) : State :=
  { s with marks := sparseSet factoryMarks s.marks l.index f }

/-! ### Reading a granule (2.4) -/

/-- How many bits of a difference are 1; 3 stands for three or more. -/
def wrongBits (d : Data) : Nat :=
  let d1 := d &&& (d - 1)
  let d2 := d1 &&& (d1 - 1)
  if d = 0 then 0 else if d1 = 0 then 1 else if d2 = 0 then 2 else 3

/-- A read by what the check bits say (R33): the one bit they show wrong is corrected in the data returned. -/
def readAsReported (raw : Data) (r : CheckReport) : Outcome × Data :=
  match r with
  | .noError => (.clean, raw)
  | .oneError none => (.corrected, raw)
  | .oneError (some b) => (.corrected, raw ^^^ (1#256 <<< b.val))
  | .manyErrors => (.uncorrectable, raw)

/-- A granule read with correction (R33). With one bit wrong, correcting it gives what the check bits were computed
for. -/
def Granule.readGuarded (g : Granule) : Outcome × Data :=
  match g.check with
  | .matching coded wrong =>
    match wrongBits (g.data ^^^ coded) + wrong.length with
    | 0 => (.clean, g.data)
    | 1 => (.corrected, coded)
    | 2 => (.uncorrectable, g.data)
    | _ => readAsReported g.data (Config.unstatedRead g.data (some coded) wrong 0)
  | .unmatched tag wrong => readAsReported g.data (Config.unstatedRead g.data none wrong tag)

/-- A granule read (R33, R34): a data granule whose patch-map bit reads set is read raw. -/
def State.readGranule (s : State) (l : Loc) (g : Nat) : Outcome × Data :=
  if 1 ≤ g ∧ (s.markField l).has (.patch g) then (.unguarded, (s.granule l g).data)
  else (s.granule l g).readGuarded

/-- A read gave an erased granule: 32 bytes of FFH with the outcome CLEAN (R32). -/
def readsErased (r : Outcome × Data) : Bool := r.1 == .clean && r.2 == erasedData

/-- The rank of an outcome in CLEAN < UNGUARDED < CORRECTED < UNCORRECTABLE (R35). -/
def Outcome.rank : Outcome → Nat
  | .clean => 0
  | .unguarded => 1
  | .corrected => 2
  | .uncorrectable => 3

/-- The worse of two outcomes (R35). -/
def Outcome.worse (a b : Outcome) : Outcome := if a.rank < b.rank then b else a

/-- The worst outcome of an operation (R35). -/
def worstOutcome (rs : List (Outcome × Data)) : Outcome := rs.foldl (fun w r => w.worse r.1) .clean

/-! ### Programming and erasing (R26, R30) -/

/-- Check bit `k` of the check bits computed for `d` is programmed; those of erased data are erased (R26). -/
def checkBit (d : Data) (k : Nat) : Bool := d != erasedData && Config.checkProgrammed d k

/-- The check bits after a program: a bit is programmed where the bits held or the new ones have it programmed (R26). So
a program of erased data leaves them; over those of erased data, or of the data programmed, only check bits that were
wrong can be, and of these the ones that the new check bits program are right again; any other combination is of no
known data. -/
def programCheck (old : CheckBits) (new : Data) (tag : Nat) : CheckBits :=
  if new = erasedData then old
  else
    match old with
    | .matching coded wrong =>
      if coded = erasedData ∨ coded = new then
        .matching new (wrong.filter (fun k => !checkBit new k))
      else .unmatched tag []
    | .unmatched _ _ => .unmatched tag []

/-- A granule after a program of `new`: the bitwise AND of the old and the new bytes (R26). -/
def Granule.program (g : Granule) (new : Data) (tag : Nat) : Granule :=
  ⟨g.data &&& new, programCheck g.check new tag⟩

/-- The effect of a granule program step. -/
def State.programGranule (s : State) (l : Loc) (g : Nat) (new : Data) : State :=
  { s.setGranule l g ((s.granule l g).program new s.free) with free := s.free + 1 }

/-- The effect of a mark program step: every copy of every mark named is programmed. -/
def State.programMarks (s : State) (l : Loc) (marks : BitVec 12) : State :=
  let f := s.markField l
  s.setMarkField l ⟨f.copy0 ||| marks, f.copy1 ||| marks, f.copy2 ||| marks⟩

/-- The granules of a cell. -/
def cellGranules : List Nat := [0, 1, 2, 3, 4, 5, 6, 7]

/-- The effect of a cell erase step: every granule, check bit and mark copy is erased. -/
def State.eraseCell (s : State) (l : Loc) : State :=
  (cellGranules.foldl (fun s g => s.setGranule l g Granule.erased) s).setMarkField l MarkField.erased

/-- A mark program step ends COMPLETE when every mark named reads set afterwards (Table 2-3). -/
def State.marksTook (s : State) (l : Loc) (marks : BitVec 12) : Bool :=
  (s.markField l).voted &&& marks == marks

/-- A cell erase step ends COMPLETE when every granule reads erased and CLEAN and every mark copy is erased
afterwards (Table 2-3). -/
def State.eraseTook (s : State) (l : Loc) : Bool :=
  cellGranules.all (fun g => readsErased (s.granule l g).readGuarded) && s.markField l == MarkField.erased

/-! ### Bits that change of themselves, and interrupted steps -/

/-- Toggle one check bit. -/
def CheckBits.upset (k : Nat) : CheckBits → CheckBits
  | .matching coded wrong => .matching coded (toggleNum k wrong)
  | .unmatched tag wrong => .unmatched tag (toggleNum k wrong)

/-- Toggle one copy of a mark. -/
def MarkField.upset (f : MarkField) (m : Mark) (copy : Nat) : MarkField :=
  match copy with
  | 0 => { f with copy0 := f.copy0 ^^^ markBit m }
  | 1 => { f with copy1 := f.copy1 ^^^ markBit m }
  | 2 => { f with copy2 := f.copy2 ^^^ markBit m }
  | _ => f

/-- One bit of a cell changes of itself. A bit that the cell does not have changes nothing. -/
def State.upset (s : State) (l : Loc) : Upset → State
  | .dataBit g b =>
    if g < 8 then s.setGranule l g { s.granule l g with data := (s.granule l g).data ^^^ (1#256 <<< b) } else s
  | .checkBit g k =>
    if g < 8 then s.setGranule l g { s.granule l g with check := (s.granule l g).check.upset k } else s
  | .markCopy m k => s.setMarkField l ((s.markField l).upset m k)

/-- Bits of a cell change of themselves, one after another. -/
def State.upsets (s : State) (l : Loc) (us : List Upset) : State := us.foldl (fun s u => s.upset l u) s

/-- The bits of `new` where `moved` has a 1, those of `old` elsewhere. -/
def mixBits {n : Nat} (moved old new : BitVec n) : BitVec n := (new &&& moved) ||| (old &&& ~~~moved)

/-- Check bits of which those numbered `ks` are as `other` has them (R47). A moved bit is wrong for the base's data when it
is not as computed for them. -/
def CheckBits.withBitsOf (base other : CheckBits) (ks : List Nat) (tag : Nat) : CheckBits :=
  if base = other ∨ ks = [] then base
  else
    match base, other with
    | .matching coded wrong, .matching coded' wrong' =>
      .matching coded
        ((ks.filter (fun k => (checkBit coded' k != wrong'.contains k) != checkBit coded k)).foldr insertNum
          (wrong.filter (fun k => !ks.contains k)))
    | _, _ => .unmatched tag []

/-- A granule after a step that would have left `new` is abandoned (R47). -/
def Granule.interrupted (old new : Granule) (r : GranuleResidue) (tag : Nat) : Granule :=
  ⟨mixBits r.moved old.data new.data,
    match r.check with
    | .only ks => old.check.withBitsOf new.check ks tag
    | .allBut ks => new.check.withBitsOf old.check ks tag⟩

/-- The copies of a residue that are copy number `k` of some mark. -/
def residueCopies (cs : List (Mark × Nat)) (k : Nat) : BitVec 12 :=
  cs.foldl (fun w c => if c.2 = k then w ||| markBit c.1 else w) 0

/-- A mark field after a step that would have left `new` is abandoned (R47). -/
def MarkField.interrupted (old new : MarkField) (cs : List (Mark × Nat)) : MarkField :=
  ⟨mixBits (residueCopies cs 0) old.copy0 new.copy0, mixBits (residueCopies cs 1) old.copy1 new.copy1,
    mixBits (residueCopies cs 2) old.copy2 new.copy2⟩

/-- One granule of an abandoned step. Each granule takes a free value of its own. -/
def State.interruptGranule (s : State) (l : Loc) (new : Granule → Granule) (r : GranuleResidue) : State :=
  let old := s.granule l r.granule
  { s.setGranule l r.granule (old.interrupted (new old) r s.free) with free := s.free + 1 }

/-- What an abandoned engine step leaves on its cell (R47). -/
def State.abandonStep (s : State) (r : Residue) : EngineStep → State
  | .read _ _ _ => s
  | .program l g d =>
    (r.granules.filter (fun x => x.granule == g)).foldl
      (fun s' x => s'.interruptGranule l (fun old => old.program d s.free) x) { s with free := s.free + 1 }
  | .mark l ms =>
    let f := s.markField l
    s.setMarkField l (f.interrupted ⟨f.copy0 ||| ms, f.copy1 ||| ms, f.copy2 ||| ms⟩ r.copies)
  | .erase l =>
    let s' := (r.granules.filter (fun x => x.granule < 8)).foldl
      (fun s x => s.interruptGranule l (fun _ => Granule.erased) x) s
    s'.setMarkField l ((s'.markField l).interrupted MarkField.erased r.copies)

/-! ### Headers and classification (2.3) -/

/-- The header of a cell of a numbered pair, when it is valid (R27). The read must have given CLEAN or CORRECTED. The
order of the bytes of a field is the model's choice, log entry 34. -/
def headerOf (r : Outcome × Data) : Option Header :=
  let d := r.2
  let key := word32 (byteAt d 0) (byteAt d 1) (byteAt d 2) (byteAt d 3)
  let entry := (word16 (byteAt d 4) (byteAt d 5)).toNat
  let gen := word16 (byteAt d 7) (byteAt d 8)
  let length := (byteAt d 9).toNat
  match clsOfByte (byteAt d 6) with
  | none => none
  | some cls =>
    if (r.1 = .clean ∨ r.1 = .corrected) ∧ key ≠ 0 ∧ key ≠ BitVec.allOnes 32 ∧ entry ≤ 511 ∧ gen ≠ 0 ∧
        1 ≤ length ∧ length ≤ 224 ∧ d.extractLsb' 80 176 = BitVec.allOnes 176 then
      some ⟨key, entry, cls, gen, length⟩
    else none

/-- The header granule the engine programs (R66, Table 2-1), most significant bytes first; log entry 34. -/
def headerData (key : Key) (entry : Nat) (cls : Cls) (gen : Gen) (length : Nat) : Data :=
  dataOfBytes (be32 key ++ be16 entry ++ [BitVec.ofNat 8 cls.val] ++ be16 gen.toNat ++ [BitVec.ofNat 8 length])

/-- The setup generation of a setup header, when it is valid (R165). The order of the bytes is log entry 34. -/
def setupHeaderOf (r : Outcome × Data) : Option Gen :=
  let d := r.2
  let gen := word16 (byteAt d 4) (byteAt d 5)
  if (r.1 = .clean ∨ r.1 = .corrected) ∧ bytesAt d 0 4 = setupTag ∧ gen ≠ 0 ∧
      d.extractLsb' 48 208 = BitVec.allOnes 208 then some gen
  else none

/-- The header granule of a setup cell (Table 10-1), most significant bytes first; log entry 34. -/
def setupHeaderData (gen : Gen) : Data := dataOfBytes (setupTag ++ be16 gen.toNat)

/-- Some mark or patch-map bit other than the commit mark reads set. -/
def otherMarkSet (voted : BitVec 12) : Bool := voted &&& ~~~(markBit .commit ||| markBit .bad) != 0

/-- Table 2-4: the first line that applies. `allErased` says that every granule read erased; line 2 asks for every copy
of every mark to be erased too. -/
def classify (f : MarkField) (headerValid allErased : Bool) : Classification :=
  if f.has .bad then .bad
  else if allErased && f == MarkField.erased then .erased
  else if !headerValid then .debris
  else if f.has .retire && f.has .commit then .retired
  else if f.has .retire then .debris
  else if f.has .commit && f.has .supersede then .superseded
  else if f.has .commit then .committed
  else if otherMarkSet f.voted then .debris
  else .written

/-! ### The directory -/

/-- An entry after a reset: FREE on its home pair (R3). -/
def homeEntry (i : Nat) : Entry := ⟨.free, some i, 0⟩

/-- An entry of the directory. -/
def State.entry (s : State) (i : Nat) : Entry := sparseGet homeEntry s.entries i

/-- Write an entry. -/
def State.setEntry (s : State) (i : Nat) (e : Entry) : State :=
  { s with entries := sparseSet homeEntry s.entries i e }

/-- The entry indices, 0 to 511. -/
def entryIndices : List Nat := List.range' 0 512

/-- The key of an entry, present in every state but FREE. -/
def Entry.key? (e : Entry) : Option Key :=
  match e.body with
  | .free => none
  | .nascent k _ => some k
  | .live l => some l.key
  | .retiring k _ _ => some k

/-- The class of an entry, present in every state but FREE. -/
def Entry.cls? (e : Entry) : Option Cls :=
  match e.body with
  | .free => none
  | .nascent _ c => some c
  | .live l => some l.cls
  | .retiring _ c _ => some c

/-- The fields of a LIVE entry. -/
def Entry.live? (e : Entry) : Option Live :=
  match e.body with
  | .live l => some l
  | _ => none

/-- The entry is FREE. -/
def Entry.isFree (e : Entry) : Bool := e.body == .free

/-- The entry is LIVE. -/
def Entry.isLive (e : Entry) : Bool := e.live?.isSome

/-- The entry is NASCENT or LIVE, and so can be its key's active index (R5). -/
def Entry.isActive (e : Entry) : Bool :=
  match e.body with
  | .nascent _ _ | .live _ => true
  | _ => false

/-- The entry is RETIRING. -/
def Entry.isRetiring (e : Entry) : Bool :=
  match e.body with
  | .retiring _ _ _ => true
  | _ => false

/-- Change the fields of an entry that is LIVE. -/
def Entry.mapLive (f : Live → Live) (e : Entry) : Entry :=
  match e.body with
  | .live l => { e with body := .live (f l) }
  | _ => e

/-- Change the fields of an entry, if it is LIVE. -/
def State.modLive (s : State) (i : Nat) (f : Live → Live) : State :=
  s.setEntry i ((s.entry i).mapLive f)

/-- The current cell of a LIVE entry that has a pair. -/
def Entry.currentLoc (e : Entry) : Option Loc :=
  match e.body, e.pair with
  | .live l, some p => some (Loc.num p l.cell)
  | _, _ => none

/-- The pair is in the BAD set. -/
def State.isBad (s : State) (p : Nat) : Bool := s.bad.contains p

/-- The entry is LIVE and its pair is in the BAD set (R14). -/
def State.stranded (s : State) (i : Nat) : Bool :=
  (s.entry i).isLive && (match (s.entry i).pair with | some p => s.isBad p | none => false)

/-! ### Classes -/

/-- The policy of a class in the setup record in force (R166). -/
def State.policy (s : State) (c : Cls) : ClassPolicy := s.setup.contents.classes[c]

/-- The class is inhibited (R139). -/
def State.inhibited (s : State) (c : Cls) : Bool := s.inhibit.getLsbD c.val

/-! ### Ports -/

/-- A port. -/
def State.port (s : State) : Port → PortState
  | .m => s.portM
  | .s => s.portS

/-- Change what a port holds. -/
def State.modPort (s : State) (p : Port) (f : PortState → PortState) : State :=
  { s with
    portM := if p = .m then f s.portM else s.portM
    portS := if p = .s then f s.portS else s.portS }

/-- The other port. -/
def otherPort : Port → Port
  | .m => .s
  | .s => .m

/-- Place an answer in the port's response slot (R177). -/
def State.answer (s : State) (p : Port) (st : Status) (data : Bytes) : State :=
  s.modPort p (fun ps => { ps with slot := .ready st data })

/-- The party of a port's reads (R35). -/
def portParty : Port → Party
  | .m => .portM
  | .s => .portS

/-! ### Buffers and holds -/

/-- Buffers 0 to 5 belong to Port M, 6 and 7 to Port S (R48). -/
def bufferPort (b : Fin 8) : Port := if b.val < 6 then .m else .s

/-- Write a staging buffer. -/
def State.setBuffer (s : State) (b : Fin 8) (v : Buffer) : State := { s with buffers := s.buffers.set b v }

/-- The byte a buffer holds at a position (R48): FFH where nothing was staged. -/
def Buffer.byte (b : Buffer) (pos : Nat) : Byte := sparseGet (fun _ => 0xFF#8) b.data pos

/-- The hold slots of a port: 0 to 3 for Port M, 4 to 7 for Port S (R125). -/
def slotsOf : Port → List (Fin 8)
  | .m => [0, 1, 2, 3]
  | .s => [4, 5, 6, 7]

/-- Write a hold slot. -/
def State.setHold (s : State) (i : Fin 8) (h : HoldSlot) : State := { s with holds := s.holds.set i h }

/-- The entry a slot is on, if it is occupied. -/
def HoldSlot.entry? : HoldSlot → Option Nat
  | .empty => none
  | .active _ e _ _ => some e
  | .lapsed _ e _ => some e

/-- The key of an occupied slot. -/
def HoldSlot.key? : HoldSlot → Option Key
  | .empty => none
  | .active _ _ k _ => some k
  | .lapsed _ _ k => some k

/-- The slot is ACTIVE on the entry. -/
def HoldSlot.activeOn (e : Nat) : HoldSlot → Bool
  | .active _ e' _ _ => e' == e
  | _ => false

/-- The slot is LAPSED on the entry. -/
def HoldSlot.lapsedOn (e : Nat) : HoldSlot → Bool
  | .lapsed _ e' _ => e' == e
  | _ => false

/-- When an entry becomes FREE, every slot on it becomes EMPTY (R132). -/
def State.emptyHoldsOn (s : State) (e : Nat) : State :=
  { s with holds := s.holds.map (fun h => if h.entry? = some e then .empty else h) }

/-- The port has an ACTIVE slot on the entry. -/
def State.holdsActive (s : State) (p : Port) (e : Nat) : Bool :=
  (slotsOf p).any (fun i => (s.holds[i]).activeOn e)

/-- The port of the entry's ACTIVE slot (R19). -/
def State.holder (s : State) (e : Nat) : Option Port :=
  if s.holdsActive .m e then some .m else if s.holdsActive .s e then some .s else none

end Sys2Proof.Machine
end

