-- ==== Sys2Proof/Machine/Flags.lean ====
section
/-! DEFINITION. The event flags, the event byte and the attention lines of the ports (11.3). -/

namespace Sys2Proof.Machine

/-- The event flags of a port (Table 11-2). -/
inductive Event where
  | holdLapsed
  | uncorrectable
  | censusDone
  | spareLow
  | setupDamaged
  | frameError
  | overrun
deriving DecidableEq, Repr

/-- The position of a flag in the event byte (Table 11-5). -/
def Event.number : Event → Nat
  | .holdLapsed => 1
  | .uncorrectable => 2
  | .censusDone => 3
  | .spareLow => 4
  | .setupDamaged => 5
  | .frameError => 6
  | .overrun => 7

/-- The flag's bit in the event byte. -/
def Event.bit (e : Event) : Byte := 1#8 <<< e.number

/-- The flag is set on the port. -/
def PortState.has (ps : PortState) (e : Event) : Bool := ps.flags.getLsbD e.number

/-- Set an event flag on a port; a flag already set stays set (R178). -/
def State.setFlag (s : State) (p : Port) (e : Event) : State :=
  s.modPort p (fun ps => { ps with flags := ps.flags ||| e.bit })

/-- Set an event flag on both ports. -/
def State.setFlagBoth (s : State) (e : Event) : State :=
  { s with
    portM := { s.portM with flags := s.portM.flags ||| e.bit }
    portS := { s.portS with flags := s.portS.flags ||| e.bit } }

/-- Clear the flags named in a mask; bit 0 names RESULT_READY, which is no flag (R179). -/
def State.clearFlags (s : State) (p : Port) (mask : Byte) : State :=
  s.modPort p (fun ps => { ps with flags := ps.flags &&& ~~~mask })

/-- The event byte (Table 11-5): the flags, and RESULT_READY while the completion list is not empty (R178). -/
def PortState.eventByte (ps : PortState) : Byte :=
  ps.flags ||| (if ps.results.isEmpty then 0#8 else 1#8)

/-- The attention line of a port is driven low (R181); while the part is held in reset it is released (R150). -/
def State.attnLow (s : State) (p : Port) : Bool :=
  s.phase != .held && (s.port p).eventByte &&& (s.port p).mask != 0

end Sys2Proof.Machine
end

