-- ==== Sys2Proof/Machine/Directory.lean ====
section
/-! DEFINITION. The record directory: the key map, resolution, allocation and the transitions of an entry that are not
part of a job's writing (Chapter 1). -/

namespace Sys2Proof.Machine

/-- A valid key: neither 00000000H nor FFFFFFFFH (R4). -/
def keyValid (k : Key) : Bool := k != 0#32 && k != 0xFFFFFFFF#32

/-- The active index of a key: its NASCENT or LIVE entry (R5). -/
def State.activeIndex (s : State) (k : Key) : Option Nat :=
  entryIndices.find? (fun i => (s.entry i).isActive && (s.entry i).key? == some k)

/-- The retiring list of a key: its RETIRING entries in ascending index order (R5). -/
def State.retiringList (s : State) (k : Key) : List Nat :=
  entryIndices.filter (fun i => (s.entry i).isRetiring && (s.entry i).key? == some k)

/-- Resolution of a key that names an existing record (R6): the index, or the status that refuses. -/
def State.resolve (s : State) (k : Key) : Except Status Nat :=
  match s.activeIndex k with
  | some i => .ok i
  | none => if (s.retiringList k).isEmpty then .error .notFound else .error .gone

/-- The entry that allocation chooses: the lowest FREE entry whose jobs count is 0 (R15). -/
def State.allocatable (s : State) : Option Nat :=
  entryIndices.find? (fun i => (s.entry i).isFree && (s.entry i).jobs == 0)

/-- The free entry count (R22). -/
def State.freeCount (s : State) : Nat := (entryIndices.filter (fun i => (s.entry i).isFree)).length

/-- The live entry count (R22). -/
def State.liveCount (s : State) : Nat := (entryIndices.filter (fun i => (s.entry i).isLive)).length

/-- jobs is raised at an acceptance (R12). -/
def State.raiseJobs (s : State) (i : Nat) : State :=
  s.setEntry i { s.entry i with jobs := (s.entry i).jobs + 1 }

/-- jobs is lowered at a completion (R12). -/
def State.lowerJobs (s : State) (i : Nat) : State :=
  s.setEntry i { s.entry i with jobs := (s.entry i).jobs - 1 }

/-- An entry becomes FREE (R10, R13): pair becomes NONE when it is in the BAD set, jobs is carried, and the slots on
the entry are emptied (R132). -/
def State.freeEntry (s : State) (i : Nat) : State :=
  let e := s.entry i
  let pair := match e.pair with
    | some p => if s.isBad p then none else some p
    | none => none
  (s.setEntry i { e with body := .free, pair := pair }).emptyHoldsOn i

/-- A FREE entry is allocated (R8): it takes key and class, its jobs count becomes 1, its pair is left as it was. -/
def State.allocate (s : State) (i : Nat) (k : Key) (c : Cls) : State :=
  s.setEntry i { body := .nascent k c, pair := (s.entry i).pair, jobs := 1 }

/-- A pair joins the BAD set; one that is in it stays there once (R100). -/
def State.addBad (s : State) (p : Nat) : State := { s with bad := insertNum p s.bad }

/-- A take of a spare (R99, R101): the lowest free pair becomes the reserved pair, and a count left at or below
spare_threshold sets SPARE_LOW on both ports. None when no spare is free. -/
def State.takeSpare (s : State) : Option (Nat × State) :=
  match s.pool with
  | [] => none
  | p :: rest =>
    let s' := { s with pool := rest, reserved := some p }
    some (p, if rest.length ≤ s.setup.contents.spareThreshold.toNat then s'.setFlagBoth .spareLow else s')

end Sys2Proof.Machine
end

