-- ==== Sys2Proof/Machine/Monitor.lean ====
section
/-! DEFINITION. The integrity monitor: reports, the capture record, the damaged flag, nomination and the refresh list
(Chapter 6). -/

namespace Sys2Proof.Machine

/-- The integrity counts never exceed 63 (R110). -/
def captureLimit : Nat := 63

/-- The refresh list never holds more than 16 entries (R117). -/
def refreshLimit : Nat := 16

/-- A report in the capture record (R111). -/
def Capture.take (c : Capture) (r : Report) : Capture :=
  match r.outcome with
  | .corrected =>
    { c with
      correctedCount := if c.correctedCount < captureLimit then c.correctedCount + 1 else c.correctedCount
      firstCorrected := c.firstCorrected.orElse (fun _ => some r.place)
      latestCorrected := some r.place }
  | .uncorrectable =>
    { c with
      uncorrectableCount :=
        if c.uncorrectableCount < captureLimit then c.uncorrectableCount + 1 else c.uncorrectableCount
      firstUncorrectable := c.firstUncorrectable.orElse (fun _ => some r.place)
      latestUncorrectable := some r.place }
  | .clean | .unguarded => c

/-- A LIVE entry has its refresh_wanted flag set. -/
def Entry.wanted (e : Entry) : Bool :=
  match e.body with
  | .live l => l.refreshWanted
  | _ => false

/-- The entries whose refresh_wanted flag is set, in index order. -/
def State.wantedIndices (s : State) : List Nat := entryIndices.filter (fun i => (s.entry i).wanted)

/-- A sweep of an empty list (R119): the wanted entries in index order, up to 16; overflow stays set when some are
left. -/
def sweep (wanted : List Nat) : RefreshList :=
  ⟨wanted.take refreshLimit, decide (refreshLimit < wanted.length)⟩

/-- An entry leaves the list (R118). A removal that leaves it empty with overflow set is taken together with a sweep
over the entries that are then wanted (R119). -/
def RefreshList.remove (r : RefreshList) (i : Nat) (wanted : List Nat) : RefreshList :=
  if r.list.contains i then
    let left := r.list.filter (fun j => j != i)
    if left.isEmpty && r.overflow then sweep wanted else { r with list := left }
  else r

/-- An entry's refresh_wanted flag is cleared and the entry leaves the refresh list (R118). -/
def State.unlist (s : State) (i : Nat) : State :=
  let s' := s.modLive i (fun l => { l with refreshWanted := false })
  { s' with refresh := s.refresh.remove i s'.wantedIndices }

/-- The damaged flag of a LIVE entry is set, and the entry leaves the refresh list (R114). -/
def State.setDamaged (s : State) (i : Nat) : State :=
  (s.modLive i (fun l => { l with damaged := true })).unlist i

/-- The entry may be nominated: fixed, damaged and refresh_wanted clear, and refresh_ok set for its class (R116). -/
def State.nominable (s : State) (i : Nat) : Bool :=
  match (s.entry i).body with
  | .live l => !l.fixed && !l.damaged && !l.refreshWanted && (s.policy l.cls).refreshOk
  | _ => false

/-- A nomination (R116): refresh_wanted is set, and the entry is appended unless the list is full. -/
def State.nominate (s : State) (i : Nat) : State :=
  if s.nominable i then
    { s.modLive i (fun l => { l with refreshWanted := true }) with
      refresh :=
        if s.refresh.list.length < refreshLimit then { s.refresh with list := s.refresh.list ++ [i] }
        else { s.refresh with overflow := true } }
  else s

/-- The LIVE entry whose current cell a report concerns (R109). -/
def State.concerned (s : State) (p : Location) : Option Nat :=
  match p.entry with
  | some i => if (s.entry i).currentLoc = some p.loc then some i else none
  | none => none

/-- What a report does to the entry it concerns (Table 6-1). The scan's reports do nothing (R114, R116). -/
def State.reportEntry (s : State) (r : Report) : State :=
  if r.place.party = .scan then s
  else match s.concerned r.place with
    | none => s
    | some i =>
      match r.outcome with
      | .clean | .unguarded => s
      | .corrected => s.nominate i
      | .uncorrectable => if r.place.granule = 0 then s.nominate i else s.setDamaged i

/-- The UNCORRECTABLE event of a report (R115). -/
def State.reportEvent (s : State) (r : Report) : State :=
  if r.outcome = .uncorrectable ∧ r.place.party ≠ .scan then s.setFlagBoth .uncorrectable else s

/-- A report is taken: all its actions together (R109, Table 6-1). -/
def State.report (s : State) (r : Report) : State :=
  ({ s with capture := s.capture.take r }.reportEntry r).reportEvent r

end Sys2Proof.Machine
end

