-- ==== Sys2Proof/Machine/Census.lean ====
section
/-! DEFINITION. The census unit: the walk, the digest, the stale rule (Chapter 8). -/

namespace Sys2Proof.Machine

/-- A class is within a scope, where none is ALL (R143). -/
def inScope (scope : Option Cls) (c : Cls) : Bool :=
  match scope with
  | none => true
  | some c' => c == c'

/-- The entry is LIVE and within the scope (R143). -/
def Entry.visitable (e : Entry) (scope : Option Cls) : Bool :=
  match e.body with
  | .live l => inScope scope l.cls
  | _ => false

/-- The first LIVE entry within the scope at or above an index. -/
def State.nextVisit (s : State) (scope : Option Cls) (cursor : Nat) : Option Nat :=
  entryIndices.find? (fun i => decide (cursor ≤ i) && (s.entry i).visitable scope)

/-- The number of entries, and the cursor of a walk that has passed the last (Table 8-1). -/
def entryCount : Nat := 512

/-- The unit takes up an entry (R143): it claims the header read of the first entry of the scope from the cursor on, or
the walk ends (R147). -/
def State.takeUp (s : State) (c : CensusRun) : State :=
  match s.nextVisit c.scope c.cursor with
  | some i =>
    { s with
      census := some { c with cursor := i, current := none }
      arb := { s.arb with waitCensus := some (.header i) } }
  | none =>
    { s with
      census := some { c with cursor := entryCount, current := none, state := .done }
      arb := { s.arb with waitCensus := none } }.setFlag c.port .censusDone

/-- A census begins (Table 8-2, order 4). -/
def CensusRun.start (scope : Option Cls) (p : Port) : CensusRun :=
  ⟨.running, scope, p, 0, BitVec.allOnes 32, 0, 0, 0, 0, false, none⟩

/-- The digest field: the register with its final inversion (R145). -/
def CensusRun.digest (c : CensusRun) : BitVec 32 := c.crc ^^^ BitVec.allOnes 32

/-- The census unit is told of an event of Table 8-3 for an entry of a class (R146). -/
def State.tellCensus (s : State) (c : Cls) : State :=
  { s with census := s.census.map (fun r =>
      if r.state = .running ∧ inScope r.scope c then { r with stale := true } else r) }

/-- What the unit records at the grant of a header read (R144). -/
def CensusEntry.of (i : Nat) (l : Live) (loc : Loc) : CensusEntry :=
  ⟨i, l.key, l.cls, l.gen, l.length, loc, []⟩

/-- The grant of the census's waiting claim (R144). A header grant looks at the entry again: if it is no longer LIVE
the grant ends without a read and the unit takes up the next entry. -/
def State.grantCensus (s : State) (claim : CensusClaim) : State :=
  let s' := { s with arb := { s.arb with waitCensus := none } }
  match s.census with
  | none => s'
  | some c =>
    match claim with
    | .header i =>
      match (s.entry i).body, (s.entry i).currentLoc with
      | .live l, some loc =>
        { s' with
          census := some { c with current := some (CensusEntry.of i l loc) }
          arb := { s'.arb with user := some (.census loc 0 i true) } }
      | _, _ => s'.takeUp c
    | .data g =>
      match c.current with
      | some ce => { s' with arb := { s'.arb with user := some (.census ce.loc g ce.entry true) } }
      | none => s'

/-- The last data granule of a record: 1 + ((length - 1) div 32) (R28). -/
def lastGranule (length : Nat) : Nat := 1 + (length - 1) / 32

/-- The counts of a census read (R144). -/
def CensusRun.count (c : CensusRun) (o : Outcome) : CensusRun :=
  match o with
  | .clean => c
  | .unguarded => { c with unguarded := c.unguarded + 1 }
  | .corrected => { c with corrected := c.corrected + 1 }
  | .uncorrectable => { c with uncorrectable := c.uncorrectable + 1 }

/-- The bytes a visited entry folds into the digest (R145). -/
def CensusEntry.folded (e : CensusEntry) : Bytes :=
  be32 e.key ++ be16 e.gen.toNat ++ [BitVec.ofNat 8 e.length, BitVec.ofNat 8 e.cls.val] ++ e.payload.take e.length

/-- A counted census read of granule `g` has given `r`: the outcome enters the counts, the data the payload, and the unit
claims its next granule, or folds the entry into the digest and takes up the next entry (R143 to R145). -/
def State.censusRead (s : State) (g : Nat) (r : Outcome × Data) : State :=
  match s.census with
  | none => s
  | some c =>
    match c.current with
    | none => s
    | some e =>
      let c := c.count r.1
      let c := if g = 0 then { c with visited := c.visited + 1 } else c
      let e := if g = 0 then e else { e with payload := e.payload ++ bytesAt r.2 0 32 }
      if g < lastGranule e.length then
        { s with
          census := some { c with current := some e }
          arb := { s.arb with waitCensus := some (.data (g + 1)) } }
      else s.takeUp { c with crc := crc32Bytes c.crc e.folded, cursor := c.cursor + 1 }

end Sys2Proof.Machine
end

