-- ==== Sys2Proof/Machine/Arbiter.lean ====
section
/-! DEFINITION. The array arbiter: grants, suspension and resumption of engine steps, step boundaries (2.6). -/

namespace Sys2Proof.Machine

/-- The cell an engine step works on. -/
def EngineStep.loc : EngineStep → Loc
  | .read l _ _ => l
  | .program l _ _ => l
  | .mark l _ => l
  | .erase l => l

/-- How often a step may be suspended (R43): 6 times for a cell erase, 2 for a granule program; the other steps are
never suspended. -/
def EngineStep.budget : EngineStep → Nat
  | .erase _ => 6
  | .program _ _ _ => 2
  | .read _ _ _ => 0
  | .mark _ _ => 0

/-- The waiting READ of a port. -/
def Arbiter.waiting (a : Arbiter) : Port → Option ReadClaim
  | .m => a.waitM
  | .s => a.waitS

/-- Set or withdraw the waiting READ of a port. -/
def Arbiter.setWaiting (a : Arbiter) (p : Port) (c : Option ReadClaim) : Arbiter :=
  { a with
    waitM := if p = .m then c else a.waitM
    waitS := if p = .s then c else a.waitS }

/-- The ports, the one that is not the last-granted port first (R41). -/
def Arbiter.portOrder (a : Arbiter) : List Port := [otherPort a.lastPort, a.lastPort]

/-- The ports whose READs wait, in the order of their grants. -/
def Arbiter.waitingPorts (a : Arbiter) : List Port :=
  a.portOrder.filter (fun p => (a.waiting p).isSome)

/-- A waiting READ may be granted while a step is suspended, or suspend it: it does not need the cell the step is
working on (R43, R45). -/
def Arbiter.readsElsewhere (a : Arbiter) (p : Port) (step : EngineStep) : Bool :=
  match a.waiting p with
  | some c => c.loc != step.loc
  | none => false

/-- The step in progress is suspended when a waiting port READ of another cell finds it within its budget (R43). -/
def State.suspendFor (s : State) : State :=
  match s.arb.user with
  | some (.engine step) =>
    if s.arb.suspCount < step.budget ∧ s.arb.waitingPorts.any (fun p => s.arb.readsElsewhere p step) then
      { s with
        arb := { s.arb with
          user := none
          suspended := some ⟨step, Config.suspendProgress s.free, []⟩
          suspCount := s.arb.suspCount + 1 }
        free := s.free + 1 }
    else s
  | _ => s

/-- The grant of a waiting READ (R38): the port looks at the entry again, and answers GONE or BAD_ARG at once or holds
the array for its reads with the count cut to length - offset. -/
def State.grantRead (s : State) (p : Port) (c : ReadClaim) : State :=
  let a := { s.arb.setWaiting p none with
    lastPort := p
    suspended := s.arb.suspended.map (fun sp => { sp with granted := p :: sp.granted })
    boundary := s.arb.boundary.map (fun b => { b with ports := b.ports.filter (fun q => q != p) }) }
  let s' := { s with arb := a }
  match (s.entry c.entry).body, (s.entry c.entry).currentLoc with
  | .live l, some loc =>
    if c.offset < l.length then
      let cut := min c.count (l.length - c.offset)
      { s' with arb := { s'.arb with user := some (.port ⟨p, c.entry, loc, l.gen, c.offset, cut⟩) } }
    else s'.answer p .badArg []
  | _, _ => s'.answer p .gone []

/-- The engine's next step is granted; its suspension count is 0 (R40). A READ that arrived during the grants of the
boundary may suspend it (R42, R43). -/
def State.grantEngine (s : State) (step : EngineStep) : State :=
  { s with
    arb := { s.arb with waitEngine := none, user := some (.engine step), suspCount := 0, boundary := none } }.suspendFor

/-- The READ that is granted next while a step is suspended (R43): of a port not yet granted in this suspension, and of
another cell than the step's. That two such READs go in the order of R41 is the model's, log entry 35. -/
def Arbiter.nextInSuspension (a : Arbiter) (sp : Suspended) : Option Port :=
  a.waitingPorts.find? (fun p => !sp.granted.contains p && a.readsElsewhere p sp.step)

/-- The suspended step resumes (R44); a READ that still waits may suspend it again within its budget (R43). -/
def State.resume (s : State) (sp : Suspended) : State :=
  { s with arb := { s.arb with suspended := none, user := some (.engine sp.step) } }.suspendFor

/-- One grant while the array is free and no step is suspended or no boundary is owed (R41). `engineFirst` holds at the
end of a census read: an engine step that waited then is granted before the census's next read. -/
def State.grantFree (s : State) (engineFirst : Bool) : State :=
  match s.arb.waitingPorts with
  | p :: _ =>
    match s.arb.waiting p with
    | some c => s.grantRead p c
    | none => s
  | [] =>
    match s.arb.waitCensus, s.arb.waitEngine with
    | none, none => s
    | none, some step => s.grantEngine step
    | some claim, none => s.grantCensus claim
    | some claim, some step => if engineFirst then s.grantEngine step else s.grantCensus claim

/-- One grant of a step boundary (R42): the port READs that waited, one census read, the engine's next step. -/
def State.grantBoundary (s : State) (b : Boundary) : State :=
  match s.arb.waitingPorts.find? (fun p => b.ports.contains p) with
  | some p =>
    match s.arb.waiting p with
    | some c => s.grantRead p c
    | none => s
  | none =>
    let s' := { s with arb := { s.arb with boundary := some ⟨[], false⟩ } }
    match b.census, s.arb.waitCensus, s.arb.waitEngine with
    | true, some claim, _ => s'.grantCensus claim
    | _, _, some step => s'.grantEngine step
    | _, _, none => { s with arb := { s.arb with boundary := none } }

/-- One move of the arbiter, while the array has no user (R41 to R44). -/
def State.arbiterMove (s : State) (engineFirst : Bool) : State :=
  match s.arb.user with
  | some _ => s
  | none =>
    match s.arb.suspended with
    | some sp =>
      match s.arb.nextInSuspension sp with
      | some p =>
        match s.arb.waiting p with
        | some c => s.grantRead p c
        | none => s
      | none => s.resume sp
    | none =>
      match s.arb.boundary with
      | some b => s.grantBoundary b
      | none => s.grantFree engineFirst

/-- How many moves a grant can take: a READ that is answered at once, a census claim that is taken up afresh, a
resumption or the end of a boundary is followed by another move. -/
def grantMoves : Nat := 12

/-- The arbiter moves until the array has a user or nothing waits. -/
def State.grants (engineFirst : Bool) : Nat → State → State
  | 0, s => s
  | n + 1, s => if s.arb.user.isSome then s else State.grants engineFirst n (s.arbiterMove engineFirst)

/-- The arbiter grants (R41, R42, R43). -/
def State.grant (s : State) : State := State.grants false grantMoves s

/-- The arbiter grants at the end of a census read (R41). A waiting port READ that is answered at its grant uses no array
time, and the engine's step still goes before the census's next read after it: the model's, log entry 16. -/
def State.grantAfterCensus (s : State) : State := State.grants true grantMoves s

/-- A port READ joins the waiting claimants (R37): it may suspend the step in progress, or be granted at once. -/
def State.claimRead (s : State) (p : Port) (c : ReadClaim) : State :=
  { s with arb := s.arb.setWaiting p (some c) }.suspendFor.grant

/-- The engine claims its next step (R40). -/
def State.claimStep (s : State) (step : EngineStep) : State :=
  { s with arb := { s.arb with waitEngine := some step } }

/-- The engine has another piece of work to choose (Table 3-9). -/
def State.hasWork (s : State) : Bool :=
  !s.recovery.isEmpty || !s.queue.isEmpty || !s.refresh.list.isEmpty

/-- The end of an engine step is a step boundary (R42), when the engine has a next step or other work; an engine that
becomes idle leaves the grants to R41. -/
def State.stepBoundary (s : State) : State :=
  if s.arb.waitEngine.isSome || s.hasWork then
    { s with arb := { s.arb with boundary := some ⟨s.arb.waitingPorts, s.arb.waitCensus.isSome⟩ } }.grant
  else s.grant

end Sys2Proof.Machine
end

