-- ==== Sys2Proof/Machine/Operands.lean ====
section
/-! DEFINITION. The arguments of the commands as Table 11-1 lays them out (R183), and the codes of the enumerated fields
(Tables 11-3 and 11-4). Each function of arguments answers none for an argument count that its command does not accept. -/

namespace Sys2Proof.Machine

/-! ### Arguments -/

/-- No argument: RESULT, CAPTURE, CAPTURE_CLEAR, REFRESH_LIST, CENSUS_RESULT, CENSUS_CANCEL, SETUP_READ, STATUS and
RESTART. -/
def noArgs : Bytes → Option Unit
  | [] => some ()
  | _ => none

/-- One byte: DISCARD, CENSUS, ACK and EVENT_MASK. -/
def byteArg : Bytes → Option Byte
  | [a] => some a
  | _ => none

/-- A key: FIND, HOLD, RENEW, RELEASE and FIX. -/
def keyArg : Bytes → Option Key
  | [a, b, c, d] => some (word32 a b c d)
  | _ => none

/-- LIST: from_index and filter. -/
def listArgs : Bytes → Option (Nat × Byte)
  | [h, l, f] => some ((word16 h l).toNat, f)
  | _ => none

/-- The arguments of READ. -/
structure ReadArgs where
  key : Key
  offset : Nat
  count : Nat
deriving DecidableEq, Repr

/-- READ: key, offset and count. -/
def readArgs : Bytes → Option ReadArgs
  | [a, b, c, d, o, n] => some ⟨word32 a b c d, o.toNat, n.toNat⟩
  | _ => none

/-- The arguments of STAGE. -/
structure StageArgs where
  buffer : Byte
  offset : Nat
  data : Bytes
deriving DecidableEq, Repr

/-- STAGE: buffer, offset, count and as many data bytes as count says, 1 to 224 of them. -/
def stageArgs : Bytes → Option StageArgs
  | b :: o :: n :: data =>
    if data.length = n.toNat ∧ 1 ≤ n.toNat ∧ n.toNat ≤ 224 then some ⟨b, o.toNat, data⟩ else none
  | _ => none

/-- The arguments of COMMIT. -/
structure CommitArgs where
  key : Key
  buffer : Byte
  length : Nat
  expected : Gen
  create : Byte
  cls : Byte
deriving DecidableEq, Repr

/-- COMMIT: key, buffer, length, expected generation, create and class. -/
def commitArgs : Bytes → Option CommitArgs
  | [a, b, c, d, buf, len, h, l, create, cls] =>
    some ⟨word32 a b c d, buf, len.toNat, word16 h l, create, cls⟩
  | _ => none

/-- The arguments of PATCH. -/
structure PatchArgs where
  key : Key
  offset : Nat
  expected : Gen
  data : Bytes
deriving DecidableEq, Repr

/-- PATCH: key, offset, count, expected generation and as many data bytes as count says, 1 to 224 of them. -/
def patchArgs : Bytes → Option PatchArgs
  | a :: b :: c :: d :: o :: n :: h :: l :: data =>
    if data.length = n.toNat ∧ 1 ≤ n.toNat ∧ n.toNat ≤ 224 then
      some ⟨word32 a b c d, o.toNat, word16 h l, data⟩
    else none
  | _ => none

/-- RETIRE: key and expected generation. -/
def retireArgs : Bytes → Option (Key × Gen)
  | [a, b, c, d, h, l] => some (word32 a b c d, word16 h l)
  | _ => none

/-- INHIBIT: set mask and clear mask. -/
def maskArgs : Bytes → Option (Byte × Byte)
  | [a, b] => some (a, b)
  | _ => none

/-- SETUP_WRITE: the 25 bytes of setup contents and the fix byte. -/
def setupArgs (args : Bytes) : Option (Bytes × Byte) :=
  if args.length = 26 then some (args.take 25, args.getLastD 0) else none

/-! ### Setup contents (Table 10-2, Table 11-4) -/

/-- A permission byte is in range (R166, R168). -/
def permissionOk (b : Byte) : Bool := decide (b.toNat < 16)

/-- The policy of a class from its three bytes, where `dflt` stands for the fields that are out of range (R166). -/
def policyOfBytes (dflt : ClassPolicy) (perm len lease : Byte) : ClassPolicy where
  patchOk := if permissionOk perm then perm.getLsbD 0 else dflt.patchOk
  refreshOk := if permissionOk perm then perm.getLsbD 1 else dflt.refreshOk
  sWriteOk := if permissionOk perm then perm.getLsbD 2 else dflt.sWriteOk
  retireOk := if permissionOk perm then perm.getLsbD 3 else dflt.retireOk
  maxLength := if 1 ≤ len.toNat ∧ len.toNat ≤ 224 then len else dflt.maxLength
  lease := if lease = 0 then dflt.lease else lease

/-- Byte `i` of setup contents. -/
def contentByte (bs : Bytes) (i : Nat) : Byte := bs.getD i 0

/-- The setup contents of 25 bytes, each field out of range at its factory value (R166). -/
def contentsOfBytes (bs : Bytes) : SetupContents where
  classes := Vector.ofFn (fun c : Fin 8 =>
    policyOfBytes ClassPolicy.factory (contentByte bs (3 * c.val)) (contentByte bs (3 * c.val + 1))
      (contentByte bs (3 * c.val + 2)))
  spareThreshold := if (contentByte bs 24).toNat ≤ 32 then contentByte bs 24 else SetupContents.factory.spareThreshold

/-- Every field of the 25 bytes is in the range of Table 10-2 (R166, R168). -/
def contentsInRange (bs : Bytes) : Bool :=
  (List.range 8).all (fun c =>
    permissionOk (contentByte bs (3 * c)) && decide (1 ≤ (contentByte bs (3 * c + 1)).toNat) &&
      decide ((contentByte bs (3 * c + 1)).toNat ≤ 224) && contentByte bs (3 * c + 2) != 0) &&
    decide ((contentByte bs 24).toNat ≤ 32)

/-- The permission byte of a policy (Table 11-4). -/
def permissionByte (p : ClassPolicy) : Byte :=
  (if p.patchOk then 1 else 0) ||| (if p.refreshOk then 2 else 0) ||| (if p.sWriteOk then 4 else 0) |||
    (if p.retireOk then 8 else 0)

/-- The 25 bytes of setup contents. -/
def bytesOfContents (c : SetupContents) : Bytes :=
  (c.classes.toList.map (fun p => [permissionByte p, p.maxLength, p.lease])).flatten ++ [c.spareThreshold]

/-! ### Codes (Tables 11-3 and 11-4) -/

/-- The value of a status code. -/
def Status.code : Status → Byte
  | .ok => 0x00
  | .accepted => 0x01
  | .pending => 0x02
  | .none => 0x03
  | .endOfList => 0x04
  | .noResult => 0x05
  | .notReady => 0x10
  | .notFound => 0x11
  | .gone => 0x12
  | .held => 0x13
  | .notHeld => 0x14
  | .expired => 0x15
  | .locked => 0x16
  | .denied => 0x17
  | .inhibited => 0x18
  | .full => 0x19
  | .noEntry => 0x1A
  | .inUse => 0x1B
  | .badArg => 0x20
  | .badLength => 0x21
  | .busy => 0x22
  | .unknown => 0x23
  | .absentData => 0x24

/-- The value of a job result code. -/
def JobResult.code : JobResult → Byte
  | .done => 0
  | .superseded => 1
  | .staleGen => 2
  | .gone => 3
  | .locked => 4
  | .inhibited => 5
  | .notClear => 6
  | .damaged => 7
  | .noSpare => 8

/-- The value of a job kind. -/
def JobKind.code : JobKind → Byte
  | .commit => 0
  | .patch => 1
  | .retire => 2
  | .fix => 3
  | .setup => 4
  | .refresh => 5

/-- The value of a read outcome. -/
def Outcome.code (o : Outcome) : Byte := BitVec.ofNat 8 o.rank

/-- The value of a cell. -/
def cellCode : CellName → Byte
  | .a => 0
  | .b => 1

/-- The value of a port. -/
def portCode : Port → Byte
  | .m => 0
  | .s => 1

/-- The value of a party. -/
def Party.code : Party → Byte
  | .portM => 0
  | .portS => 1
  | .engine => 2
  | .census => 3
  | .scan => 4

/-- The value of a census state; NONE is 0. -/
def CensusState.code : CensusState → Byte
  | .running => 1
  | .done => 2
  | .cancelled => 3

/-- A scope: a class, or FFH for ALL. -/
def scopeCode : Option Cls → Byte
  | none => 0xFF
  | some c => BitVec.ofNat 8 c.val

/-- A scope or filter from its byte: none for a byte that is neither 0 to 7 nor FFH. -/
def scopeOfByte (b : Byte) : Option (Option Cls) :=
  if b = 0xFF#8 then some none else (clsOfByte b).map some

/-- A flag as a byte. In the flag bytes of Table 11-5 it is bit 0, and is shifted to its place. That the one-byte fields
overflow, stale and setup fixed, whose values no table gives, are 01H for set and 00H for clear is the model's, log
entry 44. -/
def flagByte (b : Bool) : Byte := if b then 1 else 0

/-- A one-byte count. -/
def countByte (n : Nat) : Byte := BitVec.ofNat 8 n

end Sys2Proof.Machine
end

