-- ==== Sys2Proof/Machine/Records.lean ====
section
/-! DEFINITION. The records the commands return, byte by byte (R184, Table 11-6). -/

namespace Sys2Proof.Machine

/-- An absent field of one byte (R184). -/
def absentByte : Byte := 0xFF

/-- An entry index, FFFFH when absent (R184). -/
def indexBytes : Option Nat → Bytes
  | some i => be16 i
  | none => [absentByte, absentByte]

/-- A pair, FFFFH when it is NONE (R184). -/
def pairBytes : Option Nat → Bytes
  | some p => be16 p
  | none => [absentByte, absentByte]

/-- A key, FFFFFFFFH when absent (R184). -/
def keyBytes : Option Key → Bytes
  | some k => be32 k
  | none => [absentByte, absentByte, absentByte, absentByte]

/-- A generation, 0 when absent (R184). -/
def genBytes : Option Gen → Bytes
  | some g => be16 g.toNat
  | none => [0, 0]

/-- The value of an entry state. -/
def Entry.stateCode (e : Entry) : Byte :=
  match e.body with
  | .free => 0
  | .nascent _ _ => 1
  | .live _ => 2
  | .retiring _ _ _ => 3

/-- The generation of an entry, present in LIVE and RETIRING (Table 1-1). -/
def Entry.gen? (e : Entry) : Option Gen :=
  match e.body with
  | .live l => some l.gen
  | .retiring _ _ g => some g
  | _ => none

/-- The length byte of an entry, 0 when absent. -/
def Entry.lengthByte (e : Entry) : Byte :=
  match e.live? with
  | some l => countByte l.length
  | none => 0

/-- The guard_map byte (R184): bit `i` is granule `i + 1`, FFH when absent. -/
def Entry.guardByte (e : Entry) : Byte :=
  match e.live? with
  | some l => l.guardMap.setWidth 8
  | none => absentByte

/-- The entry flags of a description (Table 11-5). -/
def Entry.flagsByte (e : Entry) (stranded : Bool) : Byte :=
  match e.live? with
  | some l =>
    flagByte l.fixed ||| (flagByte l.damaged <<< 1) ||| (flagByte l.refreshWanted <<< 2) ||| (flagByte stranded <<< 3)
  | none => 0

/-- The description of an entry (R19, Table 11-6). -/
def State.describe (s : State) (i : Nat) : Bytes :=
  let e := s.entry i
  be16 i ++ [e.stateCode] ++ keyBytes e.key? ++
    [match e.cls? with | some c => BitVec.ofNat 8 c.val | none => absentByte] ++ [e.lengthByte] ++ genBytes e.gen? ++
    pairBytes e.pair ++ [match e.live? with | some l => cellCode l.cell | none => absentByte] ++ [e.guardByte] ++
    [e.flagsByte (s.stranded i)] ++ [countByte e.jobs] ++
    [match s.holder i with | some p => portCode p | none => absentByte]

/-- A result record (Tables 3-7 and 11-6). -/
def ResultRecord.bytes (r : ResultRecord) : Bytes :=
  [r.ticket, r.kind.code] ++ indexBytes r.entry ++ keyBytes r.key ++ [r.result.code] ++ genBytes r.newGen ++
    [flagByte r.relocated]

/-- The number a pair is reported with: FFFEH for the setup pair (R184). -/
def pairNumber : PairId → Nat
  | .num n => n
  | .setup => 0xFFFE

/-- A location of the capture record, seven bytes of FFH when absent (R184). -/
def locationBytes : Option Location → Bytes
  | some l =>
    be16 (pairNumber l.loc.pair) ++ [cellCode l.loc.cell, countByte l.granule] ++ indexBytes l.entry ++ [l.party.code]
  | none => List.replicate 7 absentByte

/-- The capture record (Table 11-6). -/
def Capture.bytes (c : Capture) : Bytes :=
  [countByte c.correctedCount, countByte c.uncorrectableCount] ++ locationBytes c.firstCorrected ++
    locationBytes c.latestCorrected ++ locationBytes c.firstUncorrectable ++ locationBytes c.latestUncorrectable

/-- The census result record; NONE is its state byte alone (R184). The stale byte's values: log entry 44. -/
def censusBytes : Option CensusRun → Bytes
  | none => [0]
  | some c =>
    [c.state.code, scopeCode c.scope, portCode c.port] ++ be16 c.cursor ++ be32 c.digest ++ be16 c.visited ++
      be16 c.corrected ++ be16 c.uncorrectable ++ be16 c.unguarded ++ [flagByte c.stale]

/-- The setup record in force and the setup fixed flag (R167, Table 11-6); the values of its byte: log entry 44. -/
def SetupStore.bytes (st : SetupStore) : Bytes :=
  bytesOfContents st.contents ++ be16 st.gen.toNat ++ [flagByte st.fixed]

/-- The waiting count (R120): the wanted entries that are not in the list. -/
def State.waitingCount (s : State) : Nat := (s.wantedIndices.filter (fun i => !s.refresh.list.contains i)).length

/-- The answer of REFRESH_LIST (R120, Table 11-1). The overflow byte's values: log entry 44. -/
def State.refreshBytes (s : State) : Bytes :=
  [countByte s.refresh.list.length, flagByte s.refresh.overflow] ++ be16 s.waitingCount ++
    (s.refresh.list.map be16).flatten

/-- The kind of a job (Table 3-3). -/
def JobBody.kind : JobBody → JobKind
  | .commit _ _ _ _ _ => .commit
  | .patch _ _ _ _ _ => .patch
  | .retire _ _ _ => .retire
  | .fix _ _ => .fix
  | .setup _ _ => .setup

/-- The kind of the host job or REFRESH the engine is running; none for no work and for a recovery item (R182). -/
def Work.kind? : Work → Option JobKind
  | .idle => none
  | .write (some _) _ _ => some .commit
  | .write none _ _ => some .refresh
  | .refreshRead _ _ _ _ _ => some .refresh
  | .patch _ _ _ => some .patch
  | .retire (some _) _ _ => some .retire
  | .retire none _ _ => none
  | .fix _ _ => some .fix
  | .setup _ _ _ => some .setup
  | .eraseDebris _ _ _ => none
  | .supersede _ _ => none
  | .markBad _ _ => none

/-- The engine activity (R76, Table 11-4). -/
def State.activityByte (s : State) : Byte :=
  if s.arb.suspended.isSome then 2
  else if s.work = .idle then 0
  else if s.work.kind?.isSome then 1
  else 3

/-- The device state byte (Table 11-4). -/
def State.deviceByte (s : State) : Byte := if s.phase = .ready then 1 else 0

/-- The status record as a port sends it (R182, Table 11-6). -/
def State.statusBytes (s : State) (p : Port) : Bytes :=
  [s.deviceByte, s.activityByte, match s.work.kind? with | some k => k.code | none => absentByte,
      countByte s.queue.length] ++
    be16 s.freeCount ++ be16 s.liveCount ++ be16 s.pool.length ++ be16 s.bad.length ++ be16 s.recovery.length ++
    [countByte s.refresh.list.length, s.inhibit, (s.port p).eventByte, (s.port p).mask,
      countByte (s.port p).results.length]

end Sys2Proof.Machine
end

