-- ==== Sys2Proof/Machine/Ports.lean ====
section
/-! DEFINITION. The command ports: how a frame is taken, the fetch, the frames that are not taken, and STATUS, ACK,
EVENT_MASK and UNKNOWN_COMMAND (Chapter 11). -/

namespace Sys2Proof.Machine

/-! ### Taking a frame -/

/-- A command is refused while the part is STARTING or a RESTART is deferred (R152, R153). -/
def State.notReady (s : State) : Bool := s.phase != .ready || s.restartDeferred

/-- The status of a refused command goes into the response slot, and nothing else changes. -/
def State.refuse (s : State) (p : Port) (st : Status) : State := s.answer p st []

/-- A well-formed frame arrives at a port (R173, R177). While the part is held in reset the ports take no frames (R150).
With the slot PENDING the frame is ignored and OVERRUN is set; otherwise the command is taken. -/
def State.arrive (s : State) (p : Port) (taken : State) : State :=
  if s.phase = .held then s
  else if (s.port p).slot = .pending then s.setFlag p .overrun
  else taken

/-- A command with its arguments: an argument count the command does not accept gives BAD_ARG (R173), a part that is not
ready NOT_READY, and otherwise the command acts. -/
def State.command {α : Type} (s : State) (p : Port) (args : Option α) (act : α → State) : State :=
  s.arrive p (match args with
    | none => s.refuse p .badArg
    | some a => if s.notReady then s.refuse p .notReady else act a)

/-- Ordered checks: the first that fails, that is the first whose condition holds, gives the outcome. -/
def firstFailing {α : Type} : List (Bool × α) → Option α
  | [] => none
  | (fails, st) :: rest => if fails then some st else firstFailing rest

/-- A command that passed its checks acts, one that failed a check is refused. -/
def State.unless (s : State) (p : Port) (failed : Option Status) (done : State) : State :=
  match failed with
  | some st => s.refuse p st
  | none => done


/-! ### STATUS, ACK, EVENT_MASK and unknown codes -/

/-- STATUS (R182): answered in every state of the part, and it changes nothing else. -/
def State.takeStatus (s : State) (p : Port) (args : Bytes) : State :=
  s.arrive p (match noArgs args with
    | none => s.refuse p .badArg
    | some _ => s.answer p .ok (s.statusBytes p))

/-- A slot that is LAPSED becomes EMPTY (R131). -/
def HoldSlot.emptyLapsed (h : HoldSlot) : HoldSlot :=
  match h with
  | .lapsed _ _ _ => .empty
  | h => h

/-- Every LAPSED slot of a port becomes EMPTY (R131). -/
def State.emptyLapsed (s : State) (p : Port) : State :=
  { s with holds := s.holds.mapFinIdx (fun i h _ => if (slotsOf p).any (fun j => j.val == i) then h.emptyLapsed else h) }

/-- ACK (R179): the flags named are cleared on the port, and with HOLD_LAPSED its LAPSED slots. The answer is the event
byte after the change. -/
def State.takeAck (s : State) (p : Port) (args : Bytes) : State :=
  s.command p (byteArg args) (fun mask =>
    let s' := if mask.getLsbD Event.holdLapsed.number then (s.clearFlags p mask).emptyLapsed p else s.clearFlags p mask
    s'.answer p .ok [(s'.port p).eventByte])

/-- EVENT_MASK (R180). -/
def State.takeEventMask (s : State) (p : Port) (args : Bytes) : State :=
  s.command p (byteArg args) (fun mask =>
    (s.modPort p (fun ps => { ps with mask := mask })).answer p .ok [mask])

/-- A well-formed frame whose code is not in Table 11-1 (R173). A code of the table is no such frame. -/
def State.takeUnknown (s : State) (p : Port) (code : Byte) : State :=
  if commandCodes.contains code || beginsFetch p [code] then s
  else s.arrive p (s.refuse p .unknown)

/-! ### Frames that are not taken -/

/-- A command frame that is discarded (R176). No byte is no frame (R174, R175), and a fetch frame is never discarded. In
STARTING frames are judged as in READY (R176), against a sentence of R172; log entry 39. -/
def State.takeBadFrame (s : State) (p : Port) (bytes : Bytes) (midByte : Bool) : State :=
  if s.phase = .held || bytes.isEmpty || beginsFetch p bytes || !discardsFrame p bytes midByte then s
  else s.setFlag p .frameError

/-- A well-formed frame that arrives while the slot is PENDING (R177). -/
def State.takeIgnored (s : State) (p : Port) (bytes : Bytes) : State :=
  if s.phase ≠ .held ∧ (s.port p).slot = .pending ∧ frameWellFormed bytes ∧ beginsFetch p bytes = false then
    s.setFlag p .overrun
  else s

/-! ### The fetch -/

/-- The status and data a slot gives to a fetch (R177). -/
def Slot.response : Slot → Status × Bytes
  | .empty => (.none, [])
  | .pending => (.pending, [])
  | .ready st data => (st, data)

/-- The response bytes of a fetch (R184): status, L and L data bytes. -/
def Slot.responseBytes (sl : Slot) : Bytes :=
  sl.response.1.code :: countByte sl.response.2.length :: sl.response.2

/-- The check byte of a fetch: over the fetch code and the response on Port M (R174), over the response on Port S
(R175). -/
def fetchCheck (p : Port) (response : Bytes) : Byte :=
  match p with
  | .m => crc8 (0xF0#8 :: response)
  | .s => crc8 response

/-- The bytes a port drives after its response has begun: the response, the check byte, then FFH. -/
def driven (response : Bytes) (check : Byte) (count : Nat) : Bytes :=
  (response ++ check :: List.replicate count 0xFF#8).take count

/-- What the port drives in a fetch transaction; Port M drives FFH while the fetch code is clocked (R174). -/
def fetched (f : Fetch) (response : Bytes) : Bytes :=
  match f with
  | .onM sent => 0xFF#8 :: driven response (fetchCheck .m response) sent.length
  | .onS count _ => driven response (fetchCheck .s response) count

/-- What Port M drives on SDO, byte by byte, in a transaction of the whole bytes `bytes` (R174): FFH throughout a command
frame, and in a fetch frame the response. While the part is held in reset it drives nothing (R150). A command frame
leaves `sent`, the bytes of the last fetch, as it was. -/
def State.drivenOnM (s : State) (bytes : Bytes) : Bytes :=
  if s.phase = .held then []
  else
    match bytes with
    | [] => []
    | code :: rest =>
      if beginsFetch .m [code] then fetched (.onM rest) s.portM.slot.responseBytes
      else List.replicate (rest.length + 1) 0xFF#8

/-- Port S acknowledges a 7-bit address: its own (R175), and none while the part is held in reset (R150). -/
def State.acknowledgesOnS (s : State) (address : BitVec 7) : Bool := s.phase != .held && portSAnswers address

/-- The fetch is confirmed (R174, R175). -/
def confirmed (f : Fetch) (response : Bytes) : Bool :=
  match f with
  | .onM sent => sent[response.length + 1]? == some (fetchCheck .m response)
  | .onS count acked => decide (response.length + 1 ≤ count) && acked

/-- FETCH (R174, R175, R177): the response is sent, and a confirmed fetch of a READY slot empties it. -/
def State.takeFetch (s : State) (f : Fetch) : State :=
  if s.phase = .held then s
  else
    s.modPort f.port (fun ps =>
      { ps with
        sent := fetched f ps.slot.responseBytes
        slot :=
          match ps.slot with
          | .ready st data => if confirmed f ps.slot.responseBytes then .empty else .ready st data
          | sl => sl })

/-! ### Meanings -/

/-- STATUS (R182). -/
def execStatus (p : Port) (args : Bytes) (s : State) : Host.Outcome State Fault Refusal := .next (s.takeStatus p args)

/-- ACK (R179). -/
def execAck (p : Port) (args : Bytes) (s : State) : Host.Outcome State Fault Refusal := .next (s.takeAck p args)

/-- EVENT_MASK (R180). -/
def execEventMask (p : Port) (args : Bytes) (s : State) : Host.Outcome State Fault Refusal :=
  .next (s.takeEventMask p args)

/-- UNKNOWN_COMMAND (R173). -/
def execUnknownCommand (p : Port) (code : Byte) (_args : Bytes) (s : State) : Host.Outcome State Fault Refusal :=
  .next (s.takeUnknown p code)

/-- FETCH (R177). -/
def execFetch (f : Fetch) (s : State) : Host.Outcome State Fault Refusal := .next (s.takeFetch f)

/-- BAD_FRAME (R176). -/
def execBadFrame (p : Port) (bytes : Bytes) (midByte : Bool) (s : State) : Host.Outcome State Fault Refusal :=
  .next (s.takeBadFrame p bytes midByte)

/-- IGNORED_FRAME (R177). -/
def execIgnoredFrame (p : Port) (bytes : Bytes) (s : State) : Host.Outcome State Fault Refusal :=
  .next (s.takeIgnored p bytes)

end Sys2Proof.Machine
end

