-- ==== Sys2Proof/Machine/Staging.lean ====
section
/-! DEFINITION. STAGE, DISCARD and RESULT (3.1, 3.6). -/

namespace Sys2Proof.Machine

/-- The buffer a number names on a port: none above 7 and for a buffer of the other port (R48). -/
def ownBuffer (p : Port) (b : Byte) : Option (Fin 8) :=
  if h : b.toNat < 8 then
    if bufferPort ⟨b.toNat, h⟩ = p then some ⟨b.toNat, h⟩ else none
  else none

/-- Write bytes into a buffer at the positions from `pos` on. -/
def writeBytes (m : Sparse Byte) (pos : Nat) : Bytes → Sparse Byte
  | [] => m
  | b :: bs => writeBytes (sparseSet (fun _ => 0xFF#8) m pos b) (pos + 1) bs

/-- A STAGE that passed its checks (R49). -/
def Buffer.stage (b : Buffer) (offset : Nat) (data : Bytes) : Buffer where
  state := .filling
  data := writeBytes b.data offset data
  filled := max b.filled (offset + data.length)

/-- STAGE (R49, Table 3-2). -/
def State.takeStage (s : State) (p : Port) (args : Bytes) : State :=
  s.command p (stageArgs args) (fun a =>
    match ownBuffer p a.buffer with
    | none => s.refuse p .badArg
    | some b =>
      s.unless p
        (firstFailing
          [(decide (223 < a.offset), .badArg),
            (decide (224 < a.offset + a.data.length), .badLength),
            ((s.buffers[b]).state == .queued, .inUse)])
        ((s.setBuffer b ((s.buffers[b]).stage a.offset a.data)).answer p .ok []))

/-- DISCARD (R50). -/
def State.takeDiscard (s : State) (p : Port) (args : Bytes) : State :=
  s.command p (byteArg args) (fun a =>
    match ownBuffer p a with
    | none => s.refuse p .badArg
    | some b =>
      match (s.buffers[b]).state with
      | .queued => s.refuse p .inUse
      | .filling => (s.setBuffer b Buffer.emptied).answer p .ok []
      | .empty => s.answer p .ok [])

/-- RESULT (R74): the oldest result record leaves the completion list. -/
def State.takeResult (s : State) (p : Port) (args : Bytes) : State :=
  s.command p (noArgs args) (fun _ =>
    match (s.port p).results with
    | [] => s.refuse p .noResult
    | r :: rest => (s.modPort p (fun ps => { ps with results := rest })).answer p .ok r.bytes)

/-- STAGE (R49). -/
def execStage (p : Port) (args : Bytes) (s : State) : Host.Outcome State Fault Refusal := .next (s.takeStage p args)

/-- DISCARD (R50). -/
def execDiscard (p : Port) (args : Bytes) (s : State) : Host.Outcome State Fault Refusal := .next (s.takeDiscard p args)

/-- RESULT (R74). -/
def execResult (p : Port) (args : Bytes) (s : State) : Host.Outcome State Fault Refusal := .next (s.takeResult p args)

end Sys2Proof.Machine
end

