-- ==== Sys2Proof/Machine/Jobs.lean ====
section
/-! DEFINITION. Host jobs: the queue and its records, completion and results (3.2, 3.6), and acceptance of the job
commands (3.3, R79, R80, R92, R133, R168). -/

namespace Sys2Proof.Machine

/-! ### Job records -/

/-- The entry a job names: all kinds but SETUP (Table 3-3). -/
def JobBody.entry? : JobBody → Option Nat
  | .commit e _ _ _ _ => some e
  | .patch e _ _ _ _ => some e
  | .retire e _ _ => some e
  | .fix e _ => some e
  | .setup _ _ => none

/-- The key of a job record (Table 3-3). -/
def JobBody.key? : JobBody → Option Key
  | .commit _ k _ _ _ => some k
  | .patch _ k _ _ _ => some k
  | .retire _ k _ => some k
  | .fix _ k => some k
  | .setup _ _ => none

/-- The buffer a COMMIT names (Table 3-3). -/
def JobBody.buffer? : JobBody → Option (Fin 8)
  | .commit _ _ b _ _ => some b
  | _ => none

/-- The expected generation of a COMMIT, PATCH or RETIRE (Table 3-3). -/
def JobBody.expected? : JobBody → Option Gen
  | .commit _ _ _ _ g => some g
  | .patch _ _ _ _ g => some g
  | .retire _ _ g => some g
  | _ => none

/-- The job is a COMMIT. -/
def JobBody.isCommit (b : JobBody) : Bool := b.kind == .commit

/-- The job is a SETUP. -/
def JobBody.isSetup (b : JobBody) : Bool := b.kind == .setup

/-- The host job the engine is running. -/
def Work.job? : Work → Option Job
  | .write j _ _ => j
  | .patch j _ _ => some j
  | .retire j _ _ => j
  | .fix j _ => some j
  | .setup j _ _ => some j
  | _ => none

/-- The queue up to the job that is running: it is the oldest of the queue (R53). -/
def State.startedJobs (s : State) : List Job := if s.work.job?.isSome then s.queue.take 1 else []

/-- The not-started jobs of the queue. -/
def State.waitingJobs (s : State) : List Job := if s.work.job?.isSome then s.queue.drop 1 else s.queue

/-! ### Results and completion -/

/-- The result record of a job (Table 3-7). -/
def Job.record (j : Job) (r : JobResult) (newGen : Option Gen) (relocated : Bool) : ResultRecord :=
  ⟨j.ticket, j.body.kind, j.body.entry?, j.body.key?, r, newGen, relocated⟩

/-- A result enters the completion list of a port, and the job ceases to be outstanding (R73). -/
def State.pushResult (s : State) (p : Port) (r : ResultRecord) : State :=
  s.modPort p (fun ps => { ps with results := ps.results ++ [r], outstanding := ps.outstanding - 1 })

/-- The buffer of a completed COMMIT becomes EMPTY (R51). -/
def State.emptyBufferOf (s : State) (b : JobBody) : State :=
  match b.buffer? with
  | some i => s.setBuffer i Buffer.emptied
  | none => s

/-- The entry's jobs count at a completion (R12). -/
def State.lowerJobsOf (s : State) (b : JobBody) : State :=
  match b.entry? with
  | some i => s.lowerJobs i
  | none => s

/-- A first commit that completes with a result other than DONE or SUPERSEDED frees its NASCENT entry (R10). -/
def State.freeNascent (s : State) (b : JobBody) (r : JobResult) : State :=
  match b.entry? with
  | some i =>
    match (s.entry i).body with
    | .nascent _ _ => if b.isCommit ∧ r ≠ .done then s.freeEntry i else s
    | _ => s
  | none => s

/-- A job at the head of the queue completes (R62, R71): its result enters its port's list, its buffer becomes EMPTY, the
jobs count falls, and it leaves the queue. -/
def State.completeJob (s : State) (j : Job) (r : JobResult) (newGen : Option Gen) (relocated : Bool) : State :=
  let s := { s with queue := s.queue.drop 1, work := .idle }
  let s := ((s.pushResult j.port (j.record r newGen relocated)).emptyBufferOf j.body).lowerJobsOf j.body
  s.freeNascent j.body r

/-! ### Acceptance -/

/-- The outcome of key resolution for a job command (R6, R7): an entry that exists, or one to be allocated. -/
inductive Target where
  | existing (entry : Nat)
  | fresh (entry : Nat) (cls : Cls)
deriving DecidableEq, Repr

/-- The entry of a target. -/
def Target.entry : Target → Nat
  | .existing i => i
  | .fresh i _ => i

/-- Acceptance checks 3 to 7 (Table 3-4) with a class and the entry flags given: fixed, held by the other port, class
policy, length against max_length, class inhibited. -/
def State.entryChecks (s : State) (isFixed held : Bool) (c : Cls) (permitted : ClassPolicy → Bool) (length : Nat) :
    List (Bool × Status) :=
  [(isFixed, .locked), (held, .held), (!permitted (s.policy c), .denied),
    (decide ((s.policy c).maxLength.toNat < length), .badLength), (s.inhibited c, .inhibited)]

/-- A LIVE entry has its fixed flag set. -/
def Entry.isFixed (e : Entry) : Bool :=
  match e.body with
  | .live l => l.fixed
  | _ => false

/-- Acceptance checks 3 to 7 of a command for a target. For a create they are made against the class argument, and there
is no entry to be fixed or held (R7). An entry that resolution gives has a class; log entry 27 for the others. -/
def State.targetChecks (s : State) (p : Port) (t : Target) (permitted : ClassPolicy → Bool) (length : Nat) :
    List (Bool × Status) :=
  match t with
  | .existing i =>
    s.entryChecks (s.entry i).isFixed (s.holdsActive (otherPort p) i) ((s.entry i).cls?.getD 0) permitted length
  | .fresh _ c => s.entryChecks false false c permitted length

/-- The permissions of a COMMIT and of a FIX (Table 7-3). -/
def permitsWrite (p : Port) (c : ClassPolicy) : Bool := p == .m || c.sWriteOk

/-- The permissions of a PATCH (Table 7-3). -/
def permitsPatch (p : Port) (c : ClassPolicy) : Bool := c.patchOk && permitsWrite p c

/-- The permissions of a RETIRE (Table 7-3). -/
def permitsRetire (p : Port) (c : ClassPolicy) : Bool := c.retireOk && permitsWrite p c

/-- The port has no place left for another job (R58, step 3). -/
def State.portFull (s : State) (p : Port) : Bool :=
  decide (8 ≤ (s.port p).outstanding + (s.port p).results.length)

/-- The queue holds 8 jobs (R58, step 2). -/
def State.queueFull (s : State) : Bool := decide (8 ≤ s.queue.length)

/-- The not-started job that names an entry (R58, step 1). -/
def State.waitingFor (s : State) (i : Nat) : Option Job := s.waitingJobs.find? (fun j => j.body.entry? == some i)

/-- The not-started COMMIT a COMMIT for an entry coalesces with (R59). -/
def State.coalesced (s : State) (i : Nat) : Option Job :=
  match s.waitingFor i with
  | some j => if j.body.isCommit then some j else none
  | none => none

/-- Check 8 of a COMMIT (R58): a not-started job of another kind gives IN_USE; a coalescing COMMIT needs no queue
place. -/
def State.commitCapacity (s : State) (p : Port) (i : Nat) : List (Bool × Status) :=
  [((s.waitingFor i).isSome && (s.coalesced i).isNone, .inUse),
    ((s.waitingFor i).isNone && s.queueFull, .full), (s.portFull p, .full)]

/-- Check 8 of the other job commands (R58), where `waiting` is the not-started job that stands in the way. -/
def State.jobCapacity (s : State) (p : Port) (waiting : Bool) : List (Bool × Status) :=
  [(waiting, .inUse), (s.queueFull, .full), (s.portFull p, .full)]

/-- The job record formed at an acceptance, with the port's next ticket (R54). -/
def State.newJob (s : State) (p : Port) (body : JobBody) : Job := ⟨(s.port p).ticket, p, body⟩

/-- The port at an acceptance: the ticket counter advances, the job is outstanding, and the answer is ACCEPTED with ticket
and entry index (R55). -/
def PortState.accept (ps : PortState) (entry : Option Nat) : PortState :=
  { ps with
    ticket := nextTicket ps.ticket
    outstanding := ps.outstanding + 1
    slot := .ready .accepted (ps.ticket :: indexBytes entry) }

/-- A job joins the tail of the queue (R55). -/
def State.enqueue (s : State) (p : Port) (body : JobBody) : State :=
  { s with queue := s.queue ++ [s.newJob p body] }.modPort p (fun ps => ps.accept body.entry?)

/-- A COMMIT takes the place of the not-started COMMIT `old`, which completes with SUPERSEDED (R59). -/
def State.coalesce (s : State) (p : Port) (body : JobBody) (old : Job) : State :=
  let new := s.newJob p body
  let s := { s with queue := s.startedJobs ++ s.waitingJobs.map (fun j => if j = old then new else j) }
  let s := (s.pushResult old.port (old.record .superseded none false)).emptyBufferOf old.body
  s.modPort p (fun ps => ps.accept body.entry?)

/-- A buffer under an accepted COMMIT (R51). -/
def Buffer.queued (b : Buffer) : Buffer := { b with state := .queued }

/-! ### COMMIT -/

/-- Check 1 of a COMMIT (R56), past the buffer number. -/
def commitArgChecks (a : CommitArgs) (buf : Buffer) : List (Bool × Status) :=
  [(!keyValid a.key, .badArg), (decide (1 < a.create.toNat), .badArg),
    (a.create == 1 && decide (7 < a.cls.toNat), .badArg),
    (decide (224 < a.length) || a.length == 0 && buf.filled == 0, .badLength),
    (buf.state == .queued, .inUse)]

/-- The length a COMMIT fixes (R57): 0 means the filled-up-to mark. -/
def commitLength (a : CommitArgs) (buf : Buffer) : Nat := if a.length = 0 then buf.filled else a.length

/-- Check 2 of a COMMIT (R6, R7): with the create option, a key without an active index allocates. -/
def State.commitTarget (s : State) (a : CommitArgs) : Except Status Target :=
  if a.create = 1 ∧ s.activeIndex a.key = none then
    match s.allocatable, clsOfByte a.cls with
    | some i, some c => .ok (.fresh i c)
    | _, _ => .error .noEntry
  else
    match s.resolve a.key with
    | .ok i => .ok (.existing i)
    | .error st => .error st

/-- A COMMIT is accepted (R55, R59, R8): the buffer becomes QUEUED; a create makes its entry NASCENT and tells the census
unit; the job joins the queue or takes the place of the one it supersedes. -/
def State.acceptCommit (s : State) (p : Port) (t : Target) (a : CommitArgs) (b : Fin 8) : State :=
  let body := JobBody.commit t.entry a.key b (commitLength a (s.buffers[b])) a.expected
  let s := s.setBuffer b (s.buffers[b]).queued
  match t with
  | .fresh i c => ((s.allocate i a.key c).tellCensus c).enqueue p body
  | .existing i =>
    match s.coalesced i with
    | some old => s.coalesce p body old
    | none => (s.raiseJobs i).enqueue p body

/-- COMMIT (R55, Table 3-4). -/
def State.takeCommit (s : State) (p : Port) (args : Bytes) : State :=
  s.command p (commitArgs args) (fun a =>
    match ownBuffer p a.buffer with
    | none => s.refuse p .badArg
    | some b =>
      s.unless p (firstFailing (commitArgChecks a (s.buffers[b])))
        (match s.commitTarget a with
        | .error st => s.refuse p st
        | .ok t =>
          s.unless p
            (firstFailing
              (s.targetChecks p t (permitsWrite p) (commitLength a (s.buffers[b])) ++ s.commitCapacity p t.entry))
            (s.acceptCommit p t a b)))

/-! ### PATCH, RETIRE, FIX -/

/-- A job that names an existing entry: checks 3 to 8 and acceptance (R55). -/
def State.takeEntryJob (s : State) (p : Port) (i : Nat) (permitted : ClassPolicy → Bool) (body : JobBody) : State :=
  s.unless p
    (firstFailing
      (s.targetChecks p (.existing i) permitted 0 ++ s.jobCapacity p (s.waitingFor i).isSome))
    ((s.raiseJobs i).enqueue p body)

/-- The patch range reaches past the last byte of a LIVE entry (R80). -/
def Entry.patchTooLong (e : Entry) (a : PatchArgs) : Bool :=
  match e.body with
  | .live l => decide (l.length < a.offset + a.data.length)
  | _ => false

/-- PATCH (R79, R80). -/
def State.takePatch (s : State) (p : Port) (args : Bytes) : State :=
  s.command p (patchArgs args) (fun a =>
    s.unless p
      (firstFailing
        [(!keyValid a.key, .badArg), (decide (223 < a.offset), .badArg),
          (decide (224 < a.offset + a.data.length), .badLength)])
      (match s.resolve a.key with
      | .error st => s.refuse p st
      | .ok i =>
        if (s.entry i).patchTooLong a then s.refuse p .badArg
        else s.takeEntryJob p i (permitsPatch p) (.patch i a.key a.offset a.data a.expected)))

/-- RETIRE (R92). -/
def State.takeRetire (s : State) (p : Port) (args : Bytes) : State :=
  s.command p (retireArgs args) (fun a =>
    if keyValid a.1 then
      match s.resolve a.1 with
      | .error st => s.refuse p st
      | .ok i => s.takeEntryJob p i (permitsRetire p) (.retire i a.1 a.2)
    else s.refuse p .badArg)

/-- FIX (R133). -/
def State.takeFix (s : State) (p : Port) (args : Bytes) : State :=
  s.command p (keyArg args) (fun k =>
    if keyValid k then
      match s.resolve k with
      | .error st => s.refuse p st
      | .ok i => s.takeEntryJob p i (permitsWrite p) (.fix i k)
    else s.refuse p .badArg)

/-! ### SETUP_WRITE -/

/-- A not-started SETUP job (R58, step 1). -/
def State.setupWaits (s : State) : Bool := s.waitingJobs.any (fun j => j.body.isSetup)

/-- SETUP_WRITE (R168). -/
def State.takeSetupWrite (s : State) (p : Port) (args : Bytes) : State :=
  s.command p (setupArgs args) (fun a =>
    s.unless p
      (firstFailing
        ([(!contentsInRange a.1, .badArg), (decide (1 < a.2.toNat), .badArg), (p == .s, .denied),
          (s.setup.fixed, .locked)] ++ s.jobCapacity p s.setupWaits))
      (s.enqueue p (.setup (contentsOfBytes a.1) (a.2 == 1))))

/-! ### Meanings -/

/-- COMMIT (R55). -/
def execCommit (p : Port) (args : Bytes) (s : State) : Host.Outcome State Fault Refusal := .next (s.takeCommit p args)

/-- PATCH (R79). -/
def execPatch (p : Port) (args : Bytes) (s : State) : Host.Outcome State Fault Refusal := .next (s.takePatch p args)

/-- RETIRE (R92). -/
def execRetire (p : Port) (args : Bytes) (s : State) : Host.Outcome State Fault Refusal := .next (s.takeRetire p args)

/-- FIX (R133). -/
def execFix (p : Port) (args : Bytes) (s : State) : Host.Outcome State Fault Refusal := .next (s.takeFix p args)

/-- SETUP_WRITE (R168). -/
def execSetupWrite (p : Port) (args : Bytes) (s : State) : Host.Outcome State Fault Refusal :=
  .next (s.takeSetupWrite p args)

end Sys2Proof.Machine
end

