-- ==== Sys2Proof/Machine/Reading.lean ====
section
/-! DEFINITION. READ and the end of its granule reads (2.5). -/

namespace Sys2Proof.Machine

/-- The checks of READ past its argument range (Table 2-5, lines 3 to 5): the claim, or the status that refuses. -/
def State.readClaim (s : State) (a : ReadArgs) : Except Status ReadClaim :=
  match s.resolve a.key with
  | .error st => .error st
  | .ok i =>
    match (s.entry i).body, (s.entry i).currentLoc with
    | .live l, some loc => if a.offset < l.length then .ok ⟨i, a.offset, a.count, loc⟩ else .error .badArg
    | _, _ => .error .absentData

/-- The arguments of READ are in range (Table 2-5, line 2). -/
def ReadArgs.inRange (a : ReadArgs) : Bool :=
  keyValid a.key && decide (a.offset ≤ 223) && decide (1 ≤ a.count) && decide (a.count ≤ 224)

/-- READ (R37): a READ that passes its checks makes the slot PENDING and joins the arbiter's claimants. -/
def State.takeRead (s : State) (p : Port) (args : Bytes) : State :=
  s.command p (readArgs args) (fun a =>
    if a.inRange then
      match s.readClaim a with
      | .ok claim => (s.modPort p (fun ps => { ps with slot := .pending })).claimRead p claim
      | .error st => s.refuse p st
    else s.refuse p .badArg)

/-- The data granule that holds a payload byte (R28). -/
def granuleOf (pos : Nat) : Nat := 1 + pos / 32

/-- The granules from `first` to `last`. -/
def granuleSpan (first last : Nat) : List Nat := List.range' first (last + 1 - first)

/-- The granules that hold `count` payload bytes from `offset` on (R38, R82). -/
def granulesFor (offset count : Nat) : List Nat := granuleSpan (granuleOf offset) (granuleOf (offset + count - 1))

/-- The granules of a READ, read in ascending order (R38). -/
def State.grantReads (s : State) (g : ReadGrant) : List (Nat × Outcome × Data) :=
  (granulesFor g.offset g.count).map (fun n => (n, s.readGranule g.loc n))

/-- The report of one granule read (R35). -/
def reportOf (loc : Loc) (granule : Nat) (entry : Option Nat) (party : Party) (o : Outcome) : Report :=
  ⟨o, loc, granule, entry, party⟩

/-- The payload bytes a READ answers: `count` of them from the offset within its first granule on. -/
def readBytes (g : ReadGrant) (reads : List (Nat × Outcome × Data)) : Bytes :=
  (((reads.map (fun r => bytesAt r.2.2 0 32)).flatten).drop (g.offset % 32)).take g.count

/-- The data of the answer to a READ (R39, Table 11-1): generation, worst outcome, count and the bytes. -/
def readAnswer (g : ReadGrant) (reads : List (Nat × Outcome × Data)) : Bytes :=
  be16 g.gen.toNat ++ [(worstOutcome (reads.map (fun r => r.2))).code, countByte g.count] ++ readBytes g reads

/-- Each granule read of a READ is reported with the party of its port (R39). -/
def State.reportReads (s : State) (g : ReadGrant) (reads : List (Nat × Outcome × Data)) : State :=
  reads.foldl (fun s r => s.report (reportOf g.loc r.1 (some g.entry) (portParty g.port) r.2.1)) s

/-- The granule reads of a granted READ end (R39). Without a READ that holds the array nothing happens. -/
def State.endRead (s : State) (us : List Upset) : State :=
  match s.arb.user with
  | some (.port g) =>
    let s := s.upsets g.loc us
    let reads := s.grantReads g
    let s := (s.reportReads g reads).answer g.port .ok (readAnswer g reads)
    { s with arb := { s.arb with user := none } }.grant
  | _ => s

/-- READ (R37). -/
def execRead (p : Port) (args : Bytes) (s : State) : Host.Outcome State Fault Refusal := .next (s.takeRead p args)

/-- READ_COMPLETE (R39). -/
def execReadComplete (us : List Upset) (s : State) : Host.Outcome State Fault Refusal := .next (s.endRead us)

end Sys2Proof.Machine
end

