-- ==== Sys2Proof/Machine/Engine.lean ====
section
/-! DEFINITION. What the engine's sequences share: claiming a step with the work it belongs to, classification of a cell,
and how a piece of work ends. -/

namespace Sys2Proof.Machine

/-- The engine stands at a step of its work and claims the array step from the arbiter (R40). -/
def State.claims (s : State) (w : Work) (step : EngineStep) : State := { s with work := w }.claimStep step

/-- The engine's work ends; the next is chosen by an event of its own (R76). -/
def State.idle (s : State) : State := { s with work := .idle }

/-- The running recovery item completes and leaves the list (R162). -/
def State.itemDone (s : State) : State := { s with work := .idle, recovery := s.recovery.drop 1 }

/-- A step of a classification: another granule is to be read, or the cell is classified. -/
inductive Classified where
  | more (c : Classifying)
  | found (cls : Classification)
deriving DecidableEq, Repr

/-- A read of a classification ends (R31, R32). `marks` is the mark field as it stands at the read, which is the one that
counts at the header read; `valid` says whether the granule, taken as a header, is valid. -/
def Classifying.take (c : Classifying) (marks : MarkField) (valid : Bool) (r : Outcome × Data) : Classified :=
  if c.granule = 0 then
    if readsErased r then .more ⟨1, marks, true⟩ else .found (classify marks valid false)
  else if c.granule < 7 then .more ⟨c.granule + 1, c.marks, c.erased && readsErased r⟩
  else .found (classify c.marks false (c.erased && readsErased r))

/-- A granule passes verify when it reads CLEAN and its bytes equal those programmed (R67, R169). -/
def verified (r : Outcome × Data) (programmed : Data) : Bool := r.1 == .clean && r.2 == programmed

/-- The class of an entry; log entry 27 for an entry that has none. -/
def State.classOf (s : State) (i : Nat) : Cls := (s.entry i).cls?.getD 0

end Sys2Proof.Machine
end

