-- ==== Sys2Proof/Machine/Patching.lean ====
section
/-! DEFINITION. The PATCH job (4.2, Figure 4-1). -/

namespace Sys2Proof.Machine

/-- The granule with the patch bytes put in place (R83): the granule's own position `i` is payload byte
`32 * (g - 1) + i`. -/
def patchedGranule (cur : Data) (g offset : Nat) (data : Bytes) : Data :=
  dataOfBytes ((List.range 32).map (fun i =>
    let pos := 32 * (g - 1) + i
    if offset ≤ pos then data.getD (pos - offset) (byteAt cur i) else byteAt cur i))

/-- The target granules (R82). -/
def PatchJob.targets (w : PatchJob) : List Nat := granulesFor w.offset w.data.length

/-- The cell a PATCH works in (R81). -/
def PatchJob.loc (w : PatchJob) : Loc := Loc.num w.pair w.cell

/-- The new content of a granule that was read (R83). -/
def PatchJob.newContent (w : PatchJob) (read : Nat × Outcome × Data) : Data :=
  patchedGranule read.2.2 read.1 w.offset w.data

/-- The clear-only check of a granule (R83): no patch byte has a 1 where the current content has a 0. Outside the patch
bytes the two contents are equal. -/
def PatchJob.clearOnly (w : PatchJob) (read : Nat × Outcome × Data) : Bool :=
  w.newContent read &&& ~~~read.2.2 == 0

/-- The changed granules (R83), sorted by R84: a granule that read erased is programmed for the first time. -/
def PatchJob.changes (w : PatchJob) : List Changed :=
  (w.reads.filter (fun r => w.newContent r != r.2.2)).map (fun r => ⟨r.1, w.newContent r, readsErased r.2⟩)

/-- The patch-map bits to program in step 3 (R84, R85): the changed granules that hold programmed data and did not read
UNGUARDED. -/
def PatchJob.newMarks (w : PatchJob) : BitVec 7 :=
  w.reads.foldl (fun m r =>
    if w.newContent r != r.2.2 && !readsErased r.2 && r.2.1 != .unguarded then m ||| (1#7 <<< (r.1 - 1)) else m) 0

/-- The mark field bits of patch-map bits. -/
def patchMarks (m : BitVec 7) : BitVec 12 := m.setWidth 12 <<< 5

/-- A PATCH completes past its start checks (R88): the guard map follows the bits the job programmed that read set,
DAMAGED sets the damaged flag, and a job that made a program step tells the census unit. -/
def State.patchDone (s : State) (j : Job) (w : PatchJob) (r : JobResult) : State :=
  let s := s.modLive w.entry (fun l => { l with guardMap := l.guardMap ||| w.marked })
  let s := if r = .damaged then s.setDamaged w.entry else s
  let c := s.classOf w.entry
  let s := s.completeJob j r none false
  if w.programmed then s.tellCensus c else s

/-- Step 1 at a granule (R82). -/
def State.patchReads (s : State) (j : Job) (w : PatchJob) (g : Nat) : State :=
  s.claims (.patch j w (.read g)) (.read w.loc g (some w.entry))

/-- Step 5 at a changed granule, or completion when none is left (R87). -/
def State.patchVerify (s : State) (j : Job) (w : PatchJob) (left : List Changed) : State :=
  match left with
  | [] => s.patchDone j w .done
  | c :: rest => s.claims (.patch j w (.verify c rest)) (.read w.loc c.granule (some w.entry))

/-- Step 4 at a changed granule, or step 5 when none is left (R86). -/
def State.patchProgram (s : State) (j : Job) (w : PatchJob) (left : List Changed) : State :=
  match left with
  | [] => s.patchVerify j w w.changed
  | c :: rest =>
    let w := { w with programmed := true }
    s.claims (.patch j w (.program rest)) (.program w.loc c.granule c.new)

/-- Steps 2 and 3 (R83 to R85). -/
def State.patchForm (s : State) (j : Job) (w : PatchJob) : State :=
  if w.reads.all w.clearOnly then
    if w.changes.isEmpty then s.patchDone j w .done
    else
      let w := { w with changed := w.changes, marking := w.newMarks }
      if w.marking = 0 then s.patchProgram j w w.changed
      else
        let w := { w with programmed := true }
        s.claims (.patch j w .mark) (.mark w.loc (patchMarks w.marking))
  else s.patchDone j w .notClear

/-- A read of a PATCH ends (R82, R87). A granule programmed for the first time passes verify when it reads CLEAN and equal,
one programmed again when its bytes are equal. -/
def State.patchRead (s : State) (j : Job) (w : PatchJob) (step : PatchStep) (r : Outcome × Data) : State :=
  match step with
  | .read g =>
    if r.1 = .uncorrectable then s.patchDone j w .damaged
    else
      let w := { w with reads := w.reads ++ [(g, r)] }
      match w.targets.find? (fun k => decide (g < k)) with
      | some k => s.patchReads j w k
      | none => s.patchForm j w
  | .verify c rest =>
    if (if c.first then verified r c.new else r.2 == c.new) then s.patchVerify j w rest
    else s.patchDone j w .damaged
  | _ => s

/-- The mark program of step 3 ends (R85). -/
def State.patchMarked (s : State) (j : Job) (w : PatchJob) (step : PatchStep) (took : Bool) : State :=
  match step with
  | .mark =>
    let w := { w with marked := w.marking &&& patchMapOf (s.markField w.loc).voted }
    if took then s.patchProgram j w w.changed else s.patchDone j w .damaged
  | _ => s

/-- A granule program of step 4 ends (R86). -/
def State.patchProgrammed (s : State) (j : Job) (w : PatchJob) (step : PatchStep) : State :=
  match step with
  | .program rest => s.patchProgram j w rest
  | _ => s

/-- A PATCH that has passed its start checks reads its first target granule (R81, R82). -/
def State.startPatch (s : State) (j : Job) (i offset : Nat) (data : Bytes) (old : Nat × CellName) : State :=
  s.patchReads j
    { entry := i, pair := old.1, cell := old.2, offset := offset, data := data, reads := [], changed := [],
      marking := 0, marked := 0, programmed := false } (granuleOf offset)

end Sys2Proof.Machine
end

