-- ==== Sys2Proof/Machine/Retiring.lean ====
section
/-! DEFINITION. The RETIRE job and the FINISH_RETIRE item (5.1.2, R164), and the FIX job (7.2.2). -/

namespace Sys2Proof.Machine

/-- The retired cell. -/
def RetireJob.retired (w : RetireJob) : Loc := Loc.num w.pair w.cell

/-- The other cell of the retire pair. -/
def RetireJob.other (w : RetireJob) : Loc := Loc.num w.pair (otherCell w.cell)

/-- A RETIRE completes with DONE (R96); a FINISH_RETIRE item leaves the recovery list without a result (R164). In both
the entry becomes FREE. -/
def State.retireDone (s : State) (job : Option Job) (w : RetireJob) : State :=
  match job with
  | some j => ((s.freeEntry w.entry).completeJob j .done none false).tellCensus (s.classOf w.entry)
  | none => (s.freeEntry w.entry).itemDone

/-- A LIVE entry becomes RETIRING (R11): it keeps its key, class and generation, and leaves the refresh list. -/
def State.becomeRetiring (s : State) (i : Nat) : State :=
  let s := s.unlist i
  match (s.entry i).body with
  | .live l => s.setEntry i { s.entry i with body := .retiring l.key l.cls l.gen }
  | _ => s

/-- Step 2 at a granule: the other cell is classified (R94). -/
def State.retireClassify (s : State) (job : Option Job) (w : RetireJob) (c : Classifying) : State :=
  s.claims (.retire job w (.classify c)) (.read w.other c.granule (some w.entry))

/-- A mark program of a bad mark in a retire. -/
def State.retireBad (s : State) (job : Option Job) (w : RetireJob) (step : RetireStep) (loc : Loc) : State :=
  s.claims (.retire job w step) (.mark loc (markBit .bad))

/-- Step 3: the retired cell is erased (R94). -/
def State.retireErase (s : State) (job : Option Job) (w : RetireJob) : State :=
  s.claims (.retire job w .eraseRetired) (.erase w.retired)

/-- Step 4, or completion when the pair is not to be bad-marked (R95, R97). -/
def State.retireMarkPair (s : State) (job : Option Job) (w : RetireJob) : State :=
  if w.markPair then s.retireBad job w .badA (Loc.num w.pair .a) else s.retireDone job w

/-- A read of a RETIRE ends (R94). -/
def State.retireRead (s : State) (job : Option Job) (w : RetireJob) (step : RetireStep) (r : Outcome × Data) : State :=
  match step with
  | .classify c =>
    match c.take (s.markField w.other) (headerOf r).isSome r with
    | .more c => s.retireClassify job w c
    | .found .erased => s.retireErase job w
    | .found _ => s.claims (.retire job w .eraseOther) (.erase w.other)
  | _ => s

/-- A mark program of a RETIRE ends, COMPLETE or FAILED alike (R93, R95, R105). -/
def State.retireMarked (s : State) (job : Option Job) (w : RetireJob) (step : RetireStep) : State :=
  match step with
  | .retireMark => (s.becomeRetiring w.entry).retireClassify job w Classifying.start
  | .badOther => s.retireErase job w
  | .badRetired => s.retireMarkPair job w
  | .badA => s.retireBad job w .badB (Loc.num w.pair .b)
  | .badB => s.retireDone job w
  | _ => s

/-- An erase of a RETIRE ends (R94, R95): a failed one puts the pair in the BAD set and bad-marks its cell at once. -/
def State.retireErased (s : State) (job : Option Job) (w : RetireJob) (step : RetireStep) (took : Bool) : State :=
  let failed := { w with markPair := true }
  match step with
  | .eraseOther =>
    if took then s.retireErase job w else (s.addBad w.pair).retireBad job failed .badOther w.other
  | .eraseRetired =>
    if took then s.retireMarkPair job w else (s.addBad w.pair).retireBad job failed .badRetired w.retired
  | _ => s

/-- A RETIRE that has passed its start checks programs the retire mark (R93). -/
def State.startRetire (s : State) (j : Job) (i : Nat) (old : Nat × CellName) : State :=
  let w : RetireJob := ⟨i, old.1, old.2, s.isBad old.1⟩
  s.claims (.retire (some j) w .retireMark) (.mark w.retired (markBit .retire))

/-- A FINISH_RETIRE item begins at step 2 (R164). -/
def State.startFinishRetire (s : State) (i pair : Nat) (cell : CellName) : State :=
  s.retireClassify none ⟨i, pair, cell, s.isBad pair⟩ Classifying.start

/-- A FIX that has passed its start checks programs the fixed mark on the current cell (R134). -/
def State.startFix (s : State) (j : Job) (i : Nat) (old : Nat × CellName) : State :=
  s.claims (.fix j i) (.mark (Loc.num old.1 old.2) (markBit .fixed))

/-- The fixed mark step of a FIX ends, COMPLETE or FAILED alike (R134, R135). -/
def State.fixMarked (s : State) (j : Job) (i : Nat) : State :=
  ((s.modLive i (fun l => { l with fixed := true })).unlist i).completeJob j .done none false

end Sys2Proof.Machine
end

