-- ==== Sys2Proof/Machine/Recovery.lean ====
section
/-! DEFINITION. The recovery items (9.4). -/

namespace Sys2Proof.Machine

/-- The cell is the current cell of a LIVE entry. -/
def State.isCurrentCell (s : State) (l : Loc) : Bool := entryIndices.any (fun i => (s.entry i).currentLoc == some l)

/-- The FREE entry whose pair a pair is (R163). -/
def State.freeOwner (s : State) (p : Nat) : Option Nat :=
  entryIndices.find? (fun i => (s.entry i).isFree && (s.entry i).pair == some p)

/-- A FREE entry whose pair it was takes pair NONE (R163). That a NASCENT entry whose first commit still waits keeps its
pair field, a case that R17 leaves out, is the model's, log entry 42. -/
def State.disown (s : State) (p : Nat) : State :=
  match s.freeOwner p with
  | some i => s.setEntry i { s.entry i with pair := none }
  | none => s

/-- The recovery list without the ERASE_DEBRIS and SUPERSEDE items on a cell (R163). -/
def dropItemsOn (p : Nat) (c : CellName) (items : List RecoveryItem) : List RecoveryItem :=
  items.filter (fun i => i != .eraseDebris p c && i != .supersede p c)

/-- The pair of an ERASE_DEBRIS item whose erase FAILED (R163). -/
def State.debrisPairFails (s : State) (p : Nat) (c : CellName) : State :=
  let s := s.addBad p
  let s := { s with
    pool := s.pool.filter (fun q => q != p)
    recovery := dropItemsOn p (otherCell c) s.recovery }
  if s.isCurrentCell (Loc.num p (otherCell c)) then s else s.disown p

/-- The erase of an ERASE_DEBRIS item ends (R163). -/
def State.debrisErased (s : State) (p : Nat) (c : CellName) (step : DebrisStep) (took : Bool) : State :=
  match step with
  | .erase =>
    if took then s.itemDone
    else (s.debrisPairFails p c).claims (.eraseDebris p c .badFailed) (.mark (Loc.num p c) (markBit .bad))
  | _ => s

/-- A bad mark of an ERASE_DEBRIS item ends, COMPLETE or FAILED alike (R163). -/
def State.debrisMarked (s : State) (p : Nat) (c : CellName) (step : DebrisStep) : State :=
  match step with
  | .badFailed =>
    if s.isCurrentCell (Loc.num p (otherCell c)) then s.itemDone
    else s.claims (.eraseDebris p c .badOther) (.mark (Loc.num p (otherCell c)) (markBit .bad))
  | .badOther => s.itemDone
  | .erase => s

/-- A MARK_BAD item at the first of the cells given whose bad mark does not read set, or done when there is none
(R164). -/
def State.markBadFrom (s : State) (p : Nat) : List CellName → State
  | [] => s.itemDone
  | c :: rest =>
    if (s.markField (Loc.num p c)).has .bad then s.markBadFrom p rest
    else s.claims (.markBad p c) (.mark (Loc.num p c) (markBit .bad))

/-- A bad mark of a MARK_BAD item ends, COMPLETE or FAILED alike (R164). -/
def State.markBadMarked (s : State) (p : Nat) (c : CellName) : State :=
  match c with
  | .a => s.markBadFrom p [.b]
  | .b => s.itemDone

/-- The engine takes a recovery item (R162 to R164). -/
def State.startItem (s : State) (i : RecoveryItem) : State :=
  match i with
  | .eraseDebris p c => s.claims (.eraseDebris p c .erase) (.erase (Loc.num p c))
  | .supersede p c => s.claims (.supersede p c) (.mark (Loc.num p c) (markBit .supersede))
  | .finishRetire e p c => s.startFinishRetire e p c
  | .markBad p => s.markBadFrom p [.a, .b]

end Sys2Proof.Machine
end

