-- ==== Sys2Proof/Machine/Reset.lean ====
section
/-! DEFINITION. The three kinds of reset and the end of the reset hold (9.1). -/

namespace Sys2Proof.Machine

/-- The array step in progress or suspended is abandoned (R47). -/
def State.abandon (s : State) (r : Residue) : State :=
  match s.arb.suspended, s.arb.user with
  | some sp, _ => s.abandonStep r sp.step
  | none, some (.engine step) => s.abandonStep r step
  | none, _ => s

/-- Every block takes its reset value, Table 9-1; the array keeps what the abandoned step left in it. The commands that
wait and the counter of free values belong to the model and stay. -/
def State.clearTo (s : State) (phase : Phase) : State :=
  { State.reset with
    phase := phase, granules := s.granules, marks := s.marks, free := s.free, pending := s.pending }

/-- A power-on reset or a low level on RESET_N (R150): the part is held in reset. -/
def State.holdReset (s : State) (r : Residue) : State := (s.abandon r).clearTo .held

/-- The end of the hold (R150, R153): the part enters STARTING and the scan begins, with the capture record emptied
(R110). In any other phase there is no hold to end. -/
def State.endHold (s : State) : State :=
  if s.phase = .held then { s with phase := .starting, scan := Scan.start, capture := Capture.emptied } else s

/-- A RESTART is carried out (R151, R152): the part goes into STARTING. It has no hold (log entry 5). -/
def State.restart (s : State) (r : Residue) : State := (s.abandon r).clearTo .starting

/-- The engine is running a SETUP job (R151). -/
def State.setupRuns (s : State) : Bool :=
  match s.work with
  | .setup _ _ _ => true
  | _ => false

/-- RESTART (R151, R152). -/
def State.takeRestart (s : State) (p : Port) (args : Bytes) (r : Residue) : State :=
  s.command p (noArgs args) (fun _ =>
    match p with
    | .s => s.refuse .s .denied
    | .m => if s.setupRuns then { s with restartDeferred := true }.answer .m .ok [] else s.restart r)

/-- A deferred RESTART is carried out at the completion of the SETUP job (R152), when no array step is in progress. -/
def State.deferredRestart (s : State) : State := if s.restartDeferred then s.clearTo .starting else s

/-- RESTART (R151). -/
def execRestart (p : Port) (args : Bytes) (r : Residue) (s : State) : Host.Outcome State Fault Refusal :=
  .next (s.takeRestart p args r)

/-- POWER_ON (R150). -/
def execPowerOn (r : Residue) (s : State) : Host.Outcome State Fault Refusal := .next (s.holdReset r)

/-- RESET_N (R150). -/
def execResetN (r : Residue) (s : State) : Host.Outcome State Fault Refusal := .next (s.holdReset r)

/-- RESET_HOLD_END (R153). -/
def execResetHoldEnd (s : State) : Host.Outcome State Fault Refusal := .next s.endHold

end Sys2Proof.Machine
end

