-- ==== Sys2Proof/Machine/SetupWork.lean ====
section
/-! DEFINITION. The SETUP job (10.3, Figure 10-1). -/

namespace Sys2Proof.Machine

/-- The cell the job writes. -/
def SetupJob.loc (w : SetupJob) : Loc := Loc.setup w.idle

/-- The old cell (R169): the current setup cell, or the other cell when that was NONE. -/
def SetupJob.oldLoc (w : SetupJob) : Loc := Loc.setup (otherCell w.idle)

/-- Granule 1 as the job programs it. -/
def SetupJob.contentData (w : SetupJob) : Data := dataOfBytes (bytesOfContents w.contents)

/-- The content of a granule the job programs. -/
def SetupJob.content (w : SetupJob) (g : Nat) : Data := if g = 0 then setupHeaderData w.gen else w.contentData

/-- Step 10 (R170): the job completes with DONE, and a RESTART deferred behind it is carried out (R152). -/
def State.setupDone (s : State) (j : Job) (w : SetupJob) : State :=
  (s.completeJob j .done (some w.gen) false).deferredRestart

/-- The switch (R170), with the setup cell that is current after it. -/
def State.setupSwitch (s : State) (w : SetupJob) (current : Option CellName) : State :=
  { s with
    setup :=
      { contents := w.contents, gen := w.gen, fixed := s.setup.fixed || w.fix, currentCell := current,
        lastGen := w.gen } }

/-- A storage failure (R171): the new record comes into force, the current setup cell stays, SETUP_DAMAGED is set on both
ports, and the job completes with DONE. -/
def State.storageFailure (s : State) (j : Job) (w : SetupJob) : State :=
  ((s.setupSwitch w s.setup.currentCell).setFlagBoth .setupDamaged).setupDone j w

/-- The supersede mark on the old cell (R169, step 9). -/
def State.setupSupersede (s : State) (j : Job) (w : SetupJob) : State :=
  s.claims (.setup j w .supersede) (.mark w.oldLoc (markBit .supersede))

/-- The old cell is classified when the current setup cell was NONE (R169, step 9). -/
def State.setupClassifyOld (s : State) (j : Job) (w : SetupJob) (c : Classifying) : State :=
  s.claims (.setup j w (.classifyOld c)) (.read w.oldLoc c.granule none)

/-- Step 8, and the beginning of step 9 (R169, R170). -/
def State.setupInstall (s : State) (j : Job) (w : SetupJob) : State :=
  let s := s.setupSwitch w (some w.idle)
  if w.wasNone then s.setupClassifyOld j w Classifying.start else s.setupSupersede j w

/-- Step 2 at a granule (R169). -/
def State.setupClassify (s : State) (j : Job) (w : SetupJob) (c : Classifying) : State :=
  s.claims (.setup j w (.classify c)) (.read w.loc c.granule none)

/-- Step 3 (R169). -/
def State.setupHeader (s : State) (j : Job) (w : SetupJob) : State :=
  s.claims (.setup j w .header) (.program w.loc 0 (w.content 0))

/-- Step 5 at a granule (R169). -/
def State.setupVerify (s : State) (j : Job) (w : SetupJob) (g : Nat) : State :=
  s.claims (.setup j w (.verify g)) (.read w.loc g none)

/-- A read of a SETUP job ends. -/
def State.setupRead (s : State) (j : Job) (w : SetupJob) (step : SetupStep) (r : Outcome × Data) : State :=
  match step with
  | .classify c =>
    match c.take (s.markField w.loc) (setupHeaderOf r).isSome r with
    | .more c => s.setupClassify j w c
    | .found .erased => s.setupHeader j w
    | .found _ => s.claims (.setup j w .erase) (.erase w.loc)
  | .verify g =>
    if verified r (w.content g) then
      if g = 0 then s.setupVerify j w 1 else s.claims (.setup j w .commitMark) (.mark w.loc (markBit .commit))
    else s.storageFailure j w
  | .classifyOld c =>
    match c.take (s.markField w.oldLoc) (setupHeaderOf r).isSome r with
    | .more c => s.setupClassifyOld j w c
    | .found .committed => s.setupSupersede j w
    | .found _ => s.setupDone j w
  | _ => s

/-- A granule program of a SETUP job ends. -/
def State.setupProgrammed (s : State) (j : Job) (w : SetupJob) (step : SetupStep) : State :=
  match step with
  | .header => s.claims (.setup j w .data) (.program w.loc 1 (w.content 1))
  | .data => s.setupVerify j w 0
  | _ => s

/-- A mark program of a SETUP job ends; a fixed or supersede mark that FAILED is tolerated (R169). -/
def State.setupMarked (s : State) (j : Job) (w : SetupJob) (step : SetupStep) (took : Bool) : State :=
  match step with
  | .commitMark =>
    if took then
      if w.fix then s.claims (.setup j w .fixedMark) (.mark w.loc (markBit .fixed)) else s.setupInstall j w
    else s.storageFailure j w
  | .fixedMark => s.setupInstall j w
  | .supersede => s.setupDone j w
  | _ => s

/-- The erase of step 2 of a SETUP job ends. -/
def State.setupErased (s : State) (j : Job) (w : SetupJob) (step : SetupStep) (took : Bool) : State :=
  match step with
  | .erase => if took then s.setupHeader j w else s.storageFailure j w
  | _ => s

/-- The idle cell (R169): not the current setup cell, or cell A when that is NONE. -/
def SetupStore.idleCell (st : SetupStore) : CellName :=
  match st.currentCell with
  | some c => otherCell c
  | none => .a

/-- A SETUP job that has passed its start check begins (R169). -/
def State.startSetup (s : State) (j : Job) (contents : SetupContents) (fix : Bool) : State :=
  s.setupClassify j
    ⟨contents, fix, nextGen s.setup.lastGen, s.setup.idleCell, s.setup.currentCell.isNone⟩ Classifying.start

end Sys2Proof.Machine
end

