-- ==== Sys2Proof/Machine/Writing.lean ====
section
/-! DEFINITION. The COMMIT sequence (Figure 3-1), with pair failure, relocation and exhaustion (5.3), and the REFRESH,
which runs it on a record's own data (6.5). -/

namespace Sys2Proof.Machine

/-! ### The record being written -/

/-- The contents of data granules 1 to 7 that hold payload bytes (R28). -/
def payloadOf (bytes : Bytes) : List Data := (List.range 7).map (fun k => dataOfBytes ((bytes.drop (32 * k)).take 32))

/-- The payload a COMMIT writes: the buffer's bytes 0 to length - 1 (R51). -/
def bufferPayload (b : Buffer) (length : Nat) : List Data := payloadOf ((List.range length).map b.byte)

/-- The payload a REFRESH writes: each granule as its read gave it (R122). -/
def refreshPayload (got : List Data) : List Data := got ++ List.replicate (7 - got.length) erasedData

/-- The content of a data granule of the record. -/
def WriteJob.granule (w : WriteJob) (g : Nat) : Data := w.payload.getD (g - 1) erasedData

/-- The header granule of the record (R66). -/
def WriteJob.header (w : WriteJob) : Data := headerData w.key w.entry w.cls w.newGen w.length

/-- The content of any granule the job programs. -/
def WriteJob.content (w : WriteJob) (g : Nat) : Data := if g = 0 then w.header else w.granule g

/-- The data granules the job programs, in ascending order: those that are not all FFH (R66). -/
def WriteJob.dataGranules (w : WriteJob) : List Nat :=
  (granuleSpan 1 (lastGranule w.length)).filter (fun g => w.granule g != erasedData)

/-- The next data granule to program or verify after a granule. -/
def WriteJob.following (w : WriteJob) (g : Nat) : Option Nat := w.dataGranules.find? (fun k => decide (g < k))

/-- The cell being written. -/
def WriteJob.loc (w : WriteJob) : Loc := Loc.num w.pair w.cell

/-- The entry index of a classification read's report: absent for a spare, which is mapped to no entry (R35, log entry
15). -/
def WriteJob.classifyEntry (w : WriteJob) : Option Nat := if w.spare then none else some w.entry

/-! ### Completion -/

/-- The relocated flag of the result (R104). -/
def WriteJob.relocated (w : WriteJob) : Bool := !w.failed.isEmpty || (w.stranded && w.spare)

/-- A COMMIT completes with DONE (R71), a REFRESH without a result (R123); the census unit is told. -/
def State.writeDone (s : State) (job : Option Job) (w : WriteJob) : State :=
  (match job with
    | some j => s.completeJob j .done (some w.newGen) w.relocated
    | none => s.idle).tellCensus w.cls

/-- A COMMIT completes with NO_SPARE; a REFRESH ends and its entry leaves the refresh list (R106, R123). -/
def State.writeNoSpare (s : State) (job : Option Job) (w : WriteJob) : State :=
  match job with
  | some j => s.completeJob j .noSpare none false
  | none => (s.unlist w.entry).idle

/-! ### The steps -/

/-- Step 2 begins: the idle cell is classified (R65). -/
def State.writeClassify (s : State) (job : Option Job) (w : WriteJob) (c : Classifying) : State :=
  s.claims (.write job w (.classify c)) (.read w.loc c.granule w.classifyEntry)

/-- Step 3: the header is programmed (R66). -/
def State.writeHeader (s : State) (job : Option Job) (w : WriteJob) : State :=
  s.claims (.write job w .header) (.program w.loc 0 w.header)

/-- Step 2, the erase of the idle cell (R65). -/
def State.writeErase (s : State) (job : Option Job) (w : WriteJob) : State :=
  s.claims (.write job w .erase) (.erase w.loc)

/-- Step 5 at a granule: verify reads are made for the entry (R67). -/
def State.writeVerify (s : State) (job : Option Job) (w : WriteJob) (g : Nat) : State :=
  s.claims (.write job w (.verify g)) (.read w.loc g (some w.entry))

/-- Step 4 after a granule: the next data granule, or verify (R66). -/
def State.writeData (s : State) (job : Option Job) (w : WriteJob) (after : Nat) : State :=
  match w.following after with
  | some g => s.claims (.write job w (.data g)) (.program w.loc g (w.granule g))
  | none => s.writeVerify job w 0

/-- Both cells of a pair, A first (R105). -/
def bothCells (p : Nat) : List (Nat × CellName) := [(p, .a), (p, .b)]

/-- The bad marks that follow a switch to a spare, and then completion (R105). -/
def State.writeBadMarks (s : State) (job : Option Job) (w : WriteJob) (cells : List (Nat × CellName)) : State :=
  match cells with
  | [] => s.writeDone job w
  | (p, c) :: rest => s.claims (.write job w (.badMarks rest)) (.mark (Loc.num p c) (markBit .bad))

/-- The bad marks before NO_SPARE, and then completion (R106). -/
def State.writeExhaustMarks (s : State) (job : Option Job) (w : WriteJob) (cells : List (Nat × CellName)) : State :=
  match cells with
  | [] => s.writeNoSpare job w
  | (p, c) :: rest => s.claims (.write job w (.exhaustMarks rest)) (.mark (Loc.num p c) (markBit .bad))

/-- The cells of the failed pairs that are bad-marked on exhaustion (R106): of a LIVE entry's own pair only the cell that
failed. -/
def State.exhaustCells (s : State) (w : WriteJob) : List (Nat × CellName) :=
  (w.failed.map (fun f =>
    if (s.entry w.entry).isLive ∧ (s.entry w.entry).pair = some f.1 then [f] else bothCells f.1)).flatten

/-- The cells that are bad-marked after a switch to a spare (R105): the old pair of an entry that was stranded at start
first, then the failed pairs in order. That a NASCENT entry's pair that was BAD at start is none of them is the model's,
log entry 41. -/
def WriteJob.badCells (w : WriteJob) : List (Nat × CellName) :=
  (match w.stranded, w.old with
    | true, some (p, _) => bothCells p
    | _, _ => []) ++ (w.failed.map (fun f => bothCells f.1)).flatten

/-- The job goes on to cell A of a spare, or to spare exhaustion (R64, R99, R103, R106). -/
def State.writeOnSpare (s : State) (job : Option Job) (w : WriteJob) : State :=
  match s.takeSpare with
  | some (p, s') => s'.writeClassify job { w with pair := p, cell := .a, spare := true } Classifying.start
  | none => s.writeExhaustMarks job w (s.exhaustCells w)

/-- The written pair fails (R102). -/
def State.pairFails (s : State) (job : Option Job) (w : WriteJob) : State :=
  let s := s.addBad w.pair
  { s with reserved := if w.spare then none else s.reserved }.writeOnSpare job
    { w with failed := w.failed ++ [(w.pair, w.cell)] }

/-- The directory switch (R69, R9, R104). -/
def State.switch (s : State) (w : WriteJob) : State :=
  let s := s.unlist w.entry
  let e := s.entry w.entry
  let live : Live :=
    { key := w.key, cls := w.cls, length := w.length, gen := w.newGen, cell := w.cell, guardMap := 0,
      fixed := (match e.body with | .live l => l.fixed | _ => false), damaged := false, refreshWanted := false }
  { s with reserved := if w.spare then none else s.reserved }.setEntry w.entry
    { e with body := .live live, pair := some w.pair }

/-- Step 8 (R70): the supersede mark on the old cell when the entry's own pair was written, the bad marks when a spare
was (R105), nothing when there is no old cell. -/
def State.afterSwitch (s : State) (job : Option Job) (w : WriteJob) : State :=
  if w.spare then s.writeBadMarks job w w.badCells
  else
    match w.old with
    | some (p, c) => s.claims (.write job w .supersede) (.mark (Loc.num p c) (markBit .supersede))
    | none => s.writeDone job w

/-! ### Ends of the array steps -/

/-- A read of a COMMIT or REFRESH past its first write step ends (R65, R67). -/
def State.writeRead (s : State) (job : Option Job) (w : WriteJob) (step : WriteStep) (r : Outcome × Data) : State :=
  match step with
  | .classify c =>
    match c.take (s.markField w.loc) (headerOf r).isSome r with
    | .more c => s.writeClassify job w c
    | .found .erased => s.writeHeader job w
    | .found _ => s.writeErase job w
  | .verify g =>
    if verified r (w.content g) then
      match w.following g with
      | some k => s.writeVerify job w k
      | none => s.claims (.write job w .commitMark) (.mark w.loc (markBit .commit))
    else s.pairFails job w
  | _ => s

/-- A granule program of a COMMIT or REFRESH ends. -/
def State.writeProgrammed (s : State) (job : Option Job) (w : WriteJob) (step : WriteStep) : State :=
  match step with
  | .header => s.writeData job w 0
  | .data g => s.writeData job w g
  | _ => s

/-- A mark program of a COMMIT or REFRESH ends (R68, R70, R105, R106). -/
def State.writeMarked (s : State) (job : Option Job) (w : WriteJob) (step : WriteStep) (took : Bool) : State :=
  match step with
  | .commitMark => if took then (s.switch w).afterSwitch job w else s.pairFails job w
  | .supersede => s.writeDone job w
  | .badMarks rest => s.writeBadMarks job w rest
  | .exhaustMarks rest => s.writeExhaustMarks job w rest
  | _ => s

/-- The erase of step 2 ends (R65). -/
def State.writeErased (s : State) (job : Option Job) (w : WriteJob) (step : WriteStep) (took : Bool) : State :=
  match step with
  | .erase => if took then s.writeHeader job w else s.pairFails job w
  | _ => s

/-! ### Starting -/

/-- The generation a COMMIT or REFRESH writes (R66). -/
def Entry.nextGen (e : Entry) : Gen :=
  match e.body with
  | .live l => Sys2Proof.Machine.nextGen l.gen
  | _ => 1

/-- The pair and cell of the old record of a LIVE entry (R64). -/
def Entry.oldCell (e : Entry) : Option (Nat × CellName) :=
  match e.body, e.pair with
  | .live l, some p => some (p, l.cell)
  | _, _ => none

/-- The idle cell of an entry's own pair (R64): not the current cell of a LIVE entry, cell A of a NASCENT one. -/
def Entry.idleCell (e : Entry) : CellName :=
  match e.body with
  | .live l => otherCell l.cell
  | _ => .a

/-- The entry's own pair when it can be written: it is not NONE and not in the BAD set (R64). -/
def State.usablePair (s : State) (i : Nat) : Option Nat :=
  match (s.entry i).pair with
  | some p => if s.isBad p then none else some p
  | none => none

/-- What a job is to write to an entry, with its pair and cell still to be chosen. -/
def State.writeJobFor (s : State) (i : Nat) (length : Nat) (payload : List Data) : WriteJob :=
  let e := s.entry i
  { entry := i, key := e.key?.getD 0, cls := s.classOf i, newGen := e.nextGen, length := length, payload := payload,
    old := e.oldCell, stranded := s.stranded i, pair := 0, cell := .a, spare := false, failed := [] }

/-- Step 1: the pair and the idle cell are chosen (R64). -/
def State.startWrite (s : State) (job : Option Job) (i : Nat) (length : Nat) (payload : List Data) : State :=
  let w := s.writeJobFor i length payload
  match s.usablePair i with
  | some p => s.writeClassify job { w with pair := p, cell := (s.entry i).idleCell } Classifying.start
  | none => s.writeOnSpare job w

/-! ### REFRESH -/

/-- A REFRESH reads a data granule of its record (R122). -/
def State.refreshReads (s : State) (i pair : Nat) (cell : CellName) (g : Nat) (got : List Data) : State :=
  s.claims (.refreshRead i pair cell g got) (.read (Loc.num pair cell) g (some i))

/-- The length of a LIVE entry's record. -/
def Entry.length (e : Entry) : Nat :=
  match e.body with
  | .live l => l.length
  | _ => 0

/-- A read of a REFRESH ends (R122): UNCORRECTABLE ends it, and after the last granule it writes (R123). -/
def State.refreshRead (s : State) (i pair : Nat) (cell : CellName) (g : Nat) (got : List Data) (r : Outcome × Data) :
    State :=
  if r.1 = .uncorrectable then (s.unlist i).idle
  else if g < lastGranule (s.entry i).length then s.refreshReads i pair cell (g + 1) (got ++ [r.2])
  else s.startWrite none i (s.entry i).length (refreshPayload (got ++ [r.2]))

/-- The entry at the head of the list is dropped when the engine takes it (R121). -/
def State.dropsRefresh (s : State) (i : Nat) : Bool :=
  match (s.entry i).body with
  | .live l => l.fixed || !(s.policy l.cls).refreshOk || decide (0 < (s.entry i).jobs)
  | _ => true

/-- The engine takes an entry from the head of the refresh list (R121). Its record is read before a spare is looked for;
log entry 37. -/
def State.startRefresh (s : State) (i : Nat) : State :=
  if s.dropsRefresh i then s.unlist i
  else
    match (s.entry i).oldCell with
    | some (p, c) => s.refreshReads i p c 1 []
    | none => s.unlist i

end Sys2Proof.Machine
end

