-- ==== Sys2Proof/Machine/EngineEvents.lean ====
section
/-! DEFINITION. The engine's choice of work, the start of a host job, and the ends of the engine's array steps
(3.4, 3.7, 2.6). -/

namespace Sys2Proof.Machine

/-! ### Start -/

/-- Start check 1 (Table 3-6): the state a job needs its entry to be in. -/
def JobBody.startState (b : JobBody) (e : Entry) : Bool := if b.isCommit then e.isActive else e.isLive

/-- The expected generation differs from the entry's (R63): 0 asks for no check, and a NASCENT entry has none. -/
def JobBody.stale (b : JobBody) (e : Entry) : Bool :=
  match b.expected? with
  | some g => g != 0 && e.gen? != some g
  | none => false

/-- A PATCH reaches past the record as it stands at start (R81). -/
def JobBody.patchPast (b : JobBody) (e : Entry) : Bool :=
  match b with
  | .patch _ _ offset data _ => decide (e.length < offset + data.length)
  | _ => false

/-- The start checks of a job (Table 3-6, R81, R168). -/
def State.startChecks (s : State) (b : JobBody) : List (Bool × JobResult) :=
  match b.entry? with
  | none => [(s.setup.fixed, .locked)]
  | some i =>
    let e := s.entry i
    [(!b.startState e, .gone), (e.isFixed, .locked), (b.stale e, .staleGen), (s.inhibited (s.classOf i), .inhibited),
      (b.patchPast e, .staleGen)]

/-- The sequence of a job that passed its start checks. A LIVE entry has a current cell (log entry 27 for one that has no
pair). -/
def State.startSequence (s : State) (j : Job) : State :=
  match j.body with
  | .commit i _ b length _ => s.startWrite (some j) i length (bufferPayload (s.buffers[b]) length)
  | .patch i _ offset data _ =>
    match (s.entry i).oldCell with
    | some old => s.startPatch j i offset data old
    | none => s.completeJob j .gone none false
  | .retire i _ _ =>
    match (s.entry i).oldCell with
    | some old => s.startRetire j i old
    | none => s.completeJob j .gone none false
  | .fix i _ =>
    match (s.entry i).oldCell with
    | some old => s.startFix j i old
    | none => s.completeJob j .gone none false
  | .setup contents fix => s.startSetup j contents fix

/-- A host job is taken from the queue (R61, R62). -/
def State.startJob (s : State) (j : Job) : State :=
  match firstFailing (s.startChecks j.body) with
  | some r => s.completeJob j r none false
  | none => s.startSequence j

/-- The engine may choose work: the part is READY and the engine has none (R76, R153). -/
def State.mayChoose (s : State) : Bool := s.phase == .ready && s.work == .idle

/-- JOB_START (R61): with no recovery item waiting, the oldest not-started job is taken (Table 3-9, line 2). -/
def State.jobStarts (s : State) : State :=
  match s.mayChoose, s.recovery, s.queue with
  | true, [], j :: _ => (s.startJob j).grant
  | _, _, _ => s

/-- REFRESH_START (R121): with no recovery item and no host job, the head of the refresh list is taken (Table 3-9,
line 3). -/
def State.refreshStarts (s : State) : State :=
  match s.mayChoose, s.recovery, s.queue, s.refresh.list with
  | true, [], [], i :: _ => (s.startRefresh i).grant
  | _, _, _, _ => s

/-- RECOVERY_START (R162): the next recovery item is taken (Table 3-9, line 1). -/
def State.recoveryStarts (s : State) : State :=
  match s.mayChoose, s.recovery with
  | true, i :: _ => (s.startItem i).grant
  | _, _ => s

/-! ### Ends of steps -/

/-- The engine advances after a granule read. -/
def State.afterRead (s : State) (r : Outcome × Data) : State :=
  match s.work with
  | .write job w step => s.writeRead job w step r
  | .refreshRead i p c g got => s.refreshRead i p c g got r
  | .patch j w step => s.patchRead j w step r
  | .retire job w step => s.retireRead job w step r
  | .setup j w step => s.setupRead j w step r
  | _ => s

/-- The engine advances after a granule program. -/
def State.afterProgram (s : State) : State :=
  match s.work with
  | .write job w step => s.writeProgrammed job w step
  | .patch j w step => s.patchProgrammed j w step
  | .setup j w step => s.setupProgrammed j w step
  | _ => s

/-- The engine advances after a mark program. -/
def State.afterMark (s : State) (took : Bool) : State :=
  match s.work with
  | .write job w step => s.writeMarked job w step took
  | .patch j w step => s.patchMarked j w step took
  | .retire job w step => s.retireMarked job w step
  | .fix j i => s.fixMarked j i
  | .setup j w step => s.setupMarked j w step took
  | .eraseDebris p c step => s.debrisMarked p c step
  | .supersede _ _ => s.itemDone
  | .markBad p c => s.markBadMarked p c
  | _ => s

/-- The engine advances after a cell erase. -/
def State.afterErase (s : State) (took : Bool) : State :=
  match s.work with
  | .write job w step => s.writeErased job w step took
  | .retire job w step => s.retireErased job w step took
  | .setup j w step => s.setupErased j w step took
  | .eraseDebris p c step => s.debrisErased p c step took
  | _ => s

/-- The engine's step leaves the array. -/
def State.release (s : State) : State := { s with arb := { s.arb with user := none } }

/-- An engine granule read ends (R35, R42): it is reported with the party ENGINE, and the engine advances. -/
def State.endEngineRead (s : State) (us : List Upset) : State :=
  match s.arb.user with
  | some (.engine (.read loc g entry)) =>
    let s := s.upsets loc us
    let r := s.readGranule loc g
    (((s.report ⟨r.1, loc, g, entry, .engine⟩).release).afterRead r).stepBoundary
  | _ => s

/-- An engine granule program ends (R26, R42). -/
def State.endProgram (s : State) (us : List Upset) : State :=
  match s.arb.user with
  | some (.engine (.program loc g d)) => ((((s.programGranule loc g d).upsets loc us).release).afterProgram).stepBoundary
  | _ => s

/-- An engine mark program ends, COMPLETE when every mark named reads set (Table 2-3, R42). The engine advances before
anyone is granted, so that a READ that waited through a commit mark meets the new record; log entry 36. -/
def State.endMark (s : State) (us : List Upset) : State :=
  match s.arb.user with
  | some (.engine (.mark loc marks)) =>
    let s := (s.programMarks loc marks).upsets loc us
    ((s.release).afterMark (s.marksTook loc marks)).stepBoundary
  | _ => s

/-- An engine cell erase ends, COMPLETE when the whole cell is erased (Table 2-3, R42). -/
def State.endErase (s : State) (us : List Upset) : State :=
  match s.arb.user with
  | some (.engine (.erase loc)) =>
    let s := (s.eraseCell loc).upsets loc us
    ((s.release).afterErase (s.eraseTook loc)).stepBoundary
  | _ => s

/-! ### Meanings -/

/-- JOB_START (R61). -/
def execJobStart (s : State) : Host.Outcome State Fault Refusal := .next s.jobStarts

/-- REFRESH_START (R121). -/
def execRefreshStart (s : State) : Host.Outcome State Fault Refusal := .next s.refreshStarts

/-- RECOVERY_START (R162). -/
def execRecoveryStart (s : State) : Host.Outcome State Fault Refusal := .next s.recoveryStarts

/-- ENGINE_READ_END (R67). -/
def execEngineReadEnd (us : List Upset) (s : State) : Host.Outcome State Fault Refusal := .next (s.endEngineRead us)

/-- GRANULE_PROGRAM_END (R66). -/
def execGranuleProgramEnd (us : List Upset) (s : State) : Host.Outcome State Fault Refusal := .next (s.endProgram us)

/-- MARK_PROGRAM_END (R68). -/
def execMarkProgramEnd (us : List Upset) (s : State) : Host.Outcome State Fault Refusal := .next (s.endMark us)

/-- CELL_ERASE_END (R65). -/
def execCellEraseEnd (us : List Upset) (s : State) : Host.Outcome State Fault Refusal := .next (s.endErase us)

end Sys2Proof.Machine
end

