-- ==== Sys2Proof/Machine/Finding.lean ====
section
/-! DEFINITION. FIND and LIST (1.6, 1.7). -/

namespace Sys2Proof.Machine

/-- The entry FIND reports for a key (Table 1-6): the active entry, else the lowest of the retiring list. -/
def State.found (s : State) (k : Key) : Option Nat := (s.activeIndex k).orElse (fun _ => (s.retiringList k).head?)

/-- FIND (R18). -/
def State.takeFind (s : State) (p : Port) (args : Bytes) : State :=
  s.command p (keyArg args) (fun k =>
    if keyValid k then
      match s.found k with
      | some i => s.answer p .ok (s.describe i)
      | none => s.refuse p .notFound
    else s.refuse p .badArg)

/-- An entry matches a filter (R20), where none is ALL. -/
def Entry.matches (e : Entry) (filter : Option Cls) : Bool :=
  match e.cls? with
  | some c => inScope filter c
  | none => false

/-- The lowest entry at or above an index that is not FREE and matches the filter (R20). -/
def State.listed (s : State) (start : Nat) (filter : Option Cls) : Option Nat :=
  entryIndices.find? (fun i => decide (start ≤ i) && (s.entry i).matches filter)

/-- LIST (R20). -/
def State.takeList (s : State) (p : Port) (args : Bytes) : State :=
  s.command p (listArgs args) (fun a =>
    match scopeOfByte a.2 with
    | none => s.refuse p .badArg
    | some filter =>
      if a.1 ≤ 512 then
        match s.listed a.1 filter with
        | some i => s.answer p .ok (s.describe i)
        | none => s.refuse p .endOfList
      else s.refuse p .badArg)

/-- FIND (R18). -/
def execFind (p : Port) (args : Bytes) (s : State) : Host.Outcome State Fault Refusal := .next (s.takeFind p args)

/-- LIST (R20). -/
def execList (p : Port) (args : Bytes) (s : State) : Host.Outcome State Fault Refusal := .next (s.takeList p args)

end Sys2Proof.Machine
end

