-- ==== Sys2Proof/Machine/Holds.lean ====
section
/-! DEFINITION. Holds, their leases, and the class-inhibit mask (Chapter 7). -/

namespace Sys2Proof.Machine

/-- The class lease of an entry (R126). A FREE entry, which no slot is on, has no class; log entry 27. -/
def State.leaseOf (s : State) (i : Nat) : Byte := (s.policy ((s.entry i).cls?.getD 0)).lease

/-- The port's slot that satisfies a test, lowest first. -/
def State.slotWith (s : State) (p : Port) (test : HoldSlot → Bool) : Option (Fin 8) :=
  (slotsOf p).find? (fun i => test (s.holds[i]))

/-- A slot takes the lease given, on the entry it is on. -/
def HoldSlot.reload (h : HoldSlot) (lease : Byte) : HoldSlot :=
  match h with
  | .active q e k _ => .active q e k lease
  | h => h

/-- A slot becomes ACTIVE and the answer carries the entry index and the lease loaded (R126). -/
def State.giveHold (s : State) (p : Port) (slot : Fin 8) (h : HoldSlot) (i : Nat) : State :=
  (s.setHold slot h).answer p .ok (be16 i ++ [s.leaseOf i])

/-- HOLD on a resolved entry (Table 7-1, lines 4 to 8). -/
def State.holdEntry (s : State) (p : Port) (i : Nat) (k : Key) : State :=
  match s.slotWith p (HoldSlot.activeOn i) with
  | some slot => s.giveHold p slot ((s.holds[slot]).reload (s.leaseOf i)) i
  | none =>
    if s.holdsActive (otherPort p) i then s.refuse p .held
    else
      match s.slotWith p (HoldSlot.lapsedOn i) with
      | some slot => s.giveHold p slot (.active p i k (s.leaseOf i)) i
      | none =>
        match s.slotWith p (fun h => h == .empty) with
        | some slot => s.giveHold p slot (.active p i k (s.leaseOf i)) i
        | none => s.refuse p .full

/-- HOLD (R126). -/
def State.takeHold (s : State) (p : Port) (args : Bytes) : State :=
  s.command p (keyArg args) (fun k =>
    if keyValid k then
      match s.resolve k with
      | .error st => s.refuse p st
      | .ok i => s.holdEntry p i k
    else s.refuse p .badArg)

/-- The port's slot for a key (R129): when two carry it, the one whose entry is the key's active index. -/
def State.slotForKey (s : State) (p : Port) (k : Key) : Option (Fin 8) :=
  (s.slotWith p (fun h => h.key? == some k && h.entry? == s.activeIndex k)).orElse
    (fun _ => s.slotWith p (fun h => h.key? == some k))

/-- RENEW (R129). -/
def State.takeRenew (s : State) (p : Port) (args : Bytes) : State :=
  s.command p (keyArg args) (fun k =>
    if keyValid k then
      match s.slotForKey p k with
      | none => s.refuse p .notHeld
      | some slot =>
        match s.holds[slot] with
        | .active q e k' _ => (s.setHold slot (.active q e k' (s.leaseOf e))).answer p .ok [s.leaseOf e]
        | _ => (s.setHold slot .empty).refuse p .expired
    else s.refuse p .badArg)

/-- RELEASE (R130). -/
def State.takeRelease (s : State) (p : Port) (args : Bytes) : State :=
  s.command p (keyArg args) (fun k =>
    if keyValid k then
      match s.slotForKey p k with
      | none => s.refuse p .notHeld
      | some slot =>
        match s.holds[slot] with
        | .active _ _ _ _ => (s.setHold slot .empty).answer p .ok []
        | _ => (s.setHold slot .empty).refuse p .expired
    else s.refuse p .badArg)

/-! ### Leases -/

/-- The lease of an ACTIVE slot falls by one (R128). -/
def HoldSlot.lower (h : HoldSlot) : HoldSlot :=
  match h with
  | .active q e k lease => .active q e k (if lease = 0 then 0 else lease - 1)
  | h => h

/-- The expiry of a slot (R128): an ACTIVE slot whose lease has reached 0 becomes LAPSED and sets HOLD_LAPSED on its
port. Any other slot is left as it is. -/
def State.expire (s : State) (slot : Fin 8) : State :=
  match s.holds[slot] with
  | .active q e k lease => if lease = 0 then (s.setHold slot (.lapsed q e k)).setFlag q .holdLapsed else s
  | _ => s

/-- The hold slots, 0 to 7. -/
def allSlots : List (Fin 8) := [0, 1, 2, 3, 4, 5, 6, 7]

/-- The end of a lease interval (R128): every ACTIVE lease falls by one, and the slots that reach 0 expire at that moment.
The lease clock runs only while the part is READY. -/
def State.endInterval (s : State) : State :=
  if s.phase = .ready then
    allSlots.foldl State.expire { s with holds := s.holds.map HoldSlot.lower }
  else s

/-- The expiry of one slot as an event of its own; a number above 7 names no slot. -/
def State.holdLapses (s : State) (slot : Nat) : State :=
  if h : slot < 8 then
    if s.phase = .ready then s.expire ⟨slot, h⟩ else s
  else s

/-! ### The class-inhibit mask -/

/-- INHIBIT (R139). -/
def State.takeInhibit (s : State) (p : Port) (args : Bytes) : State :=
  s.command p (maskArgs args) (fun a =>
    if a.1 &&& a.2 = 0 then
      let mask := (s.inhibit ||| a.1) &&& ~~~a.2
      { s with inhibit := mask }.answer p .ok [mask]
    else s.refuse p .badArg)

/-! ### Meanings -/

/-- HOLD (R126). -/
def execHold (p : Port) (args : Bytes) (s : State) : Host.Outcome State Fault Refusal := .next (s.takeHold p args)

/-- RENEW (R129). -/
def execRenew (p : Port) (args : Bytes) (s : State) : Host.Outcome State Fault Refusal := .next (s.takeRenew p args)

/-- RELEASE (R130). -/
def execRelease (p : Port) (args : Bytes) (s : State) : Host.Outcome State Fault Refusal := .next (s.takeRelease p args)

/-- INHIBIT (R139). -/
def execInhibit (p : Port) (args : Bytes) (s : State) : Host.Outcome State Fault Refusal := .next (s.takeInhibit p args)

/-- LEASE_INTERVAL (R128). -/
def execLeaseInterval (s : State) : Host.Outcome State Fault Refusal := .next s.endInterval

/-- HOLD_LAPSED (R128). -/
def execHoldLapsed (slot : Nat) (s : State) : Host.Outcome State Fault Refusal := .next (s.holdLapses slot)

end Sys2Proof.Machine
end

