-- ==== Sys2Proof/Machine/Queries.lean ====
section
/-! DEFINITION. CAPTURE, CAPTURE_CLEAR, REFRESH_LIST, the census commands and the end of a census read, SETUP_READ
(Chapters 6, 8 and 10). -/

namespace Sys2Proof.Machine

/-- CAPTURE (R112). -/
def State.takeCapture (s : State) (p : Port) (args : Bytes) : State :=
  s.command p (noArgs args) (fun _ => s.answer p .ok s.capture.bytes)

/-- CAPTURE_CLEAR (R113). -/
def State.takeCaptureClear (s : State) (p : Port) (args : Bytes) : State :=
  s.command p (noArgs args) (fun _ => { s with capture := Capture.emptied }.answer p .ok [])

/-- REFRESH_LIST (R120). -/
def State.takeRefreshList (s : State) (p : Port) (args : Bytes) : State :=
  s.command p (noArgs args) (fun _ => s.answer p .ok s.refreshBytes)

/-- SETUP_READ (R167). -/
def State.takeSetupRead (s : State) (p : Port) (args : Bytes) : State :=
  s.command p (noArgs args) (fun _ => s.answer p .ok s.setup.bytes)

/-- The census is RUNNING. -/
def State.censusRunning (s : State) : Bool :=
  match s.census with
  | some c => c.state == .running
  | none => false

/-- A census read that holds the array no longer counts (R148). -/
def User.discount (u : User) : User :=
  match u with
  | .census l g e _ => .census l g e false
  | u => u

/-- The arbiter without the census unit's waiting read; one that holds the array goes on but counts no more (R148). The
step boundary owes the unit nothing for the read withdrawn: a read claimed later waits (R42). -/
def Arbiter.withoutCensus (a : Arbiter) : Arbiter :=
  { a with
    waitCensus := none
    user := a.user.map User.discount
    boundary := a.boundary.map (fun b => { b with census := false }) }

/-- CENSUS (R142, Table 8-2): the record is replaced, and the walk begins when the command is taken (R143). -/
def State.takeCensus (s : State) (p : Port) (args : Bytes) : State :=
  s.command p (byteArg args) (fun b =>
    match scopeOfByte b with
    | none => s.refuse p .badArg
    | some scope =>
      if s.censusRunning then s.refuse p .busy
      else
        ({ s with arb := s.arb.withoutCensus }.answer p .ok []).takeUp (CensusRun.start scope p) |>.grant)

/-- CENSUS_RESULT (R149). -/
def State.takeCensusResult (s : State) (p : Port) (args : Bytes) : State :=
  s.command p (noArgs args) (fun _ => s.answer p .ok (censusBytes s.census))

/-- A RUNNING census becomes CANCELLED, and its waiting read is withdrawn (R148). -/
def State.cancelCensus (s : State) : State :=
  { s with
    census := s.census.map (fun c => { c with state := .cancelled })
    arb := s.arb.withoutCensus }

/-- CENSUS_CANCEL (R148). -/
def State.takeCensusCancel (s : State) (p : Port) (args : Bytes) : State :=
  s.command p (noArgs args) (fun _ => (if s.censusRunning then s.cancelCensus else s).answer p .ok [])

/-- A census read ends (R144): it is reported with the party CENSUS, and unless its census was cancelled it enters the
record. Without a census read that holds the array nothing happens. That an engine step that waits goes before the header
read of a new CENSUS that waits already, at the end of a cancelled census's read, is the model's, log entry 43. -/
def State.endCensusRead (s : State) (us : List Upset) : State :=
  match s.arb.user with
  | some (.census loc g e counts) =>
    let s := s.upsets loc us
    let r := s.readGranule loc g
    let s := s.report ⟨r.1, loc, g, some e, .census⟩
    let s := { s with arb := { s.arb with user := none } }
    (if counts then s.censusRead g r else s).grantAfterCensus
  | _ => s

/-- CAPTURE (R112). -/
def execCapture (p : Port) (args : Bytes) (s : State) : Host.Outcome State Fault Refusal := .next (s.takeCapture p args)

/-- CAPTURE_CLEAR (R113). -/
def execCaptureClear (p : Port) (args : Bytes) (s : State) : Host.Outcome State Fault Refusal :=
  .next (s.takeCaptureClear p args)

/-- REFRESH_LIST (R120). -/
def execRefreshList (p : Port) (args : Bytes) (s : State) : Host.Outcome State Fault Refusal :=
  .next (s.takeRefreshList p args)

/-- SETUP_READ (R167). -/
def execSetupRead (p : Port) (args : Bytes) (s : State) : Host.Outcome State Fault Refusal :=
  .next (s.takeSetupRead p args)

/-- CENSUS (R142). -/
def execCensus (p : Port) (args : Bytes) (s : State) : Host.Outcome State Fault Refusal := .next (s.takeCensus p args)

/-- CENSUS_RESULT (R149). -/
def execCensusResult (p : Port) (args : Bytes) (s : State) : Host.Outcome State Fault Refusal :=
  .next (s.takeCensusResult p args)

/-- CENSUS_CANCEL (R148). -/
def execCensusCancel (p : Port) (args : Bytes) (s : State) : Host.Outcome State Fault Refusal :=
  .next (s.takeCensusCancel p args)

/-- CENSUS_READ_END (R144). -/
def execCensusReadEnd (us : List Upset) (s : State) : Host.Outcome State Fault Refusal := .next (s.endCensusRead us)

end Sys2Proof.Machine
end

