-- ==== Sys2Proof/Machine/Scanning.lean ====
section
/-! DEFINITION. The start-up scan: its granule reads, the resolution of the setup pair, of each pair and of the entries,
and its end (9.2, 9.3). -/

namespace Sys2Proof.Machine

/-! ### Generations compared (R154) -/

/-- Of two versions, whether the second is kept, where neither generation being the successor of the other is the
fallback (R154): the successor is newer; else the numerically higher; on equal generations the first. -/
def keepsSecond (g h : Gen) : Bool :=
  if h = nextGen g then true
  else if g = nextGen h then false
  else decide (g.toNat < h.toNat)

/-- A comparison is decided by the fallback of R154. -/
def fallsBack (g h : Gen) : Bool := h != nextGen g && g != nextGen h

/-! ### The setup pair (R155, R166) -/

/-- The generation and contents of a usable setup cell (R155). -/
def SetupFound.usable (f : SetupFound) : Option (Gen × Data) :=
  match f.cls, f.gen, f.contents with
  | .committed, some g, some d => some (g, d)
  | _, _, _ => none

/-- What was found of a setup cell, when it was read, is usable. -/
def usableSetup (f : Option SetupFound) : Option (Gen × Data) := f.bind SetupFound.usable

/-- The setup cell the scan chooses (R155). -/
def Scan.setupChoice (sc : Scan) : Option CellName :=
  match usableSetup sc.setupA, usableSetup sc.setupB with
  | some (g, _), some (h, _) => some (if keepsSecond g h then .b else .a)
  | some _, none => some .a
  | none, some _ => some .b
  | none, none => none

/-- What was found of a setup cell. -/
def Scan.setupFound (sc : Scan) : CellName → Option SetupFound
  | .a => sc.setupA
  | .b => sc.setupB

/-- The generation of a setup header that was found valid, 0 when there was none. -/
def foundGen (f : Option SetupFound) : Gen := (f.bind (fun x => x.gen)).getD 0

/-- The highest setup generation of any valid setup header the scan read, or 0 (R165). -/
def Scan.highestGen (sc : Scan) : Gen :=
  if (foundGen sc.setupA).toNat < (foundGen sc.setupB).toNat then foundGen sc.setupB else foundGen sc.setupA

/-- The 25 bytes of setup contents a granule 1 holds. -/
def storedContents (d : Data) : Bytes := bytesAt d 0 25

/-- A mark of a setup cell reads set, by what was found. -/
def SetupFound.fixed (f : SetupFound) : Bool := f.marks.getLsbD (markNumber .fixed)

/-- The setup store the scan fills (R155, R165, R166). -/
def Scan.store (sc : Scan) : SetupStore :=
  let chosen := sc.setupChoice
  match chosen, chosen.bind sc.setupFound with
  | some c, some f =>
    match f.usable with
    | some (g, d) =>
      { contents := contentsOfBytes (storedContents d), gen := g, fixed := f.fixed, currentCell := some c, lastGen := g }
    | none => SetupStore.emptied
  | _, _ =>
    { contents := SetupContents.factory, gen := 0, fixed := false, currentCell := none, lastGen := sc.highestGen }

/-- The scan sets SETUP_DAMAGED (R172): no setup cell is usable, or a field of the chosen cell is out of range. -/
def Scan.setupDamaged (sc : Scan) : Bool :=
  match usableSetup (sc.setupChoice.bind sc.setupFound) with
  | some (_, d) => !contentsInRange (storedContents d)
  | none => true

/-- The setup pair is resolved, and the scan goes on to pair 0. -/
def State.resolveSetup (s : State) : State :=
  let s' := { s with
    setup := s.scan.store
    scan := { s.scan with pos := .cell 0 .a, now := Classifying.start } }
  if s.scan.setupDamaged then s'.setFlagBoth .setupDamaged else s'

/-- The scan has read a setup cell: cell B follows cell A, and the resolution cell B. -/
def State.nextSetup (s : State) (c : CellName) : State :=
  match c with
  | .a => { s with scan := { s.scan with pos := .setupCell .b, now := Classifying.start } }
  | .b => s.resolveSetup

/-- Record what was found of a setup cell. -/
def State.setSetupFound (s : State) (c : CellName) (f : SetupFound) : State :=
  { s with scan := match c with
    | .a => { s.scan with setupA := some f }
    | .b => { s.scan with setupB := some f } }

/-! ### Claims (R157 to R159) -/

/-- The claim of a pair: the entry it names and what the entry becomes. -/
structure Claim where
  entry : Nat
  body : EntryBody
  gen : Gen
deriving DecidableEq, Repr

/-- A LIVE claim from a COMMITTED cell (R157). -/
def liveClaim (c : CellName) (f : CellFound) (damaged : Bool) : Option Claim :=
  f.header.map (fun h =>
    { entry := h.entry, gen := h.gen,
      body := .live
        { key := h.key, cls := h.cls, length := h.length, gen := h.gen, cell := c, guardMap := patchMapOf f.marks,
          fixed := f.marks.getLsbD (markNumber .fixed), damaged := damaged, refreshWanted := false } })

/-- A RETIRING claim from a RETIRED cell (R157). -/
def retiringClaim (f : CellFound) : Option Claim :=
  f.header.map (fun h => { entry := h.entry, gen := h.gen, body := .retiring h.key h.cls h.gen })

/-- The generation of a cell's header. -/
def CellFound.gen (f : CellFound) : Gen := (f.header.map (fun h => h.gen)).getD 0

/-- What the scan makes of one pair. -/
structure Resolved where
  claim : Option Claim
  items : List RecoveryItem
  bad : Bool
deriving DecidableEq, Repr

/-- FINISH_RETIRE for the entry of a RETIRING claim. -/
def finishItem (pair : Nat) (c : CellName) (claim : Option Claim) : List RecoveryItem :=
  match claim with
  | some cl => [.finishRetire cl.entry pair c]
  | none => []

/-- ERASE_DEBRIS on a cell that is not ERASED. -/
def debrisItem (pair : Nat) (c : CellName) (cls : Classification) : List RecoveryItem :=
  if cls = .erased then [] else [.eraseDebris pair c]

/-- A pair whose RETIRED cell is `c` (Table 9-2, line 1; R158). -/
def resolveRetired (pair : Nat) (c : CellName) (f : CellFound) (bad : Bool) : Resolved :=
  ⟨retiringClaim f, finishItem pair c (retiringClaim f), bad⟩

/-- The other cell of a COMMITTED one (Table 9-2, lines 3 and 4). -/
def besideCommitted (pair : Nat) (other : CellName) (cls : Classification) : List RecoveryItem :=
  match cls with
  | .written | .debris => [.eraseDebris pair other]
  | _ => []

/-- A pair with no BAD cell (R157, Table 9-2). A COMMITTED cell gives a LIVE claim also where a reset in the commit mark
step of a first commit left it, against the words of R10; the model's choice, log entry 33. -/
def resolveGood (pair : Nat) (a b : CellFound) : Resolved :=
  match a.cls, b.cls with
  | .retired, .retired => if keepsSecond a.gen b.gen then resolveRetired pair .b b false else resolveRetired pair .a a false
  | .retired, _ => resolveRetired pair .a a false
  | _, .retired => resolveRetired pair .b b false
  | .committed, .committed =>
    if keepsSecond a.gen b.gen then
      ⟨liveClaim .b b (fallsBack a.gen b.gen), [.supersede pair .a], false⟩
    else ⟨liveClaim .a a (fallsBack a.gen b.gen), [.supersede pair .b], false⟩
  | .committed, o => ⟨liveClaim .a a false, besideCommitted pair .b o, false⟩
  | o, .committed => ⟨liveClaim .b b false, besideCommitted pair .a o, false⟩
  | x, y => ⟨none, debrisItem pair .a x ++ debrisItem pair .b y, false⟩

/-- A pair with a BAD cell, by its other cell (R158). -/
def resolveBad (pair : Nat) (other : CellName) (f : CellFound) : Resolved :=
  match f.cls with
  | .bad => ⟨none, [], true⟩
  | .committed => ⟨liveClaim other f false, [], true⟩
  | .retired => resolveRetired pair other f true
  | _ => ⟨none, [.markBad pair], true⟩

/-- The resolution of one pair (R157, R158). -/
def resolvePair (pair : Nat) (a b : CellFound) : Resolved :=
  if a.cls = .bad then resolveBad pair .b b
  else if b.cls = .bad then resolveBad pair .a a
  else resolveGood pair a b

/-! ### Taking the claims, in ascending pair order (R159) -/

/-- The pair an item is placed at (R162). -/
def RecoveryItem.pair : RecoveryItem → Nat
  | .eraseDebris p _ => p
  | .supersede p _ => p
  | .finishRetire _ p _ => p
  | .markBad p => p

/-- The recovery items of a pair are replaced, in pair order. -/
def replaceItems (p : Nat) (new items : List RecoveryItem) : List RecoveryItem :=
  items.filter (fun i => decide (i.pair < p)) ++ new ++ items.filter (fun i => decide (p < i.pair))

/-- A pair leaves the spare pool, if it is in it. -/
def State.leavePool (s : State) (p : Nat) : State := { s with pool := s.pool.filter (fun q => q != p) }

/-- A claiming pair that is not kept joins the BAD set, with one MARK_BAD for its items (R159). -/
def State.dropPair (s : State) (p : Nat) : State :=
  let s := (s.addBad p).leavePool p
  { s with recovery := replaceItems p [.markBad p] s.recovery }

/-- A claim is installed: the entry takes its fields and the claiming pair (R159). -/
def State.installClaim (s : State) (c : Claim) (p : Nat) : State :=
  (s.setEntry c.entry ⟨c.body, some p, 0⟩).leavePool p

/-- The body of a kept claim: a LIVE one is damaged when the fallback of R154 decided (R159). -/
def keptBody (b : EntryBody) (fallback : Bool) : EntryBody :=
  match b with
  | .live l => .live { l with damaged := l.damaged || fallback }
  | b => b

/-- A claim meets the claim its index holds, which stands on a lower-numbered pair (R159). -/
def State.meetClaim (s : State) (c : Claim) (p : Nat) (old : Entry) (oldPair : Nat) : State :=
  let g := old.gen?.getD 0
  if keepsSecond g c.gen then
    (s.installClaim { c with body := keptBody c.body (fallsBack g c.gen) } p).dropPair oldPair
  else
    (s.setEntry c.entry { old with body := keptBody old.body (fallsBack g c.gen) }).dropPair p

/-- A claim is taken (R159). -/
def State.takeClaim (s : State) (c : Claim) (p : Nat) : State :=
  let e := s.entry c.entry
  if e.isFree then s.installClaim c p
  else
    match e.pair with
    | some q => s.meetClaim c p e q
    | none => s.installClaim c p

/-- The resolution of a pair takes effect: its place in the BAD set, its items, its claim. -/
def State.takeResolved (s : State) (p : Nat) (r : Resolved) : State :=
  let s := if r.bad then (s.addBad p).leavePool p else s
  let s := { s with recovery := s.recovery ++ r.items }
  match r.claim with
  | some c => s.takeClaim c p
  | none => s

/-- What is kept of a pair's classifications until the end of the scan (R160). -/
def Scan.remember (sc : Scan) (p : Nat) (a b : Classification) : Scan :=
  if a = .erased ∧ b = .erased then sc else { sc with found := sc.found ++ [(p, a, b)] }

/-- The number of the last pair. -/
def lastPair : Nat := 543

/-- The next pair of the scan, or its end. -/
def nextPos (p : Nat) : ScanPos := if p < lastPair then .cell (p + 1) .a else .done

/-- Cell A of a pair has been classified. -/
def State.foundFirst (s : State) (p : Nat) (f : CellFound) : State :=
  { s with scan := { s.scan with pos := .cell p .b, now := Classifying.start, first := some f } }

/-- Both cells of a pair have been classified: the pair is resolved. -/
def State.foundSecond (s : State) (p : Nat) (f : CellFound) : State :=
  match s.scan.first with
  | none => s
  | some a =>
    let s := s.takeResolved p (resolvePair p a f)
    { s with
      scan := { s.scan.remember p a.cls f.cls with pos := nextPos p, now := Classifying.start, first := none } }

/-- A cell of a numbered pair has been classified (R156). -/
def State.foundCell (s : State) (p : Nat) (c : CellName) (f : CellFound) : State :=
  match c with
  | .a => s.foundFirst p f
  | .b => s.foundSecond p f

/-! ### The reads (R155, R156) -/

/-- The cell and granule the scan is reading, and the entry index its report names (R109). -/
def Scan.target (sc : Scan) : Option (Loc × Nat × Option Nat) :=
  match sc.pos with
  | .setupCell c => some (Loc.setup c, sc.now.granule, none)
  | .setupContents c => some (Loc.setup c, 1, none)
  | .cell p c => some (Loc.num p c, sc.now.granule, if p < 512 then some p else none)
  | .done => none

/-- The mark field as it was read with the header of the cell under classification. -/
def Classifying.marksNow (c : Classifying) (marks : MarkField) : MarkField := if c.granule = 0 then marks else c.marks

/-- A read of a setup cell's classification ends (R155). Granule 1 of a COMMITTED cell A is read before cell B is
classified; the model's choice, log entry 38. -/
def State.scanSetupCell (s : State) (c : CellName) (r : Outcome × Data) : State :=
  let marks := s.markField (Loc.setup c)
  match s.scan.now.take marks (setupHeaderOf r).isSome r with
  | .more now => { s with scan := { s.scan with now := now } }
  | .found cls =>
    let gen := if s.scan.now.granule = 0 then setupHeaderOf r else none
    let s' := s.setSetupFound c ⟨cls, gen, (s.scan.now.marksNow marks).voted, none⟩
    if cls = .committed then { s' with scan := { s'.scan with pos := .setupContents c } } else s'.nextSetup c

/-- The read of granule 1 of a COMMITTED setup cell ends (R155). -/
def State.scanSetupContents (s : State) (c : CellName) (r : Outcome × Data) : State :=
  match s.scan.setupFound c with
  | some f =>
    (s.setSetupFound c { f with contents := if r.1 = .uncorrectable then none else some r.2 }).nextSetup c
  | none => s.nextSetup c

/-- A read of a numbered cell's classification ends (R156). -/
def State.scanCell (s : State) (p : Nat) (c : CellName) (r : Outcome × Data) : State :=
  let marks := s.markField (Loc.num p c)
  match s.scan.now.take marks (headerOf r).isSome r with
  | .more now => { s with scan := { s.scan with now := now } }
  | .found cls =>
    let header := if s.scan.now.granule = 0 then headerOf r else none
    s.foundCell p c ⟨cls, header, (s.scan.now.marksNow marks).voted⟩

/-- The scan goes on after a read. -/
def State.scanAdvance (s : State) (r : Outcome × Data) : State :=
  match s.scan.pos with
  | .setupCell c => s.scanSetupCell c r
  | .setupContents c => s.scanSetupContents c r
  | .cell p c => s.scanCell p c r
  | .done => s

/-- One granule read of the scan ends: it is reported with the party SCAN (R155, R156). -/
def State.scanRead (s : State) (us : List Upset) : State :=
  match s.scan.target with
  | none => s
  | some (loc, g, entry) =>
    let s := s.upsets loc us
    let r := s.readGranule loc g
    (s.report ⟨r.1, loc, g, entry, .scan⟩).scanAdvance r

/-! ### The end of the scan (R160, R161) -/

/-- ERASE_DEBRIS on each cell of a pair that is not ERASED, by what was found (R160). -/
def debrisItems (p : Nat) (found : List (Nat × Classification × Classification)) : List RecoveryItem :=
  match found.find? (fun f => f.1 == p) with
  | some (_, a, b) => debrisItem p .a a ++ debrisItem p .b b
  | none => []

/-- A LIVE claim is dropped for a key that a lower index holds (R160): the entry stays FREE, and its pair's items are
replaced. -/
def State.dropClaim (s : State) (i : Nat) (e : Entry) : State :=
  let s' := s.setEntry i (homeEntry i)
  match e.pair with
  | some p =>
    let new := if s.isBad p then [RecoveryItem.markBad p] else debrisItems p s.scan.found
    { s' with recovery := replaceItems p new s.recovery }
  | none => s'

/-- Of the LIVE entries with one key the lowest keeps its claim (R160). `seen` holds the keys of the LIVE entries at
lower indices. -/
def State.dropDoubles (s : State) (seen : List Key) : List (Nat × Entry) → State
  | [] => s
  | (i, e) :: rest =>
    match e.body with
    | .live l => if seen.contains l.key then (s.dropClaim i e).dropDoubles seen rest else s.dropDoubles (l.key :: seen) rest
    | _ => s.dropDoubles seen rest

/-- The pair numbers. -/
def pairNumbers : List Nat := List.range' 0 544

/-- The pairs of the entries that are not FREE. -/
def State.claimedPairs (s : State) : List Nat :=
  (s.entries.filter (fun e => !e.2.isFree)).filterMap (fun e => e.2.pair)

/-- A pair's place is with its own entry (R161): it is a home pair and its entry is FREE. -/
def State.homeFree (s : State) (p : Nat) : Bool := decide (p < 512) && (s.entry p).isFree

/-- The pairs that join the spare pool (R161). -/
def State.scannedPool (s : State) : List Nat :=
  pairNumbers.filter (fun p => !s.isBad p && !s.claimedPairs.contains p && !s.homeFree p)

/-- A FREE entry whose home pair was not placed with it has pair NONE (R161). -/
def State.withoutHome (s : State) (taken : List Nat) : List Nat → State
  | [] => s
  | p :: rest => (if p < 512 ∧ (s.entry p).isFree ∧ p ∈ taken then
      s.setEntry p { s.entry p with pair := none } else s).withoutHome taken rest

/-- The unclaimed pairs are placed (R161). -/
def State.placePairs (s : State) : State :=
  let taken := s.claimedPairs ++ s.bad
  { s with pool := s.scannedPool }.withoutHome taken taken

/-- The last resolution is made and the part enters READY (R153, R160, R161). A FRAME_ERROR set in STARTING stays, against
a sentence of R172; log entry 39. -/
def State.enterReady (s : State) : State :=
  { (s.dropDoubles [] s.entries).placePairs with phase := .ready }

/-- The scan reads what is left of the array, with no bit changing of itself. -/
def State.scanRest : Nat → State → State
  | 0, s => s
  | n + 1, s => if s.scan.pos = .done then s else State.scanRest n (s.scanRead [])

/-- More granule reads than a scan can make: at most 8 of each of 1090 cells, and 2 of setup contents. -/
def scanReads : Nat := 8800

/-- The scan ends (R153): what is left to read is read, and the part enters READY. Outside STARTING there is no scan. -/
def State.endScan (s : State) : State := if s.phase = .starting then (State.scanRest scanReads s).enterReady else s

/-- A granule read of the scan ends. Outside STARTING there is no scan. -/
def State.endScanRead (s : State) (us : List Upset) : State := if s.phase = .starting then s.scanRead us else s

/-- SCAN_END (R153). -/
def execScanEnd (s : State) : Host.Outcome State Fault Refusal := .next s.endScan

/-- SCAN_GRANULE_READ_END (R156). -/
def execScanGranuleReadEnd (us : List Upset) (s : State) : Host.Outcome State Fault Refusal := .next (s.endScanRead us)

end Sys2Proof.Machine
end

