-- ==== Sys2Proof/Machine/Dispatch.lean ====
section
/-! DEFINITION. The meaning of every command: one arm for each constructor of `Instr`. -/

namespace Sys2Proof.Machine

def exec (i : Instr) (s : State) : Host.Outcome State Fault Refusal :=
  match i with
  | .find p args => Sys2Proof.Machine.execFind p args s
  | .list p args => Sys2Proof.Machine.execList p args s
  | .read p args => Sys2Proof.Machine.execRead p args s
  | .readComplete us => Sys2Proof.Machine.execReadComplete us s
  | .stage p args => Sys2Proof.Machine.execStage p args s
  | .discard p args => Sys2Proof.Machine.execDiscard p args s
  | .commit p args => Sys2Proof.Machine.execCommit p args s
  | .result p args => Sys2Proof.Machine.execResult p args s
  | .patch p args => Sys2Proof.Machine.execPatch p args s
  | .retire p args => Sys2Proof.Machine.execRetire p args s
  | .hold p args => Sys2Proof.Machine.execHold p args s
  | .renew p args => Sys2Proof.Machine.execRenew p args s
  | .release p args => Sys2Proof.Machine.execRelease p args s
  | .fix p args => Sys2Proof.Machine.execFix p args s
  | .inhibit p args => Sys2Proof.Machine.execInhibit p args s
  | .capture p args => Sys2Proof.Machine.execCapture p args s
  | .captureClear p args => Sys2Proof.Machine.execCaptureClear p args s
  | .refreshList p args => Sys2Proof.Machine.execRefreshList p args s
  | .census p args => Sys2Proof.Machine.execCensus p args s
  | .censusResult p args => Sys2Proof.Machine.execCensusResult p args s
  | .censusCancel p args => Sys2Proof.Machine.execCensusCancel p args s
  | .setupRead p args => Sys2Proof.Machine.execSetupRead p args s
  | .setupWrite p args => Sys2Proof.Machine.execSetupWrite p args s
  | .status p args => Sys2Proof.Machine.execStatus p args s
  | .ack p args => Sys2Proof.Machine.execAck p args s
  | .eventMask p args => Sys2Proof.Machine.execEventMask p args s
  | .restart p args r => Sys2Proof.Machine.execRestart p args r s
  | .unknownCommand p code args => Sys2Proof.Machine.execUnknownCommand p code args s
  | .fetch f => Sys2Proof.Machine.execFetch f s
  | .badFrame p bytes midByte => Sys2Proof.Machine.execBadFrame p bytes midByte s
  | .ignoredFrame p bytes => Sys2Proof.Machine.execIgnoredFrame p bytes s
  | .powerOn r => Sys2Proof.Machine.execPowerOn r s
  | .resetN r => Sys2Proof.Machine.execResetN r s
  | .resetHoldEnd => Sys2Proof.Machine.execResetHoldEnd s
  | .scanEnd => Sys2Proof.Machine.execScanEnd s
  | .leaseInterval => Sys2Proof.Machine.execLeaseInterval s
  | .holdLapsed slot => Sys2Proof.Machine.execHoldLapsed slot s
  | .jobStart => Sys2Proof.Machine.execJobStart s
  | .refreshStart => Sys2Proof.Machine.execRefreshStart s
  | .recoveryStart => Sys2Proof.Machine.execRecoveryStart s
  | .engineReadEnd us => Sys2Proof.Machine.execEngineReadEnd us s
  | .granuleProgramEnd us => Sys2Proof.Machine.execGranuleProgramEnd us s
  | .markProgramEnd us => Sys2Proof.Machine.execMarkProgramEnd us s
  | .cellEraseEnd us => Sys2Proof.Machine.execCellEraseEnd us s
  | .censusReadEnd us => Sys2Proof.Machine.execCensusReadEnd us s
  | .scanGranuleReadEnd us => Sys2Proof.Machine.execScanGranuleReadEnd us s

end Sys2Proof.Machine
end

