-- ==== Sys2Proof/Safety.lean ====
section
/-! DEFINITION. What counts as a safe state: the bounds the manual states as laws of the part, and the canonical form of
sparse data. -/

namespace Sys2Proof.Machine

/-- The granules of the array are in canonical form. -/
def granulesWf (m : Sparse Granule) : Bool := sparseWf factoryGranule m

/-- The mark fields of the array are in canonical form. -/
def marksWf (m : Sparse MarkField) : Bool := sparseWf factoryMarks m

/-- The entries of the directory are in canonical form. -/
def entriesWf (m : Sparse Entry) : Bool := sparseWf homeEntry m

/-- The memory of the part is in canonical form. -/
def Memory.wf (s : State) : Bool := granulesWf s.granules && marksWf s.marks && entriesWf s.entries

/-- The integrity counts never exceed 63 (R110). -/
def Capture.bounded (c : Capture) : Bool :=
  decide (c.correctedCount ≤ captureLimit) && decide (c.uncorrectableCount ≤ captureLimit)

/-- The refresh list never holds more than 16 entries (R117). -/
def RefreshList.bounded (r : RefreshList) : Bool := decide (r.list.length ≤ refreshLimit)

/-- The commit queue never holds more than 8 jobs (R53). -/
def queueBounded (q : List Job) : Bool := decide (q.length ≤ 8)

/-- The running host job is the oldest of the queue (R53). -/
def runningJobHeads (s : State) : Bool :=
  match s.work.job? with
  | some j => s.queue.head? == some j
  | none => true

/-- The jobs count of each entry is the number of queued jobs that name it (R12). -/
def jobsCounted (s : State) : Prop :=
  ∀ i : Nat, (s.entry i).jobs = (s.queue.filter (fun j => j.body.entry? == some i)).length

/-- The law of the commit queue: at most 8 jobs (R53), the running one at its head, counted in the entries they name
(R12), and none before the part is READY (R153). -/
def queueLaw (s : State) : Prop :=
  queueBounded s.queue = true ∧ runningJobHeads s = true ∧ jobsCounted s ∧ (s.phase ≠ .ready → s.queue = [])

/-- The owner written in an occupied slot is the port the slot belongs to (R125). -/
def HoldSlot.ownedBy (p : Port) (h : HoldSlot) : Bool :=
  match h with
  | .empty => true
  | .active q _ _ _ => q == p
  | .lapsed q _ _ => q == p

/-- The port a hold slot belongs to (R125). -/
def slotPort (i : Fin 8) : Port := if i.val < 4 then .m else .s

/-- The law of holds (R125): each occupied slot is owned by its port; no entry has two ACTIVE slots, and no port two
occupied slots on one entry. -/
def holdLaw (holds : Vector HoldSlot 8) : Prop :=
  (∀ i : Fin 8, (holds[i]).ownedBy (slotPort i) = true) ∧
    ∀ i j : Fin 8, i ≠ j → ∀ e, (holds[i]).entry? = some e → (holds[j]).entry? = some e →
      slotPort i ≠ slotPort j ∧ ¬((holds[i]).activeOn e = true ∧ (holds[j]).activeOn e = true)

/-! ### The vocabulary of claims about commands -/

/-- The port takes a command: the part is READY, no RESTART is deferred and the response slot is not PENDING. -/
abbrev State.takes (s : State) (p : Port) : Prop :=
  s.phase = .ready ∧ s.restartDeferred = false ∧ (s.port p).slot ≠ .pending

/-- The port takes frames, but the part is STARTING or a RESTART is deferred. -/
abbrev State.takesNotReady (s : State) (p : Port) : Prop :=
  (s.phase = .starting ∨ s.phase = .ready ∧ s.restartDeferred = true) ∧ (s.port p).slot ≠ .pending

/-- The array has no user and no step is suspended; nobody waits and no step boundary is owed. -/
abbrev State.arrayFree (s : State) : Prop :=
  s.arb.user = none ∧ s.arb.suspended = none ∧ s.arb.boundary = none ∧ s.arb.waitM = none ∧ s.arb.waitS = none ∧
    s.arb.waitCensus = none ∧ s.arb.waitEngine = none

/-- The engine's step holds the array, and nobody else waits for it. -/
abbrev State.engineAlone (s : State) (step : EngineStep) : Prop :=
  s.arb.user = some (.engine step) ∧ s.arb.suspended = none ∧ s.arb.boundary = none ∧ s.arb.waitM = none ∧
    s.arb.waitS = none ∧ s.arb.waitCensus = none ∧ s.arb.waitEngine = none

/-- The engine may take its next work, and the array is free. -/
abbrev State.engineFree (s : State) : Prop := s.phase = .ready ∧ s.work = .idle ∧ s.arrayFree

/-- The running job `j`, at the head of the queue, has completed: the queue is `rest`, the engine has no work, the job's
record enters its port's list and its buffer is EMPTY (R62, R71, R73, R51). -/
abbrev jobCompleted (s t : State) (j : Job) (rest : List Job) (r : JobResult) (newGen : Option Gen) (relocated : Bool) :
    Prop :=
  t.work = .idle ∧ t.queue = rest ∧
    (t.port j.port).results =
      (s.port j.port).results ++ [⟨j.ticket, j.body.kind, j.body.entry?, j.body.key?, r, newGen, relocated⟩] ∧
    (t.port j.port).outstanding = (s.port j.port).outstanding - 1 ∧
    ∀ b, j.body.buffer? = some b → t.buffers[b] = ⟨.empty, [], 0⟩

/-- An array change of an entry of class `c` makes a RUNNING census of its scope stale, and changes no other census
(R146). -/
abbrev censusTold (s t : State) (c : Cls) : Prop :=
  (∀ r, s.census = some r → r.state = .running → (r.scope = none ∨ r.scope = some c) →
    t.census = some { r with stale := true }) ∧
  ((∀ r, s.census = some r → r.state ≠ .running ∨ r.scope ≠ none ∧ r.scope ≠ some c) → t.census = s.census)

/-- What a read of an erased granule gives: 32 bytes of FFH with the outcome CLEAN (R26). -/
abbrev erasedRead : Outcome × Data := (.clean, BitVec.allOnes 256)

/-- Every mark named reads set on the cell: the mark program ended COMPLETE (Table 2-3). -/
abbrev State.marksStand (s : State) (l : Loc) (marks : BitVec 12) : Prop := (s.markField l).voted &&& marks = marks

/-- The whole cell is erased: the cell erase ended COMPLETE (Table 2-3). -/
abbrev State.cellErased (s : State) (l : Loc) : Prop :=
  (∀ g, g < 8 → (s.granule l g).readGuarded = erasedRead) ∧ s.markField l = ⟨0, 0, 0⟩

/-- The state with the array as the end of a mark program step finds it, when the bits `us` have changed of
themselves. -/
abbrev State.markEnded (s : State) (l : Loc) (marks : BitVec 12) (us : List Upset) : State :=
  (s.programMarks l marks).upsets l us

/-- The state with the array as the end of a cell erase step finds it. -/
abbrev State.eraseEnded (s : State) (l : Loc) (us : List Upset) : State := (s.eraseCell l).upsets l us

/-- The state with the array as the end of a granule program step finds it. -/
abbrev State.programEnded (s : State) (l : Loc) (g : Nat) (d : Data) (us : List Upset) : State :=
  (s.programGranule l g d).upsets l us

/-- The command that says that an engine step has ended, with the bits that changed of themselves. -/
def stepEnd (step : EngineStep) (us : List Upset) : Instr :=
  match step with
  | .read _ _ _ => .engineReadEnd us
  | .program _ _ _ => .granuleProgramEnd us
  | .mark _ _ => .markProgramEnd us
  | .erase _ => .cellEraseEnd us

/-- What the engine reads at the end of its read step. -/
abbrev State.engineReads (s : State) (l : Loc) (g : Nat) (us : List Upset) : Outcome × Data :=
  (s.upsets l us).readGranule l g

/-- The state with the engine's read reported. -/
abbrev State.readEnded (s : State) (l : Loc) (g : Nat) (entry : Option Nat) (us : List Upset) : State :=
  (s.upsets l us).report ⟨(s.engineReads l g us).1, l, g, entry, .engine⟩

/-- The engine stands at the work given and its array step holds the array. -/
abbrev State.atStep (s : State) (w : Work) (step : EngineStep) : State :=
  { s with work := w, arb := { s.arb with user := some (.engine step), suspCount := 0 } }

/-- The engine has no work, and no step of its own holds the array. -/
abbrev State.engineDone (s : State) : State := { s with work := .idle, arb := { s.arb with user := none } }

/-- The classification of a cell by the reads of R32, where `at c` is the work while it goes on: from an erased header to
data granules 1 to 7, to `erased` when every granule and every mark copy is erased, and to `other` for every other
classification. -/
abbrev classificationRuns (s : State) (l : Loc) (entry : Option Nat) (at' : Classifying → Work)
    (erased other : Work × EngineStep) : Prop :=
  ∀ (c : Classifying) (us : List Upset), s.engineAlone (.read l c.granule entry) → s.work = at' c →
    let r := s.engineReads l c.granule us
    let after := s.readEnded l c.granule entry us
    let goesTo := fun (w : Work) (step : EngineStep) => exec (.engineReadEnd us) s = .next (after.atStep w step)
    (c.granule = 0 → r = erasedRead → goesTo (at' ⟨1, (s.upsets l us).markField l, true⟩) (.read l 1 entry)) ∧
    (c.granule = 0 → r ≠ erasedRead → goesTo other.1 other.2) ∧
    (1 ≤ c.granule → c.granule < 7 →
      goesTo (at' ⟨c.granule + 1, c.marks, c.erased && decide (r = erasedRead)⟩) (.read l (c.granule + 1) entry)) ∧
    (c.granule = 7 → c.erased = true → r = erasedRead → c.marks = ⟨0, 0, 0⟩ → goesTo erased.1 erased.2) ∧
    (c.granule = 7 → c.erased = false ∨ r ≠ erasedRead ∨ c.marks ≠ ⟨0, 0, 0⟩ → goesTo other.1 other.2)

/-- The written pair fails at the command `c`, with the array as in `after` (R102, R103, R106): it joins the BAD set, and
the job goes to cell A of the lowest free spare, which it classifies, or, when no spare is free, to the first of the bad
marks that stand before NO_SPARE. -/
abbrev pairFailed (c : Instr) (s after : State) (job : Option Job) (w : WriteJob) : Prop :=
  let failed := w.failed ++ [(w.pair, w.cell)]
  (∀ p rest, s.pool = p :: rest →
    ∃ t, exec c s = .next t ∧ t.isBad w.pair = true ∧ (∀ q, q ≠ w.pair → t.isBad q = s.isBad q) ∧ t.pool = rest ∧
      t.reserved = some p ∧
      t.work = .write job { w with failed := failed, pair := p, cell := .a, spare := true }
        (.classify ⟨0, ⟨0, 0, 0⟩, true⟩) ∧
      t.arb.user = some (.engine (.read (Loc.num p .a) 0 none)) ∧
      (∀ q, (t.port q).flags = if rest.length ≤ s.setup.contents.spareThreshold.toNat
        then (after.port q).flags ||| 0x10#8 else (after.port q).flags) ∧
      t.granules = after.granules ∧ t.marks = after.marks ∧ t.entries = after.entries ∧ t.queue = s.queue) ∧
  (s.pool = [] → ∀ first rest,
    (failed.map (fun f => if (after.entry w.entry).isLive = true ∧ (after.entry w.entry).pair = some f.1 then [f]
      else [(f.1, .a), (f.1, .b)])).flatten = first :: rest →
    ∃ t, exec c s = .next t ∧ t.isBad w.pair = true ∧ (∀ q, q ≠ w.pair → t.isBad q = s.isBad q) ∧
      t.work = .write job { w with failed := failed } (.exhaustMarks rest) ∧
      t.arb.user = some (.engine (.mark (Loc.num first.1 first.2) (markBit .bad))) ∧
      (w.spare = true → t.reserved = none) ∧ t.granules = after.granules ∧ t.marks = after.marks ∧
      t.entries = after.entries ∧ t.queue = s.queue)

/-- The port a command of Table 11-1 is sent on, with its argument bytes. -/
def commandOn : Instr → Option (Port × Bytes)
  | .find p a | .list p a | .read p a | .stage p a | .discard p a | .commit p a | .result p a | .patch p a
  | .retire p a | .hold p a | .renew p a | .release p a | .fix p a | .inhibit p a | .capture p a
  | .captureClear p a | .refreshList p a | .census p a | .censusResult p a | .censusCancel p a | .setupRead p a
  | .setupWrite p a | .status p a | .ack p a | .eventMask p a | .restart p a _ => some (p, a)
  | _ => none

/-- The command is a STATUS. -/
def isStatus : Instr → Bool
  | .status _ _ => true
  | _ => false

/-- The command is a RESTART. -/
def isRestart : Instr → Bool
  | .restart _ _ _ => true
  | _ => false

/-- The argument count N is one Table 11-1 lists for the command; for STAGE and PATCH the count byte agrees with it
(R183). -/
def countListed : Instr → Bool
  | .find _ a | .hold _ a | .renew _ a | .release _ a | .fix _ a => a.length == 4
  | .list _ a => a.length == 3
  | .read _ a | .retire _ a => a.length == 6
  | .stage _ a => decide (4 ≤ a.length ∧ a.length ≤ 227 ∧ a.length = 3 + (a.getD 2 0).toNat)
  | .discard _ a | .census _ a | .ack _ a | .eventMask _ a => a.length == 1
  | .commit _ a => a.length == 10
  | .patch _ a => decide (9 ≤ a.length ∧ a.length ≤ 232 ∧ a.length = 8 + (a.getD 5 0).toNat)
  | .inhibit _ a => a.length == 2
  | .setupWrite _ a => a.length == 26
  | .result _ a | .capture _ a | .captureClear _ a | .refreshList _ a | .censusResult _ a | .censusCancel _ a
  | .setupRead _ a | .status _ a | .restart _ a _ => a.length == 0
  | _ => false

/-- The command carries a key, in its first four argument bytes. -/
def carriesKey : Instr → Bool
  | .find _ _ | .read _ _ | .commit _ _ | .patch _ _ | .retire _ _ | .hold _ _ | .renew _ _ | .release _ _
  | .fix _ _ => true
  | _ => false

/-- The four-byte field at the head of arguments. -/
def headKey (a : Bytes) : Key := word32 (a.getD 0 0) (a.getD 1 0) (a.getD 2 0) (a.getD 3 0)

end Sys2Proof.Machine
end

