-- ==== Sys2Proof/WellFormed.lean ====
section
/-! DEFINITION. Which commands can be sent at all: the range checks on their operands. A command that fails one is no
command of the block; exec is total on it all the same. -/

namespace Sys2Proof

/-- A mark of Table 2-2: the patch map has bits 1 to 7. -/
def Mark.wf : Mark → Bool
  | .patch g => decide (1 ≤ g) && decide (g ≤ 7)
  | _ => true

/-- An upset names a bit that a cell has: granules 0 to 7 of 256 bits, marks of three copies (R25, R29). The number of
check bits is not stated. -/
def Upset.wf : Upset → Bool
  | .dataBit g b => decide (g < 8) && decide (b < 256)
  | .checkBit g _ => decide (g < 8)
  | .markCopy m k => m.wf && decide (k < 3)

/-- A residue names granules and mark copies that a cell has. -/
def Residue.wf (r : Residue) : Bool :=
  r.granules.all (fun g => decide (g.granule < 8)) && r.copies.all (fun c => c.1.wf && decide (c.2 < 3))

/-- A command frame carries at most 240 argument bytes (R173). -/
def argsWf (args : Bytes) : Bool := decide (args.length ≤ 240)

/-- The operands of a command are in range, and a frame event carries a frame of the kind it says. -/
def Instr.wf : Instr → Bool
  | .find _ args | .list _ args | .read _ args | .stage _ args | .discard _ args | .commit _ args | .result _ args
  | .patch _ args | .retire _ args | .hold _ args | .renew _ args | .release _ args | .fix _ args | .inhibit _ args
  | .capture _ args | .captureClear _ args | .refreshList _ args | .census _ args | .censusResult _ args
  | .censusCancel _ args | .setupRead _ args | .setupWrite _ args | .status _ args | .ack _ args
  | .eventMask _ args => argsWf args
  | .restart _ args r => argsWf args && r.wf
  | .unknownCommand p code args => argsWf args && !commandCodes.contains code && !beginsFetch p [code]
  | .fetch _ => true
  | .badFrame p bytes midByte => !bytes.isEmpty && !beginsFetch p bytes && discardsFrame p bytes midByte
  | .ignoredFrame p bytes => frameWellFormed bytes && !beginsFetch p bytes
  | .powerOn r | .resetN r => r.wf
  | .holdLapsed slot => decide (slot < 8)
  | .readComplete us | .engineReadEnd us | .granuleProgramEnd us | .markProgramEnd us | .cellEraseEnd us
  | .censusReadEnd us | .scanGranuleReadEnd us => us.all Upset.wf
  | .resetHoldEnd | .scanEnd | .leaseInterval | .jobStart | .refreshStart | .recoveryStart => true

end Sys2Proof
end

