-- ==== Sys2Proof/Certificates/Slice0/Obligations.lean ====
section
/-! DEFINITION. The statements for the provers. -/

section Statements

open Sys2Proof Sys2Proof.Machine

/-! ### The machine -/

/-- A step takes the command at the front of the queue and runs it with the queue's rest; on an empty queue the block
idles, which is the model's choice (log entry 7). -/
def Obligations.StepTakesFrontOfQueue : Prop :=
  (∀ (s : State) (c : Instr) (rest : List Instr), s.pending = c :: rest → step s = exec c { s with pending := rest }) ∧
    ∀ s : State, s.pending = [] → step s = .next s

/-- No command stops the machine: each answers a next state on every state, and none changes the queue of waiting
commands. -/
def Obligations.CommandsAnswerNextAndKeepQueue : Prop :=
  ∀ (c : Instr) (s : State), ∃ t, exec c s = .next t ∧ t.pending = s.pending

/-- Frame of the ports: no command of Table 11-1 but RESTART, no unknown code, no fetch and no discarded or ignored
frame changes a byte or a mark of the array. -/
def Obligations.PortCommandsLeaveArray : Prop :=
  ∀ (c : Instr) (s t : State),
    ((commandOn c).isSome = true ∧ isRestart c = false) ∨ (∃ p code a, c = .unknownCommand p code a) ∨
        (∃ f, c = .fetch f) ∨ (∃ p b m, c = .badFrame p b m) ∨ (∃ p b, c = .ignoredFrame p b) →
      exec c s = .next t →
        ∀ (l : Loc) (g pos : Nat),
          byteAt (t.granule l g).data pos = byteAt (s.granule l g).data pos ∧ t.markField l = s.markField l

/-! ### Frames (11.1, 11.2) -/

/-- While the part is STARTING or a RESTART is deferred, every command of Table 11-1 but STATUS that is sent with a
listed argument count answers NOT_READY, and nothing else changes. -/
def Obligations.NotReadyIsAnswered : Prop :=
  ∀ (c : Instr) (p : Port) (a : Bytes) (s : State),
    commandOn c = some (p, a) → isStatus c = false → countListed c = true → s.takesNotReady p →
      exec c s = .next (s.modPort p (fun ps => { ps with slot := .ready .notReady [] }))

/-- A command frame that arrives while the slot is PENDING sets OVERRUN and does nothing else. While the part is held in
reset the ports take no frames: commands, unknown codes, fetches and discarded frames have no effect. -/
def Obligations.FramesThatAreNotTaken : Prop :=
  ∀ s : State,
    (∀ (c : Instr) (p : Port) (a : Bytes), commandOn c = some (p, a) → s.phase ≠ .held → (s.port p).slot = .pending →
      exec c s = .next (s.modPort p (fun ps => { ps with flags := ps.flags ||| 0x80#8 }))) ∧
    (s.phase = .held →
      (∀ (c : Instr), (commandOn c).isSome = true → exec c s = .next s) ∧
        (∀ p code a, exec (.unknownCommand p code a) s = .next s) ∧ (∀ f, exec (.fetch f) s = .next s) ∧
          (∀ p b m, exec (.badFrame p b m) s = .next s) ∧ ∀ p b, exec (.ignoredFrame p b) s = .next s)

/-- A well-formed frame whose argument count its command does not accept is answered BAD_ARG. -/
def Obligations.UnlistedCountIsBadArg : Prop :=
  ∀ (c : Instr) (p : Port) (a : Bytes) (s : State),
    commandOn c = some (p, a) → countListed c = false → s.phase ≠ .held → (s.port p).slot ≠ .pending →
      exec c s = .next (s.modPort p (fun ps => { ps with slot := .ready .badArg [] }))

/-- Key validity, for the nine commands that carry a key. -/
def Obligations.InvalidKeyIsBadArg : Prop :=
  (∀ k : Key, keyValid k = true ↔ 1 ≤ k.toNat ∧ k.toNat ≤ 0xFFFFFFFE) ∧
    ∀ (c : Instr) (p : Port) (a : Bytes) (s : State),
      commandOn c = some (p, a) → carriesKey c = true → countListed c = true → s.takes p →
        (headKey a = 0#32 ∨ headKey a = 0xFFFFFFFF#32) →
          exec c s = .next (s.modPort p (fun ps => { ps with slot := .ready .badArg [] }))

/-- Frames that are no command of the table: an unknown code is answered UNKNOWN, or ignored with OVERRUN at a PENDING
slot; a discarded frame sets FRAME_ERROR and leaves the slot; an ignored frame sets OVERRUN. Discarded is a frame that
is not well formed, and on Port M one that ends in the middle of a byte (for Port S see log entry 40). -/
def Obligations.UnknownAndDiscardedFrames : Prop :=
  ∀ (s : State) (p : Port), s.phase ≠ .held →
    (∀ code a, commandCodes.contains code = false → (p = .m → code ≠ 0xF0#8) →
      ((s.port p).slot ≠ .pending →
        exec (.unknownCommand p code a) s = .next (s.modPort p (fun ps => { ps with slot := .ready .unknown [] }))) ∧
      ((s.port p).slot = .pending →
        exec (.unknownCommand p code a) s = .next (s.modPort p (fun ps => { ps with flags := ps.flags ||| 0x80#8 })))) ∧
    (∀ bytes midByte, bytes ≠ [] → (p = .m → bytes.head? ≠ some 0xF0#8) →
      (frameWellFormed bytes = false ∨ midByte = true ∧ p = .m) →
      exec (.badFrame p bytes midByte) s = .next (s.modPort p (fun ps => { ps with flags := ps.flags ||| 0x40#8 }))) ∧
    (∀ bytes, frameWellFormed bytes = true → (p = .m → bytes.head? ≠ some 0xF0#8) → (s.port p).slot = .pending →
      exec (.ignoredFrame p bytes) s = .next (s.modPort p (fun ps => { ps with flags := ps.flags ||| 0x80#8 })))

/-- Fetches. A fetch of a READY slot that runs to one byte past the check byte sends status, L, data, check byte and
FFH, and empties the slot exactly when it is confirmed: by the echo on Port M, by the acknowledge on Port S. A fetch of
an EMPTY or PENDING slot leaves the slot as it is. -/
def Obligations.FetchCollectsResponse : Prop :=
  ∀ (s : State), s.phase ≠ .held →
    (∀ (sent : Bytes) (st : Status) (d : Bytes), s.portM.slot = .ready st d → sent.length = d.length + 4 →
      let body := st.code :: BitVec.ofNat 8 d.length :: d
      let check := crc8 (0xF0#8 :: body)
      exec (.fetch (.onM sent)) s =
        .next (s.modPort .m (fun ps =>
          { ps with
            sent := 0xFF#8 :: (body ++ [check, 0xFF#8])
            slot := if sent[d.length + 3]? = some check then .empty else .ready st d }))) ∧
    (∀ (acked : Bool) (st : Status) (d : Bytes), s.portS.slot = .ready st d →
      let body := st.code :: BitVec.ofNat 8 d.length :: d
      exec (.fetch (.onS (d.length + 4) acked)) s =
        .next (s.modPort .s (fun ps =>
          { ps with
            sent := body ++ [crc8 body, 0xFF#8]
            slot := if acked = true then .empty else .ready st d }))) ∧
    (∀ (f : Fetch), (s.port f.port).slot = .empty ∨ (s.port f.port).slot = .pending →
      ∃ t, exec (.fetch f) s = .next t ∧ t = s.modPort f.port (fun ps => { ps with sent := (t.port f.port).sent }))

/-! ### Event flags and queries (11.3, 11.4) -/

/-- ACK clears the flags it names on its own port, answers the event byte after the change, and when it names
HOLD_LAPSED empties that port's LAPSED slots and no other slot, whether or not the flag was set (the latter is the
model's, log entry 26). EVENT_MASK replaces the port's event mask and answers it. A port's attention line is low exactly
when, outside the hold, a flag is set and enabled or RESULT_READY is enabled and a result waits. -/
def Obligations.AckAndEventMaskAct : Prop :=
  (∀ (s : State) (p : Port) (mask : Byte), s.takes p →
    (∃ t, exec (.ack p [mask]) s = .next t ∧ (t.port p).flags = (s.port p).flags &&& ~~~mask ∧
      (t.port p).slot = .ready .ok [(t.port p).eventByte] ∧
      (∀ (i : Fin 8) q e k, mask.getLsbD 1 = true → slotPort i = p → s.holds[i] = .lapsed q e k →
        t.holds[i] = .empty) ∧
      (∀ i : Fin 8, (mask.getLsbD 1 = false ∨ slotPort i ≠ p ∨ ∀ q e k, s.holds[i] ≠ .lapsed q e k) →
        t.holds[i] = s.holds[i]) ∧
      t = { s.modPort p (fun ps => { ps with flags := (t.port p).flags, slot := (t.port p).slot }) with
        holds := t.holds }) ∧
    exec (.eventMask p [mask]) s =
      .next (s.modPort p (fun ps => { ps with mask := mask, slot := .ready .ok [mask] }))) ∧
  ∀ (s : State) (p : Port), s.attnLow p = true ↔
    s.phase ≠ .held ∧ ((∃ b, b < 8 ∧ (s.port p).flags.getLsbD b = true ∧ (s.port p).mask.getLsbD b = true) ∨
      (s.port p).results ≠ [] ∧ (s.port p).mask.getLsbD 0 = true)

/-- STATUS (in STARTING, in READY and while a RESTART is deferred), CAPTURE, REFRESH_LIST, CENSUS_RESULT and SETUP_READ
answer OK with their record as it stands and change nothing but the response slot. That the overflow byte, the stale byte
and the setup fixed byte are 01H for set and 00H for clear is the model's, log entry 44. -/
def Obligations.QueriesAnswerTheirRecord : Prop :=
  ∀ (s : State) (p : Port),
    (s.phase ≠ .held → (s.port p).slot ≠ .pending →
      exec (.status p []) s = .next (s.modPort p (fun ps => { ps with slot := .ready .ok (s.statusBytes p) }))) ∧
    (s.takes p →
      exec (.capture p []) s = .next (s.modPort p (fun ps => { ps with slot := .ready .ok s.capture.bytes })) ∧
      exec (.refreshList p []) s = .next (s.modPort p (fun ps => { ps with slot := .ready .ok s.refreshBytes })) ∧
      exec (.censusResult p []) s =
        .next (s.modPort p (fun ps => { ps with slot := .ready .ok (censusBytes s.census) })) ∧
      exec (.setupRead p []) s = .next (s.modPort p (fun ps => { ps with slot := .ready .ok s.setup.bytes })))

/-! ### The directory (Chapter 1) -/

/-- FIND, Table 1-6. -/
def Obligations.FindAnswersByTable : Prop :=
  ∀ (s : State) (p : Port) (a b c d : Byte),
    let answers := fun (st : Status) (data : Bytes) =>
      exec (.find p [a, b, c, d]) s = .next (s.modPort p (fun ps => { ps with slot := .ready st data }))
    (s.takesNotReady p → answers .notReady []) ∧
    (s.takes p → keyValid (word32 a b c d) = false → answers .badArg []) ∧
    (s.takes p → keyValid (word32 a b c d) = true →
      (∀ i, s.activeIndex (word32 a b c d) = some i → answers .ok (s.describe i)) ∧
      (∀ i rest, s.activeIndex (word32 a b c d) = none → s.retiringList (word32 a b c d) = i :: rest →
        answers .ok (s.describe i)) ∧
      (s.activeIndex (word32 a b c d) = none → s.retiringList (word32 a b c d) = [] → answers .notFound []))

/-- LIST, Table 1-8: the lowest entry at or above from_index that is not FREE and matches the filter. -/
def Obligations.ListAnswersByTable : Prop :=
  ∀ (s : State) (p : Port) (h l f : Byte),
    let start := (word16 h l).toNat
    let answers := fun (st : Status) (data : Bytes) =>
      exec (.list p [h, l, f]) s = .next (s.modPort p (fun ps => { ps with slot := .ready st data }))
    let found := fun (i : Nat) =>
      start ≤ i ∧ i < 512 ∧ ∃ c, (s.entry i).cls? = some c ∧ (f = 0xFF#8 ∨ f.toNat = c.val)
    (s.takesNotReady p → answers .notReady []) ∧
    (s.takes p → (512 < start ∨ 7 < f.toNat ∧ f ≠ 0xFF#8) → answers .badArg []) ∧
    (s.takes p → start ≤ 512 → (f.toNat ≤ 7 ∨ f = 0xFF#8) →
      (∀ i, found i → (∀ j, j < i → ¬found j) → answers .ok (s.describe i)) ∧
      ((∀ i, ¬found i) → answers .endOfList []))

/-- The key map (R5) read from the entries: the active index is the lowest NASCENT or LIVE entry of the key, the
retiring list its RETIRING entries in ascending order. -/
def Obligations.KeyMapFollowsEntries : Prop :=
  ∀ (s : State) (k : Key),
    (∀ i, s.activeIndex k = some i ↔
      i < 512 ∧ (s.entry i).isActive = true ∧ (s.entry i).key? = some k ∧
        ∀ j, j < i → ¬((s.entry j).isActive = true ∧ (s.entry j).key? = some k)) ∧
    (∀ i, i ∈ s.retiringList k ↔ i < 512 ∧ (s.entry i).isRetiring = true ∧ (s.entry i).key? = some k) ∧
    (s.retiringList k).Pairwise (· < ·)

/-- The entry description has 18 bytes, laid out as Table 11-6 says for a LIVE, a NASCENT and a RETIRING entry; its last
byte names the port that has an ACTIVE slot on the entry, FFH for none. -/
def Obligations.DescriptionLayout : Prop :=
  ∀ (s : State) (i : Nat),
    let holder : Byte :=
      if ∃ j : Fin 8, j.val < 4 ∧ (s.holds[j]).activeOn i = true then 0
      else if ∃ j : Fin 8, 4 ≤ j.val ∧ (s.holds[j]).activeOn i = true then 1 else 0xFF
    let pairOf : Option Nat → Bytes := fun p => match p with | some n => be16 n | none => [0xFF, 0xFF]
    (s.describe i).length = 18 ∧
    (∀ l p n, s.entry i = ⟨.live l, some p, n⟩ →
      s.describe i =
        be16 i ++ ([2] : Bytes) ++ be32 l.key ++ ([BitVec.ofNat 8 l.cls.val, BitVec.ofNat 8 l.length] : Bytes) ++
          be16 l.gen.toNat ++ be16 p ++
          ([cellCode l.cell, l.guardMap.setWidth 8,
            flagByte l.fixed ||| (flagByte l.damaged <<< 1) ||| (flagByte l.refreshWanted <<< 2) |||
              (flagByte (s.isBad p) <<< 3), BitVec.ofNat 8 n, holder] : Bytes)) ∧
    (∀ k c p n, s.entry i = ⟨.nascent k c, p, n⟩ →
      s.describe i =
        be16 i ++ ([1] : Bytes) ++ be32 k ++ ([BitVec.ofNat 8 c.val, 0, 0, 0] : Bytes) ++ pairOf p ++
          ([0xFF, 0xFF, 0, BitVec.ofNat 8 n, holder] : Bytes)) ∧
    (∀ k c g p n, s.entry i = ⟨.retiring k c g, p, n⟩ →
      s.describe i =
        be16 i ++ ([3] : Bytes) ++ be32 k ++ ([BitVec.ofNat 8 c.val, 0] : Bytes) ++ be16 g.toNat ++ pairOf p ++
          ([0xFF, 0xFF, 0, BitVec.ofNat 8 n, holder] : Bytes))

/-! ### READ and the arbiter (Chapter 2) -/

/-- A READ that passes its checks while the array is free makes the slot PENDING and is granted at once, with its count
cut to length - offset. Nothing else changes. -/
def Obligations.ReadOnFreeArrayIsGranted : Prop :=
  ∀ (s : State) (p : Port) (args : Bytes) (a : ReadArgs) (i pair : Nat) (l : Live),
    s.takes p → readArgs args = some a → keyValid a.key = true → a.offset ≤ 223 → 1 ≤ a.count → a.count ≤ 224 →
      s.activeIndex a.key = some i → (s.entry i).body = .live l → (s.entry i).pair = some pair →
        a.offset < l.length → s.arrayFree →
          ∃ t, exec (.read p args) s = .next t ∧
            t.arb.user =
              some (.port ⟨p, i, Loc.num pair l.cell, l.gen, a.offset, min a.count (l.length - a.offset)⟩) ∧
            t.arb.lastPort = p ∧
            t = { s.modPort p (fun ps => { ps with slot := .pending }) with
              arb := { s.arb with user := t.arb.user, lastPort := p } }

/-- READ refused by its checks, Table 2-5 past the argument count: nothing but the response slot changes. -/
def Obligations.ReadIsRefusedByTable : Prop :=
  ∀ (s : State) (p : Port) (args : Bytes) (a : ReadArgs), readArgs args = some a → s.takes p →
    let answers := fun (st : Status) =>
      exec (.read p args) s = .next (s.modPort p (fun ps => { ps with slot := .ready st [] }))
    ((keyValid a.key = false ∨ 223 < a.offset ∨ a.count = 0 ∨ 224 < a.count) → answers .badArg) ∧
    (keyValid a.key = true → a.offset ≤ 223 → 1 ≤ a.count → a.count ≤ 224 →
      (s.activeIndex a.key = none → s.retiringList a.key ≠ [] → answers .gone) ∧
      (s.activeIndex a.key = none → s.retiringList a.key = [] → answers .notFound) ∧
      (∀ i k c, s.activeIndex a.key = some i → (s.entry i).body = .nascent k c → answers .absentData) ∧
      (∀ i l pair, s.activeIndex a.key = some i → (s.entry i).body = .live l → (s.entry i).pair = some pair →
        l.length ≤ a.offset → answers .badArg))

/-- Suspension and the order of grants. A READ that arrives during a cell erase or a granule program of another cell
suspends the step within its budget, six and two, and is granted; during a mark program, a read step, a step on its own
cell or one whose budget is spent, and during another use of the array, it waits. When a READ ends in a suspension, the
other port's READ of another cell is granted, at most one for each port; else the step resumes as it was, and a READ
that still waits may suspend it again within the budget, the census waiting on. At the end of an engine step the waiting
READs go first, that of the port not last granted before the other, then one census read, then the engine's next step,
which a READ of another cell that came later may suspend. At the end of a census read an engine step that waits goes
before the census's next read. How far a suspended step has progressed is a free value, log entry 20. The end of a SETUP
job with a RESTART deferred behind it is SetupSwitchInstallsRecord's. -/
def Obligations.ReadSuspendsErase : Prop :=
  let budget : EngineStep → Nat := fun step => match step with
    | .erase _ => 6
    | .program _ _ _ => 2
    | _ => 0
  let holds := fun (t : State) (p : Port) (c : ReadClaim) (l : Live) (pair : Nat) =>
    t.arb.user = some (.port ⟨p, c.entry, Loc.num pair l.cell, l.gen, c.offset, min c.count (l.length - c.offset)⟩)
  let readable := fun (s : State) (c : ReadClaim) (l : Live) (pair : Nat) =>
    (∃ n, s.entry c.entry = ⟨.live l, some pair, n⟩) ∧ c.offset < l.length
  (∀ (s : State) (p : Port) (args : Bytes) (a : ReadArgs) (i pair : Nat) (l : Live) (step : EngineStep),
    s.takes p → readArgs args = some a → keyValid a.key = true → a.offset ≤ 223 → 1 ≤ a.count → a.count ≤ 224 →
      s.activeIndex a.key = some i → (s.entry i).body = .live l → (s.entry i).pair = some pair →
        a.offset < l.length →
          let claim : ReadClaim := ⟨i, a.offset, a.count, Loc.num pair l.cell⟩
          let waits := exec (.read p args) s =
            .next { s.modPort p (fun ps => { ps with slot := .pending }) with arb := s.arb.setWaiting p (some claim) }
          (s.engineAlone step → s.arb.suspCount < budget step → claim.loc ≠ step.loc →
            ∃ t n, exec (.read p args) s = .next t ∧ holds t p claim l pair ∧
              t.arb.suspended = some ⟨step, n, [p]⟩ ∧ t.arb.suspCount = s.arb.suspCount + 1 ∧
              (t.port p).slot = .pending ∧ t.work = s.work) ∧
          (s.arb.user = some (.engine step) → claim.loc = step.loc ∨ budget step ≤ s.arb.suspCount →
            (∀ c, s.arb.waiting (otherPort p) = some c → c.loc = step.loc ∨ budget step ≤ s.arb.suspCount) → waits) ∧
          ∀ u, s.arb.user = some u → (∀ st, u ≠ .engine st) → waits) ∧
  (∀ (s : State) (us : List Upset) (g : ReadGrant) (step : EngineStep) (n : Nat) (granted : List Port),
    s.arb.user = some (.port g) → s.arb.suspended = some ⟨step, n, granted⟩ → g.port ∈ granted →
      ∃ t, exec (.readComplete us) s = .next t ∧
        let resumes := t.arb.user = some (.engine step) ∧ t.arb.suspended = none ∧ t.arb.suspCount = s.arb.suspCount
        (s.arb.waitM = none → s.arb.waitS = none → resumes) ∧
        ∀ (q : Port) (c : ReadClaim), s.arb.waiting q = some c → s.arb.waiting (otherPort q) = none →
          (c.loc = step.loc ∨ q ∈ granted ∧ budget step ≤ s.arb.suspCount →
            resumes ∧ t.arb.waiting q = some c) ∧
          ∀ l pair, readable s c l pair → c.loc ≠ step.loc →
            (q ∉ granted → holds t q c l pair ∧ t.arb.suspended = some ⟨step, n, q :: granted⟩ ∧
              t.arb.suspCount = s.arb.suspCount) ∧
            (q ∈ granted → s.arb.suspCount < budget step →
              holds t q c l pair ∧ (∃ n', t.arb.suspended = some ⟨step, n', [q]⟩) ∧
                t.arb.suspCount = s.arb.suspCount + 1)) ∧
  (∀ (s : State) (us : List Upset) (step : EngineStep),
    s.arb.user = some (.engine step) → s.arb.suspended = none → s.arb.boundary = none → s.arb.waitEngine = none →
      s.restartDeferred = false →
        ∃ t, exec (stepEnd step us) s = .next t ∧
          let owes := fun (b : Boundary) => t.arb.waitEngine.isSome = true ∨ t.hasWork = true → t.arb.boundary = some b
          (∀ p c l pair, s.arb.waiting p = some c → (s.arb.waiting (otherPort p) = none ∨ s.arb.lastPort ≠ p) →
            readable t c l pair →
              holds t p c l pair ∧ t.arb.lastPort = p ∧
                t.arb.waiting (otherPort p) = s.arb.waiting (otherPort p) ∧ t.arb.waitCensus = s.arb.waitCensus ∧
                owes ⟨if s.arb.waiting (otherPort p) = none then [] else [otherPort p],
                  s.arb.waitCensus.isSome⟩) ∧
          (s.arb.waitM = none → s.arb.waitS = none → ∀ r, s.census = some r →
            (∀ g e, s.arb.waitCensus = some (.data g) → r.current = some e →
              t.arb.user = some (.census e.loc g e.entry true) ∧ owes ⟨[], false⟩) ∧
            ∀ i l pair m, s.arb.waitCensus = some (.header i) → t.entry i = ⟨.live l, some pair, m⟩ →
              t.arb.user = some (.census (Loc.num pair l.cell) 0 i true) ∧ owes ⟨[], false⟩)) ∧
  (∀ (s : State) (us : List Upset) (g : ReadGrant) (b : Boundary),
    s.arb.user = some (.port g) → s.arb.suspended = none → s.arb.boundary = some b → s.arb.waiting g.port = none →
      ∃ t, exec (.readComplete us) s = .next t ∧
        let q := otherPort g.port
        (∀ c l pair, s.arb.waiting q = some c → q ∈ b.ports → readable s c l pair →
          holds t q c l pair ∧ t.arb.boundary = some ⟨b.ports.filter (fun x => x != q), b.census⟩ ∧
            t.arb.waitEngine = s.arb.waitEngine) ∧
        (s.arb.waiting q = none ∨ q ∉ b.ports →
          (∀ r e k, b.census = true → s.arb.waitCensus = some (.data k) → s.census = some r → r.current = some e →
            t.arb.user = some (.census e.loc k e.entry true) ∧ t.arb.boundary = some ⟨[], false⟩ ∧
              t.arb.waiting q = s.arb.waiting q ∧ t.arb.waitEngine = s.arb.waitEngine) ∧
          (b.census = false ∨ s.arb.waitCensus = none → ∀ step, s.arb.waitEngine = some step →
            ((∀ c, s.arb.waiting q = some c → c.loc = step.loc ∨ budget step = 0) →
              t.arb.user = some (.engine step) ∧ t.arb.suspCount = 0 ∧ t.arb.boundary = none ∧
                t.arb.waitEngine = none ∧ t.arb.waiting q = s.arb.waiting q) ∧
            ∀ c l pair, s.arb.waiting q = some c → c.loc ≠ step.loc → 0 < budget step → readable s c l pair →
              holds t q c l pair ∧ (∃ n, t.arb.suspended = some ⟨step, n, [q]⟩) ∧ t.arb.suspCount = 1))) ∧
  ∀ (s : State) (us : List Upset) (loc : Loc) (g e : Nat) (counts : Bool) (step : EngineStep),
    s.arb.user = some (.census loc g e counts) → s.arb.suspended = none →
      (s.arb.boundary = none ∨ s.arb.boundary = some ⟨[], false⟩) → s.arb.waitM = none → s.arb.waitS = none →
        s.arb.waitCensus = none → s.arb.waitEngine = some step →
          ∃ t, exec (.censusReadEnd us) s = .next t ∧ t.arb.user = some (.engine step) ∧ t.arb.suspCount = 0 ∧
            t.arb.boundary = none ∧ t.arb.waitEngine = none

/-- The granule reads of a READ end: the answer carries generation, worst outcome, count and the payload bytes of the
granules as they read then, each read is reported with the party of the port, and of the array only the bits that
changed of themselves have changed. No READ of the same port can wait while it holds the array, which is a premise. -/
def Obligations.ReadCompleteAnswers : Prop :=
  ∀ (s : State) (us : List Upset) (g : ReadGrant),
    s.arb.user = some (.port g) → s.arb.waiting g.port = none →
      let reads := (granulesFor g.offset g.count).map (fun n => (n, (s.upsets g.loc us).readGranule g.loc n))
      ∃ t, exec (.readComplete us) s = .next t ∧
        (t.port g.port).slot =
          .ready .ok
            (be16 g.gen.toNat ++ [(worstOutcome (reads.map (fun r => r.2))).code, BitVec.ofNat 8 g.count] ++
              (((reads.map (fun r => bytesAt r.2.2 0 32)).flatten).drop (g.offset % 32)).take g.count) ∧
        t.capture =
          (reads.map (fun r => (⟨r.2.1, g.loc, r.1, some g.entry, portParty g.port⟩ : Report))).foldl Capture.take
            s.capture ∧
        t.granules = (s.upsets g.loc us).granules ∧ t.marks = (s.upsets g.loc us).marks ∧ t.queue = s.queue ∧
        t.work = s.work ∧ t.buffers = s.buffers ∧ t.holds = s.holds ∧ t.setup = s.setup

/-- Reads with correction: a granule programmed once reads CLEAN; with any one data bit wrong it reads CORRECTED with
the data programmed; with any two wrong it reads UNCORRECTABLE with the bits it holds. -/
def Obligations.ReadOutcomeByWrongBits : Prop :=
  ∀ (d : Data) (i j : Nat), i < 256 → j < 256 → i ≠ j →
    (Granule.programmed d).readGuarded = (.clean, d) ∧
    ({ Granule.programmed d with data := d ^^^ (1#256 <<< i) } : Granule).readGuarded = (.corrected, d) ∧
    ({ Granule.programmed d with data := d ^^^ (1#256 <<< i) ^^^ (1#256 <<< j) } : Granule).readGuarded =
      (.uncorrectable, d ^^^ (1#256 <<< i) ^^^ (1#256 <<< j))

/-! ### Staging and results (Chapter 3) -/

/-- STAGE writes its bytes, raises the filled-up-to mark and makes the buffer FILLING; it is refused as Table 3-2 says.
-/
def Obligations.StageWritesBuffer : Prop :=
  ∀ (s : State) (p : Port) (b : Fin 8) (o n : Byte) (data : Bytes),
    s.takes p → data.length = n.toNat → 1 ≤ n.toNat → n.toNat ≤ 224 →
      let command := Instr.stage p (BitVec.ofNat 8 b.val :: o :: n :: data)
      let answers := fun (st : Status) =>
        exec command s = .next (s.modPort p (fun ps => { ps with slot := .ready st [] }))
      (bufferPort b ≠ p → answers .badArg) ∧
      (bufferPort b = p → 223 < o.toNat → answers .badArg) ∧
      (bufferPort b = p → o.toNat ≤ 223 → 224 < o.toNat + n.toNat → answers .badLength) ∧
      (bufferPort b = p → o.toNat ≤ 223 → o.toNat + n.toNat ≤ 224 → (s.buffers[b]).state = .queued → answers .inUse) ∧
      (bufferPort b = p → o.toNat ≤ 223 → o.toNat + n.toNat ≤ 224 → (s.buffers[b]).state ≠ .queued →
        ∃ t, exec command s = .next t ∧ (t.buffers[b]).state = .filling ∧
          (t.buffers[b]).filled = max (s.buffers[b]).filled (o.toNat + n.toNat) ∧
          (∀ pos, (t.buffers[b]).byte pos =
            if o.toNat ≤ pos ∧ pos < o.toNat + n.toNat then data.getD (pos - o.toNat) 0
            else (s.buffers[b]).byte pos) ∧
          t = { s.modPort p (fun ps => { ps with slot := .ready .ok [] }) with
            buffers := s.buffers.set b (t.buffers[b]) })

/-- DISCARD, on every buffer number and state. -/
def Obligations.DiscardAnswersByState : Prop :=
  ∀ (s : State) (p : Port) (n : Byte),
    let answers := fun (st : Status) =>
      exec (.discard p [n]) s = .next (s.modPort p (fun ps => { ps with slot := .ready st [] }))
    (s.takesNotReady p → answers .notReady) ∧
    (s.takes p → 8 ≤ n.toNat → answers .badArg) ∧
    (∀ b : Fin 8, s.takes p → n.toNat = b.val →
      (bufferPort b ≠ p → answers .badArg) ∧
      (bufferPort b = p →
        ((s.buffers[b]).state = .filling →
          exec (.discard p [n]) s =
            .next { s.modPort p (fun ps => { ps with slot := .ready .ok [] }) with
              buffers := s.buffers.set b ⟨.empty, [], 0⟩ }) ∧
        ((s.buffers[b]).state = .empty → answers .ok) ∧ ((s.buffers[b]).state = .queued → answers .inUse)))

/-- RESULT removes and returns the oldest result record, or answers NO_RESULT. -/
def Obligations.ResultReturnsOldest : Prop :=
  ∀ (s : State) (p : Port), s.takes p →
    ((s.port p).results = [] →
      exec (.result p []) s = .next (s.modPort p (fun ps => { ps with slot := .ready .noResult [] }))) ∧
    ∀ r rest, (s.port p).results = r :: rest →
      exec (.result p []) s =
        .next (s.modPort p (fun ps => { ps with results := rest, slot := .ready .ok r.bytes }))

/-! ### Acceptance of jobs (Chapter 3) -/

/-- Allocation chooses the lowest FREE entry whose jobs count is 0. A create that allocates: the entry becomes NASCENT
with jobs 1 on the pair it held, the job joins the tail of the queue with the port's ticket, the buffer becomes QUEUED,
a RUNNING census of its scope is stale and any other census as it was, and the answer is ACCEPTED. That the jobs counts
are the numbers of queued jobs that name the entries is a premise, which the law of the queue keeps
(`StepKeepsBounds`). -/
def Obligations.CreateIsAccepted : Prop :=
  (∀ (s : State) (i : Nat), s.allocatable = some i ↔
    i < 512 ∧ (s.entry i).body = .free ∧ (s.entry i).jobs = 0 ∧
      ∀ j, j < i → ¬((s.entry j).body = .free ∧ (s.entry j).jobs = 0)) ∧
  ∀ (s : State) (p : Port) (args : Bytes) (a : CommitArgs) (b : Fin 8) (i : Nat) (c : Cls),
    s.takes p → commitArgs args = some a → keyValid a.key = true → a.create = 1 → clsOfByte a.cls = some c →
      a.buffer.toNat = b.val → bufferPort b = p → a.length ≤ 224 → (1 ≤ a.length ∨ 1 ≤ (s.buffers[b]).filled) →
        (s.buffers[b]).state ≠ .queued → s.activeIndex a.key = none → s.allocatable = some i →
          (p = .m ∨ (s.policy c).sWriteOk = true) → s.inhibited c = false →
            (if a.length = 0 then (s.buffers[b]).filled else a.length) ≤ (s.policy c).maxLength.toNat →
              s.queue.length < 8 → (s.port p).outstanding + (s.port p).results.length < 8 → jobsCounted s →
                ∃ t, exec (.commit p args) s = .next t ∧
                  t.entry i = ⟨.nascent a.key c, (s.entry i).pair, 1⟩ ∧ (∀ j, j ≠ i → t.entry j = s.entry j) ∧
                  t.queue = s.queue ++
                    [⟨(s.port p).ticket, p, .commit i a.key b
                      (if a.length = 0 then (s.buffers[b]).filled else a.length) a.expected⟩] ∧
                  (t.buffers[b]).state = .queued ∧ censusTold s t c ∧
                  t = { s.modPort p (fun ps =>
                      { ps with
                        slot := .ready .accepted ((s.port p).ticket :: be16 i)
                        ticket := nextTicket ps.ticket
                        outstanding := ps.outstanding + 1 }) with
                    entries := t.entries
                    queue := t.queue
                    buffers := s.buffers.set b { s.buffers[b] with state := .queued }
                    census := t.census }

/-- A COMMIT for an entry with a not-started COMMIT takes its place in the queue: the old job completes with SUPERSEDED,
its buffer becomes EMPTY, and the entry's jobs count is unchanged. -/
def Obligations.CommitCoalesces : Prop :=
  ∀ (s : State) (p : Port) (args : Bytes) (a : CommitArgs) (b : Fin 8) (i : Nat) (e : Entry) (c : Cls) (old : Job)
      (oldBuffer : Fin 8),
    s.takes p → commitArgs args = some a → keyValid a.key = true → a.create = 0 → a.buffer.toNat = b.val →
      bufferPort b = p → a.length ≤ 224 → (1 ≤ a.length ∨ 1 ≤ (s.buffers[b]).filled) →
        (s.buffers[b]).state ≠ .queued → s.activeIndex a.key = some i → s.entry i = e → e.isFixed = false →
          s.holdsActive (otherPort p) i = false → e.cls? = some c → (p = .m ∨ (s.policy c).sWriteOk = true) →
            (if a.length = 0 then (s.buffers[b]).filled else a.length) ≤ (s.policy c).maxLength.toNat →
              s.inhibited c = false → s.waitingFor i = some old → old.body.buffer? = some oldBuffer → oldBuffer ≠ b →
                (s.port p).outstanding + (s.port p).results.length < 8 →
                  ∃ t, exec (.commit p args) s = .next t ∧
                    t.queue = s.startedJobs ++ s.waitingJobs.map (fun j => if j = old then
                      ⟨(s.port p).ticket, p, .commit i a.key b
                        (if a.length = 0 then (s.buffers[b]).filled else a.length) a.expected⟩ else j) ∧
                    (t.buffers[b]).state = .queued ∧ t.buffers[oldBuffer] = ⟨.empty, [], 0⟩ ∧
                    (t.port old.port).results = (s.port old.port).results ++
                      [⟨old.ticket, .commit, some i, old.body.key?, .superseded, none, false⟩] ∧
                    (t.port p).slot = .ready .accepted ((s.port p).ticket :: be16 i) ∧
                    (t.port p).ticket = nextTicket (s.port p).ticket ∧
                    t = { s with
                      queue := t.queue
                      buffers := (s.buffers.set b { s.buffers[b] with state := .queued }).set oldBuffer ⟨.empty, [], 0⟩
                      portM := t.portM
                      portS := t.portS }

/-- COMMIT without a waiting job for its entry, PATCH, RETIRE and FIX of an existing entry: when checks 1 to 8 pass the
job joins the tail of the queue with the port's ticket, the jobs count rises by one, and the answer is ACCEPTED. -/
def Obligations.EntryJobsAreAccepted : Prop :=
  ∀ (s : State) (p : Port) (key : Key) (i : Nat) (c : Cls),
    s.takes p → keyValid key = true → s.activeIndex key = some i → (s.entry i).isFixed = false →
      s.holdsActive (otherPort p) i = false → (s.entry i).cls? = some c → (p = .m ∨ (s.policy c).sWriteOk = true) →
        s.inhibited c = false → s.waitingFor i = none → s.queue.length < 8 →
          (s.port p).outstanding + (s.port p).results.length < 8 →
            let accepted := fun (body : JobBody) =>
              { s.modPort p (fun ps =>
                  { ps with
                    slot := .ready .accepted (ps.ticket :: be16 i)
                    ticket := nextTicket ps.ticket
                    outstanding := ps.outstanding + 1 }) with
                queue := s.queue ++ [⟨(s.port p).ticket, p, body⟩]
                entries := (s.setEntry i { s.entry i with jobs := (s.entry i).jobs + 1 }).entries }
            (∀ args (a : CommitArgs) (b : Fin 8), commitArgs args = some a → a.key = key → a.create.toNat ≤ 1 →
              (a.create = 1 → a.cls.toNat ≤ 7) → a.buffer.toNat = b.val → bufferPort b = p → a.length ≤ 224 →
              (1 ≤ a.length ∨ 1 ≤ (s.buffers[b]).filled) → (s.buffers[b]).state ≠ .queued →
              (if a.length = 0 then (s.buffers[b]).filled else a.length) ≤ (s.policy c).maxLength.toNat →
              exec (.commit p args) s =
                .next { accepted (.commit i key b (if a.length = 0 then (s.buffers[b]).filled else a.length)
                    a.expected) with
                  buffers := s.buffers.set b { s.buffers[b] with state := .queued } }) ∧
            (∀ args (a : PatchArgs), patchArgs args = some a → a.key = key → a.offset ≤ 223 →
              a.offset + a.data.length ≤ 224 → (∀ l, (s.entry i).body = .live l → a.offset + a.data.length ≤ l.length) →
              (s.policy c).patchOk = true →
              exec (.patch p args) s = .next (accepted (.patch i key a.offset a.data a.expected))) ∧
            (∀ args expected, retireArgs args = some (key, expected) → (s.policy c).retireOk = true →
              exec (.retire p args) s = .next (accepted (.retire i key expected))) ∧
            (∀ args, keyArg args = some key → exec (.fix p args) s = .next (accepted (.fix i key)))

/-- RETIRE and FIX of an existing entry refused by checks 3, 4, 5, 7 and 8 of Table 3-4, in that order: the first check
that fails gives the status, and nothing but the response slot changes. -/
def Obligations.RetireAndFixAreRefusedInOrder : Prop :=
  ∀ (s : State) (p : Port) (key : Key) (i : Nat) (c : Cls),
    s.takes p → keyValid key = true → s.activeIndex key = some i → (s.entry i).cls? = some c →
      let status := fun (permitted : Bool) =>
        if (s.entry i).isFixed = true then some Status.locked
        else if s.holdsActive (otherPort p) i = true then some .held
        else if permitted = false then some .denied
        else if s.inhibited c = true then some .inhibited
        else if (s.waitingFor i).isSome = true then some .inUse
        else if 8 ≤ s.queue.length then some .full
        else if 8 ≤ (s.port p).outstanding + (s.port p).results.length then some .full
        else none
      (∀ args expected st, retireArgs args = some (key, expected) →
        status ((s.policy c).retireOk && (p == .m || (s.policy c).sWriteOk)) = some st →
        exec (.retire p args) s = .next (s.modPort p (fun ps => { ps with slot := .ready st [] }))) ∧
      (∀ args st, keyArg args = some key → status (p == .m || (s.policy c).sWriteOk) = some st →
        exec (.fix p args) s = .next (s.modPort p (fun ps => { ps with slot := .ready st [] })))

/-- SETUP_WRITE: refused from Port S with DENIED and, when the setup record is fixed, from Port M with LOCKED; accepted
from Port M otherwise, with no entry index. -/
def Obligations.SetupWriteAcceptance : Prop :=
  ∀ (s : State) (args : Bytes) (contents : Bytes) (fix : Byte),
    setupArgs args = some (contents, fix) →
      let answers := fun (p : Port) (st : Status) =>
        exec (.setupWrite p args) s = .next (s.modPort p (fun ps => { ps with slot := .ready st [] }))
      (∀ p, s.takes p → (contentsInRange contents = false ∨ 1 < fix.toNat) → answers p .badArg) ∧
      (contentsInRange contents = true → fix.toNat ≤ 1 →
        (s.takes .s → answers .s .denied) ∧
        (s.takes .m → s.setup.fixed = true → answers .m .locked) ∧
        (s.takes .m → s.setup.fixed = false → s.waitingJobs.any (fun j => j.body.isSetup) = true → answers .m .inUse) ∧
        (s.takes .m → s.setup.fixed = false → s.waitingJobs.any (fun j => j.body.isSetup) = false →
          s.queue.length < 8 → s.portM.outstanding + s.portM.results.length < 8 →
          exec (.setupWrite .m args) s =
            .next { s.modPort .m (fun ps =>
                { ps with
                  slot := .ready .accepted [ps.ticket, 0xFF, 0xFF]
                  ticket := nextTicket ps.ticket
                  outstanding := ps.outstanding + 1 }) with
              queue := s.queue ++ [⟨s.portM.ticket, .m, .setup (contentsOfBytes contents) (fix == 1)⟩] }))

/-- A job command that is not answered ACCEPTED changes nothing but the response slot, or the OVERRUN flag when the
frame was ignored. Which COMMIT and which PATCH is refused, and with what: the first check of Table 3-4 that fails gives
the status, in the order BAD_ARG, BAD_LENGTH, IN_USE of the buffer, then GONE, NOT_FOUND or NO_ENTRY, then LOCKED, HELD,
DENIED, BAD_LENGTH, INHIBITED, IN_USE, FULL of the queue, FULL of the port. That BAD_ARG stands before BAD_LENGTH in
check 1 of a COMMIT is the model's, log entry 17. RETIRE and FIX of a key that no active entry has answer GONE or
NOT_FOUND. -/
def Obligations.RefusedJobChangesOnlySlot : Prop :=
  (∀ (s t : State) (p : Port) (args : Bytes) (c : Instr),
    (c = .commit p args ∨ c = .patch p args ∨ c = .retire p args ∨ c = .fix p args ∨ c = .setupWrite p args) →
      exec c s = .next t → (∀ d, (t.port p).slot ≠ .ready .accepted d) →
        t = s.modPort p (fun ps => { ps with slot := (t.port p).slot, flags := (t.port p).flags }) ∧
          ((t.port p).flags = (s.port p).flags ∨ (t.port p).flags = (s.port p).flags ||| 0x80#8)) ∧
  ∀ (s : State) (p : Port), s.takes p →
    let answers := fun (c : Instr) (st : Status) =>
      exec c s = .next (s.modPort p (fun ps => { ps with slot := .ready st [] }))
    let unresolved := fun (key : Key) => if s.retiringList key = [] then Status.notFound else .gone
    let entryStatus := fun (isFixed held permitted : Bool) (c : Cls) (length : Nat) =>
      if isFixed = true then some Status.locked
      else if held = true then some .held
      else if permitted = false then some .denied
      else if (s.policy c).maxLength.toNat < length then some .badLength
      else if s.inhibited c = true then some .inhibited
      else none
    let full := if 8 ≤ (s.port p).outstanding + (s.port p).results.length then some Status.full else none
    (∀ args (a : CommitArgs), commitArgs args = some a →
      ((∀ b : Fin 8, a.buffer.toNat = b.val → bufferPort b ≠ p) → answers (.commit p args) .badArg) ∧
      ∀ b : Fin 8, a.buffer.toNat = b.val → bufferPort b = p →
        let length := if a.length = 0 then (s.buffers[b]).filled else a.length
        let argStatus :=
          if keyValid a.key = false ∨ 1 < a.create.toNat ∨ a.create = 1 ∧ 7 < a.cls.toNat then some Status.badArg
          else if 224 < a.length ∨ a.length = 0 ∧ (s.buffers[b]).filled = 0 then some .badLength
          else if (s.buffers[b]).state = .queued then some .inUse
          else none
        let capacity := fun (waits : Option Job) =>
          match waits with
          | some j => if j.body.isCommit = false then some Status.inUse else full
          | none => if 8 ≤ s.queue.length then some .full else full
        (∀ st, argStatus = some st → answers (.commit p args) st) ∧
        (argStatus = none →
          (s.activeIndex a.key = none → a.create = 0 → answers (.commit p args) (unresolved a.key)) ∧
          (s.activeIndex a.key = none → a.create = 1 → s.allocatable = none → answers (.commit p args) .noEntry) ∧
          (∀ i c st, s.activeIndex a.key = none → a.create = 1 → s.allocatable = some i → clsOfByte a.cls = some c →
            ((entryStatus false false (p == .m || (s.policy c).sWriteOk) c length).or (capacity (s.waitingFor i))) =
              some st → answers (.commit p args) st) ∧
          (∀ i c st, s.activeIndex a.key = some i → (s.entry i).cls? = some c →
            ((entryStatus (s.entry i).isFixed (s.holdsActive (otherPort p) i) (p == .m || (s.policy c).sWriteOk) c
              length).or (capacity (s.waitingFor i))) = some st → answers (.commit p args) st))) ∧
    (∀ args (a : PatchArgs), patchArgs args = some a →
      ((keyValid a.key = false ∨ 223 < a.offset) → answers (.patch p args) .badArg) ∧
      (keyValid a.key = true → a.offset ≤ 223 → 224 < a.offset + a.data.length → answers (.patch p args) .badLength) ∧
      (keyValid a.key = true → a.offset ≤ 223 → a.offset + a.data.length ≤ 224 →
        (s.activeIndex a.key = none → answers (.patch p args) (unresolved a.key)) ∧
        (∀ i l, s.activeIndex a.key = some i → (s.entry i).body = .live l → l.length < a.offset + a.data.length →
          answers (.patch p args) .badArg) ∧
        (∀ i c st, s.activeIndex a.key = some i → (s.entry i).cls? = some c →
          (∀ l, (s.entry i).body = .live l → a.offset + a.data.length ≤ l.length) →
          ((entryStatus (s.entry i).isFixed (s.holdsActive (otherPort p) i)
              ((s.policy c).patchOk && (p == .m || (s.policy c).sWriteOk)) c 0).or
            (if (s.waitingFor i).isSome = true then some .inUse else if 8 ≤ s.queue.length then some .full else full)) =
              some st → answers (.patch p args) st))) ∧
    (∀ args key expected, retireArgs args = some (key, expected) → keyValid key = true → s.activeIndex key = none →
      answers (.retire p args) (unresolved key)) ∧
    (∀ args key, keyArg args = some key → keyValid key = true → s.activeIndex key = none →
      answers (.fix p args) (unresolved key))

/-! ### Holds and class protection (Chapter 7) -/

/-- HOLD, lines 3 to 8 of Table 7-1: a key without an active index answers GONE or NOT_FOUND; on a resolved entry, the
slot that becomes or stays ACTIVE, its lease, and the answer. -/
def Obligations.HoldActsByTable : Prop :=
  ∀ (s : State) (p : Port) (args : Bytes) (key : Key),
    s.takes p → keyArg args = some key → keyValid key = true →
      let answers := fun (st : Status) =>
        exec (.hold p args) s = .next (s.modPort p (fun ps => { ps with slot := .ready st [] }))
      (s.activeIndex key = none → s.retiringList key ≠ [] → answers .gone) ∧
      (s.activeIndex key = none → s.retiringList key = [] → answers .notFound) ∧
      ∀ (i : Nat) (c : Cls), s.activeIndex key = some i → (s.entry i).cls? = some c →
        let lease := (s.policy c).lease
        let takes := fun (slot : Fin 8) (h : HoldSlot) =>
          exec (.hold p args) s =
            .next { s.modPort p (fun ps => { ps with slot := .ready .ok (be16 i ++ [lease]) }) with
              holds := s.holds.set slot h }
        let mine := fun (test : HoldSlot → Bool) => (slotsOf p).find? (fun x => test (s.holds[x]))
        (∀ slot q k old, mine (HoldSlot.activeOn i) = some slot → s.holds[slot] = .active q i k old →
          takes slot (.active q i k lease)) ∧
        (mine (HoldSlot.activeOn i) = none → s.holdsActive (otherPort p) i = true → answers .held) ∧
        (mine (HoldSlot.activeOn i) = none → s.holdsActive (otherPort p) i = false →
          (∀ slot, mine (HoldSlot.lapsedOn i) = some slot → takes slot (.active p i key lease)) ∧
          (mine (HoldSlot.lapsedOn i) = none →
            (∀ slot, mine (fun h => h == .empty) = some slot → takes slot (.active p i key lease)) ∧
            (mine (fun h => h == .empty) = none → answers .full)))

/-- RENEW and RELEASE: a port without a slot for the key is answered NOT_HELD; an ACTIVE slot is reloaded with the class
lease, or emptied with OK; a LAPSED slot is emptied with EXPIRED. -/
def Obligations.RenewAndReleaseBySlot : Prop :=
  ∀ (s : State) (p : Port) (args : Bytes) (key : Key),
    s.takes p → keyArg args = some key → keyValid key = true →
      let answered := fun (st : Status) (d : Bytes) => s.modPort p (fun ps => { ps with slot := .ready st d })
      (s.slotForKey p key = none →
        exec (.renew p args) s = .next (answered .notHeld []) ∧
        exec (.release p args) s = .next (answered .notHeld [])) ∧
      (∀ slot q i k lease c, s.slotForKey p key = some slot → s.holds[slot] = .active q i k lease →
        (s.entry i).cls? = some c →
        exec (.renew p args) s =
          .next { answered .ok [(s.policy c).lease] with
            holds := s.holds.set slot (.active q i k (s.policy c).lease) } ∧
        exec (.release p args) s = .next { answered .ok [] with holds := s.holds.set slot .empty }) ∧
      (∀ slot q i k, s.slotForKey p key = some slot → s.holds[slot] = .lapsed q i k →
        exec (.renew p args) s = .next { answered .expired [] with holds := s.holds.set slot .empty } ∧
        exec (.release p args) s = .next { answered .expired [] with holds := s.holds.set slot .empty })

/-- The end of a lease interval in READY lowers every ACTIVE lease by one; a slot that reaches 0 becomes LAPSED and sets
HOLD_LAPSED on its port, whose other flags stay; every flag of a port without such a slot stays, and so does everything
else. The expiry of one slot whose lease is 0 does the same for that slot alone. Outside READY the lease clock is
stopped. -/
def Obligations.LeasesCountDownAndLapse : Prop :=
  (∀ (s : State), s.phase = .ready →
    let lapses := fun (p : Port) =>
      ∃ (slot : Fin 8) (i : Nat) (k : Key) (lease : Byte), s.holds[slot] = .active p i k lease ∧ lease.toNat ≤ 1
    ∃ t, exec .leaseInterval s = .next t ∧
      (∀ slot : Fin 8, ∀ q i k lease, s.holds[slot] = .active q i k lease → 2 ≤ lease.toNat →
        t.holds[slot] = .active q i k (lease - 1)) ∧
      (∀ slot : Fin 8, ∀ q i k lease, s.holds[slot] = .active q i k lease → lease.toNat ≤ 1 →
        t.holds[slot] = .lapsed q i k) ∧
      (∀ slot : Fin 8, (∀ q i k lease, s.holds[slot] ≠ .active q i k lease) → t.holds[slot] = s.holds[slot]) ∧
      (∀ p, lapses p → (t.port p).flags = (s.port p).flags ||| 0x02#8) ∧
      (∀ p, ¬lapses p → (t.port p).flags = (s.port p).flags) ∧
      t = { s with
        holds := t.holds
        portM := { s.portM with flags := t.portM.flags }
        portS := { s.portS with flags := t.portS.flags } }) ∧
  (∀ (s : State) (slot : Fin 8) (q : Port) (i : Nat) (k : Key), s.phase = .ready → s.holds[slot] = .active q i k 0 →
    exec (.holdLapsed slot.val) s =
      .next { s.modPort q (fun ps => { ps with flags := ps.flags ||| 0x02#8 }) with
        holds := s.holds.set slot (.lapsed q i k) }) ∧
  ∀ (s : State) (n : Nat), s.phase ≠ .ready → exec .leaseInterval s = .next s ∧ exec (.holdLapsed n) s = .next s

/-- INHIBIT: a class named in both masks gives BAD_ARG; otherwise the set mask is set, the clear mask cleared, and the
mask after the change is answered. -/
def Obligations.InhibitSetsAndClears : Prop :=
  ∀ (s : State) (p : Port) (set clear : Byte), s.takes p →
    (set &&& clear ≠ 0 →
      exec (.inhibit p [set, clear]) s = .next (s.modPort p (fun ps => { ps with slot := .ready .badArg [] }))) ∧
    (set &&& clear = 0 →
      ∃ t, exec (.inhibit p [set, clear]) s = .next t ∧
        (∀ c, c < 8 → t.inhibit.getLsbD c = (set.getLsbD c || (s.inhibit.getLsbD c && !clear.getLsbD c))) ∧
        t = { s.modPort p (fun ps => { ps with slot := .ready .ok [t.inhibit] }) with inhibit := t.inhibit })

/-! ### Integrity (Chapter 6) -/

/-- CAPTURE_CLEAR empties the capture record and touches nothing else but the response slot. -/
def Obligations.CaptureClearEmptiesRecord : Prop :=
  ∀ (s : State) (p : Port),
    (s.takesNotReady p →
      exec (.captureClear p []) s = .next (s.modPort p (fun ps => { ps with slot := .ready .notReady [] }))) ∧
    (s.takes p →
      exec (.captureClear p []) s =
        .next { s.modPort p (fun ps => { ps with slot := .ready .ok [] }) with
          capture := ⟨0, 0, none, none, none, none⟩ })

/-- The capture record after a report: counts that stop at 63, first locations that stay, latest locations that follow.
-/
def Obligations.ReportEntersCapture : Prop :=
  ∀ (s : State) (r : Report),
    (r.outcome = .corrected → (s.report r).capture =
      { s.capture with
        correctedCount := if s.capture.correctedCount < 63 then s.capture.correctedCount + 1
          else s.capture.correctedCount
        firstCorrected := if s.capture.firstCorrected = none then some r.place else s.capture.firstCorrected
        latestCorrected := some r.place }) ∧
    (r.outcome = .uncorrectable → (s.report r).capture =
      { s.capture with
        uncorrectableCount := if s.capture.uncorrectableCount < 63 then s.capture.uncorrectableCount + 1
          else s.capture.uncorrectableCount
        firstUncorrectable := if s.capture.firstUncorrectable = none then some r.place else s.capture.firstUncorrectable
        latestUncorrectable := some r.place }) ∧
    ((r.outcome = .clean ∨ r.outcome = .unguarded) → (s.report r).capture = s.capture)

/-- What a report does to a LIVE entry whose current cell it concerns, and to the ports. CORRECTED, or UNCORRECTABLE at
the header, of an entry that may be nominated sets refresh_wanted and appends it to the list, or sets overflow when the
list holds 16. UNCORRECTABLE at a data granule sets damaged and takes it off the list. UNCORRECTABLE sets the event flag
on both ports. A report of the scan does none of this. -/
def Obligations.ReportActsOnEntryAndPorts : Prop :=
  ∀ (s : State) (r : Report) (i : Nat) (l : Live) (p n : Nat),
    r.place.entry = some i → s.entry i = ⟨.live l, some p, n⟩ → r.place.loc = Loc.num p l.cell →
      (r.place.party ≠ .scan → r.outcome = .corrected ∨ r.outcome = .uncorrectable ∧ r.place.granule = 0 →
        l.fixed = false → l.damaged = false → l.refreshWanted = false → (s.policy l.cls).refreshOk = true →
          (s.report r).entry i = ⟨.live { l with refreshWanted := true }, some p, n⟩ ∧
          (s.refresh.list.length < 16 → (s.report r).refresh = { s.refresh with list := s.refresh.list ++ [i] }) ∧
          (16 ≤ s.refresh.list.length → (s.report r).refresh = { s.refresh with overflow := true })) ∧
      (r.place.party ≠ .scan → r.outcome = .uncorrectable → 1 ≤ r.place.granule →
        (s.report r).entry i = ⟨.live { l with damaged := true, refreshWanted := false }, some p, n⟩ ∧
          i ∉ (s.report r).refresh.list) ∧
      (r.place.party ≠ .scan → r.outcome = .uncorrectable →
        ∀ q, ((s.report r).port q).flags = (s.port q).flags ||| 0x04#8) ∧
      (r.place.party = .scan ∨ r.outcome = .clean ∨ r.outcome = .unguarded →
        s.report r = { s with capture := (s.report r).capture })

/-! ### Census (Chapter 8) -/

/-- CENSUS and CENSUS_CANCEL. A census of a scope with no LIVE entry ends at once, DONE with digest 0, and sets
CENSUS_DONE on its port; one with a LIVE entry, the array being free, is RUNNING with the header read of the first such
entry granted; a RUNNING record gives BUSY. A cancel makes a RUNNING record CANCELLED and withdraws its waiting read. -/
def Obligations.CensusStartsAndCancels : Prop :=
  ∀ (s : State) (p : Port) (b : Byte) (scope : Option Cls), s.takes p → scopeOfByte b = some scope →
    (∀ r, s.census = some r → r.state = .running →
      exec (.census p [b]) s = .next (s.modPort p (fun ps => { ps with slot := .ready .busy [] })) ∧
      ∃ t, exec (.censusCancel p []) s = .next t ∧ t.census = some { r with state := .cancelled } ∧
        t.arb.waitCensus = none ∧ (t.port p).slot = .ready .ok [] ∧ (t.port p).flags = (s.port p).flags ∧
        t.port (otherPort p) = s.port (otherPort p)) ∧
    ((∀ r, s.census = some r → r.state ≠ .running) → s.arrayFree →
      (s.nextVisit scope 0 = none →
        ∃ t, exec (.census p [b]) s = .next t ∧
          t.census = some ⟨.done, scope, p, 512, BitVec.allOnes 32, 0, 0, 0, 0, false, none⟩ ∧
          t.portM.flags = (if p = .m then s.portM.flags ||| 0x08#8 else s.portM.flags) ∧
          t.portS.flags = (if p = .s then s.portS.flags ||| 0x08#8 else s.portS.flags)) ∧
      (∀ i l pair, s.nextVisit scope 0 = some i → (s.entry i).body = .live l → (s.entry i).pair = some pair →
        ∃ t, exec (.census p [b]) s = .next t ∧
          t.census = some ⟨.running, scope, p, i, BitVec.allOnes 32, 0, 0, 0, 0, false,
            some ⟨i, l.key, l.cls, l.gen, l.length, Loc.num pair l.cell, []⟩⟩ ∧
          t.arb.user = some (.census (Loc.num pair l.cell) 0 i true) ∧ (t.port p).slot = .ready .ok []))

/-- The walk of a census, with nobody else waiting. A header read that ends raises entries_visited by one and leads to
data granule 1; a data read gives its payload and leads to the next granule of the record, and the last one folds the
recorded key, generation, length and class and the payload into the digest, after which the unit takes up the next LIVE
entry of the scope: it records it and its header read is granted. Every read enters the counts and is reported with the
party CENSUS. When no such entry is left the record is DONE with the cursor at 512 and CENSUS_DONE is set on its port.
An entry that is no longer LIVE when its header read would be granted is passed over, here at the end of a READ. That
entries_visited rises, and the digest is folded, at the end of the read is the model's, log entry 14. -/
def Obligations.CensusHeaderReadEnters : Prop :=
  (∀ (s : State) (scope : Option Cls) (cursor : Nat),
    let visits := fun (i : Nat) =>
      i < 512 ∧ cursor ≤ i ∧ ∃ l, (s.entry i).body = .live l ∧ (scope = none ∨ scope = some l.cls)
    (∀ i, s.nextVisit scope cursor = some i ↔ visits i ∧ ∀ j, j < i → ¬visits j) ∧
    (s.nextVisit scope cursor = none ↔ ∀ i, ¬visits i)) ∧
  ∀ (s : State) (r : CensusRun) (us : List Upset) (q : Port), s.census = some r →
    let takesUp := fun (t : State) (c : CensusRun) =>
      (∀ k l pair n, s.nextVisit c.scope c.cursor = some k → s.entry k = ⟨.live l, some pair, n⟩ →
        t.census = some
          { c with
            cursor := k
            current := some ⟨k, l.key, l.cls, l.gen, l.length, Loc.num pair l.cell, []⟩ } ∧
        t.arb.user = some (.census (Loc.num pair l.cell) 0 k true) ∧
        ∀ p, (t.port p).flags.getLsbD 3 = (s.port p).flags.getLsbD 3) ∧
      (s.nextVisit c.scope c.cursor = none →
        t.census = some { c with cursor := 512, current := none, state := .done } ∧ t.arb.user = none ∧
        ∀ p, (t.port p).flags.getLsbD 3 = ((s.port p).flags.getLsbD 3 || decide (p = c.port)))
    (∀ (e : CensusEntry) (g : Nat),
      s.arb = { Arbiter.reset with user := some (.census e.loc g e.entry true), lastPort := q } →
        r.current = some e → 1 ≤ e.length → g ≤ 1 + (e.length - 1) / 32 →
          let o := (s.upsets e.loc us).readGranule e.loc g
          let counted : CensusRun :=
            { r with
              visited := if g = 0 then r.visited + 1 else r.visited
              corrected := if o.1 = .corrected then r.corrected + 1 else r.corrected
              uncorrectable := if o.1 = .uncorrectable then r.uncorrectable + 1 else r.uncorrectable
              unguarded := if o.1 = .unguarded then r.unguarded + 1 else r.unguarded }
          let payload := if g = 0 then e.payload else e.payload ++ bytesAt o.2 0 32
          ∃ t, exec (.censusReadEnd us) s = .next t ∧
            t.capture = s.capture.take ⟨o.1, e.loc, g, some e.entry, .census⟩ ∧
            t.granules = (s.upsets e.loc us).granules ∧ t.marks = (s.upsets e.loc us).marks ∧
            (g < 1 + (e.length - 1) / 32 →
              t.census = some { counted with current := some { e with payload := payload } } ∧
                t.arb.user = some (.census e.loc (g + 1) e.entry true)) ∧
            (g = 1 + (e.length - 1) / 32 →
              takesUp t
                { counted with
                  cursor := r.cursor + 1
                  crc := crc32Bytes r.crc (be32 e.key ++ be16 e.gen.toNat ++
                    [BitVec.ofNat 8 e.length, BitVec.ofNat 8 e.cls.val] ++ payload.take e.length) })) ∧
    ∀ (g : ReadGrant) (i : Nat),
      s.arb = { Arbiter.reset with user := some (.port g), waitCensus := some (.header i), lastPort := q } →
        (∀ l, (s.entry i).body ≠ .live l) → ∃ t, exec (.readComplete us) s = .next t ∧ takesUp t r

/-! ### Reset and the scan (Chapter 9) -/

/-- RESTART: NOT_READY while the part is not ready, DENIED from Port S, deferred with the answer OK while a SETUP job
runs, and else carried out at once: every block but the array takes its reset value and the part is STARTING. Of the
array only the cell of an engine step in progress or suspended may have changed, and a granule program that is abandoned
leaves each data bit of its granule as it was or as the program would have left it. -/
def Obligations.RestartByPortAndWork : Prop :=
  ∀ (s : State) (r : Residue),
    (∀ p, s.takesNotReady p →
      exec (.restart p [] r) s = .next (s.modPort p (fun ps => { ps with slot := .ready .notReady [] }))) ∧
    (s.takes .s → exec (.restart .s [] r) s = .next (s.modPort .s (fun ps => { ps with slot := .ready .denied [] }))) ∧
    (s.takes .m → (∃ j w st, s.work = .setup j w st) →
      exec (.restart .m [] r) s =
        .next { s.modPort .m (fun ps => { ps with slot := .ready .ok [] }) with restartDeferred := true }) ∧
    (s.takes .m → (∀ j w st, s.work ≠ .setup j w st) →
      ∃ t, exec (.restart .m [] r) s = .next t ∧
        t = { State.reset with
          granules := t.granules, marks := t.marks, free := t.free, pending := s.pending } ∧
        ((∀ st, s.arb.user ≠ some (.engine st)) → s.arb.suspended = none →
          t.granules = s.granules ∧ t.marks = s.marks) ∧
        (r.wf = true → ∀ l : Loc,
          (∀ sp, s.arb.suspended = some sp → sp.step.loc ≠ l) →
          (∀ st, s.arb.suspended = none → s.arb.user = some (.engine st) → st.loc ≠ l) →
            (∀ g, g < 8 → t.granule l g = s.granule l g) ∧ t.markField l = s.markField l) ∧
        (r.wf = true → ∀ (l : Loc) (g : Nat) (d : Data) (b : Nat),
          s.arb.suspended = none → s.arb.user = some (.engine (.program l g d)) →
            (t.granule l g).data.getLsbD b = (s.granule l g).data.getLsbD b ∨
              (t.granule l g).data.getLsbD b = ((s.granule l g).data &&& d).getLsbD b))

/-- POWER_ON and RESET_N put every block in its reset value and hold the part; of the array only the cell of an engine
step in progress or suspended may have changed, and a granule program that is abandoned leaves each data bit of its
granule as it was or as the program would have left it. The end of the hold puts the part in STARTING with the scan at
its beginning. -/
def Obligations.ResetHoldsThenStarts : Prop :=
  ∀ (s : State) (r : Residue) (c : Instr),
    ((c = .powerOn r ∨ c = .resetN r) → r.wf = true →
      ∃ t, exec c s = .next t ∧
        t = { State.reset with
          phase := .held, granules := t.granules, marks := t.marks, free := t.free, pending := s.pending } ∧
        (∀ l : Loc,
          (∀ sp, s.arb.suspended = some sp → sp.step.loc ≠ l) →
          (∀ st, s.arb.suspended = none → s.arb.user = some (.engine st) → st.loc ≠ l) →
            (∀ g, g < 8 → t.granule l g = s.granule l g) ∧ t.markField l = s.markField l) ∧
        ∀ (l : Loc) (g : Nat) (d : Data) (b : Nat),
          s.arb.suspended = none → s.arb.user = some (.engine (.program l g d)) →
            (t.granule l g).data.getLsbD b = (s.granule l g).data.getLsbD b ∨
              (t.granule l g).data.getLsbD b = ((s.granule l g).data &&& d).getLsbD b) ∧
    (s.phase = .held →
      exec .resetHoldEnd s =
        .next { s with phase := .starting, scan := Scan.start, capture := ⟨0, 0, none, none, none, none⟩ })

/-- The scan's reads. A read of an erased header leads to the cell's data granule 1; one of any other header classifies
cell A of a pair and leads to cell B. When cell B is classified the pair is resolved by Table 9-2 and R158, and its claim
taken by R159: the entry becomes LIVE or RETIRING on the pair, or of two claims the one that R154 keeps, the other pair
joining the BAD set with one MARK_BAD. That a COMMITTED cell makes its entry LIVE also where a reset came in the commit
mark step of a first commit is the model's, log entry 33. That a claim kept in one comparison has the damaged flag by
that comparison's fallback alone, whatever an earlier one was decided by, is the model's, log entry 22. The last read of
the setup pair fills the setup store from the usable cell that R154 keeps, or with the factory values and SETUP_DAMAGED
on both ports. No read sets another event flag. -/
def Obligations.ScanReadGoesOn : Prop :=
  (∀ (s : State) (pair : Nat),
    s.phase = .starting → s.scan.pos = .cell pair .a → s.scan.now.granule = 0 →
      let r := s.readGranule (Loc.num pair .a) 0
      let report : Report := ⟨r.1, Loc.num pair .a, 0, if pair < 512 then some pair else none, .scan⟩
      (readsErased r = true →
        exec (.scanGranuleReadEnd []) s =
          .next { s with scan := { s.scan with now := ⟨1, s.markField (Loc.num pair .a), true⟩ } }) ∧
      (readsErased r = false →
        ∃ f, f.cls = classify (s.markField (Loc.num pair .a)) (headerOf r).isSome false ∧ f.header = headerOf r ∧
          exec (.scanGranuleReadEnd []) s =
            .next { s with
              capture := s.capture.take report
              scan := { s.scan with pos := .cell pair .b, now := Classifying.start, first := some f } })) ∧
  (∀ (s : State) (pair : Nat) (a : CellFound),
    s.phase = .starting → s.scan.pos = .cell pair .b → s.scan.first = some a →
      let loc := Loc.num pair .b
      let r := s.readGranule loc s.scan.now.granule
      s.scan.now.granule = 0 ∧ r ≠ erasedRead ∨ s.scan.now.granule = 7 →
        let b : CellFound :=
          if s.scan.now.granule = 0 then
            ⟨classify (s.markField loc) (headerOf r).isSome false, headerOf r, (s.markField loc).voted⟩
          else ⟨classify s.scan.now.marks false (s.scan.now.erased && readsErased r), none, s.scan.now.marks.voted⟩
        let found : CellName → CellFound := fun c => match c with | .a => a | .b => b
        let debris := fun (c : CellName) =>
          if (found c).cls = .erased then [] else [RecoveryItem.eraseDebris pair c]
        let gens := fun (h k : Header) => keepsSecond h.gen k.gen
        let unclaimed := fun (items : List RecoveryItem) (bad : Bool) =>
          ∃ t, exec (.scanGranuleReadEnd []) s = .next t ∧ t.phase = .starting ∧
            t.scan.pos = (if pair < 543 then .cell (pair + 1) .a else .done) ∧
            t.entries = s.entries ∧ t.recovery = s.recovery ++ items ∧
            (∀ q, t.isBad q = true ↔ s.isBad q = true ∨ bad = true ∧ q = pair) ∧ ∀ p, t.port p = s.port p
        let claimed := fun (h : Header) (body : Bool → EntryBody) (items : List RecoveryItem) (bad : Bool) =>
          ∃ t, exec (.scanGranuleReadEnd []) s = .next t ∧ t.phase = .starting ∧
            t.scan.pos = (if pair < 543 then .cell (pair + 1) .a else .done) ∧
            (∀ i, i ≠ h.entry → t.entry i = s.entry i) ∧ (∀ p, t.port p = s.port p) ∧
            ((s.entry h.entry).body = .free → t.entry h.entry = ⟨body false, some pair, 0⟩ ∧
              t.recovery = s.recovery ++ items ∧
              (∀ q, t.isBad q = true ↔ s.isBad q = true ∨ bad = true ∧ q = pair)) ∧
            ∀ q g, (s.entry h.entry).pair = some q → (s.entry h.entry).gen? = some g →
              (keepsSecond g h.gen = true →
                t.entry h.entry = ⟨body (fallsBack g h.gen), some pair, 0⟩ ∧ t.isBad q = true ∧
                ∀ item, item ∈ t.recovery ↔
                  item = .markBad q ∨ item ∈ s.recovery ++ items ∧ item.pair ≠ q) ∧
              (keepsSecond g h.gen = false →
                (t.entry h.entry).pair = some q ∧ (t.entry h.entry).gen? = some g ∧ t.isBad pair = true ∧
                (∀ l, (s.entry h.entry).body = .live l →
                  (t.entry h.entry).body = .live { l with damaged := l.damaged || fallsBack g h.gen }) ∧
                ∀ item, item ∈ t.recovery ↔
                  item = .markBad pair ∨ item ∈ s.recovery ++ items ∧ item.pair ≠ pair)
        let live := fun (c : CellName) (h : Header) (fallback : Bool) (items : List RecoveryItem) (bad : Bool) =>
          claimed h (fun doubt => .live
            { key := h.key, cls := h.cls, length := h.length, gen := h.gen, cell := c
              guardMap := (found c).marks.extractLsb' 5 7, fixed := (found c).marks.getLsbD 3
              damaged := fallback || doubt, refreshWanted := false }) items bad
        let retiring := fun (c : CellName) (h : Header) (bad : Bool) =>
          claimed h (fun _ => .retiring h.key h.cls h.gen) [.finishRetire h.entry pair c] bad
        (∀ c h, (found c).cls = .retired → (found c).header = some h →
          (found (otherCell c)).cls ≠ .retired → retiring c h ((found (otherCell c)).cls == .bad)) ∧
        (∀ h k, a.cls = .retired → b.cls = .retired → a.header = some h → b.header = some k →
          (gens h k = false → retiring .a h false) ∧ (gens h k = true → retiring .b k false)) ∧
        (∀ h k, a.cls = .committed → b.cls = .committed → a.header = some h → b.header = some k →
          (gens h k = false → live .a h (fallsBack h.gen k.gen) [.supersede pair .b] false) ∧
          (gens h k = true → live .b k (fallsBack h.gen k.gen) [.supersede pair .a] false)) ∧
        (∀ c h, (found c).cls = .committed → (found c).header = some h →
          ((found (otherCell c)).cls = .erased ∨ (found (otherCell c)).cls = .superseded → live c h false [] false) ∧
          ((found (otherCell c)).cls = .written ∨ (found (otherCell c)).cls = .debris →
            live c h false [.eraseDebris pair (otherCell c)] false) ∧
          ((found (otherCell c)).cls = .bad → live c h false [] true)) ∧
        ((∀ c, (found c).cls ≠ .committed ∧ (found c).cls ≠ .retired ∧ (found c).cls ≠ .bad) →
          unclaimed (debris .a ++ debris .b) false) ∧
        (a.cls = .bad → b.cls = .bad → unclaimed [] true) ∧
        (∀ c, (found c).cls = .bad → (found (otherCell c)).cls ≠ .bad → (found (otherCell c)).cls ≠ .committed →
          (found (otherCell c)).cls ≠ .retired → unclaimed [.markBad pair] true)) ∧
  (∀ (s : State) (fb : SetupFound) (h : Gen),
    s.phase = .starting → s.scan.pos = .setupContents .b → s.scan.setupB = some fb → fb.cls = .committed →
      fb.gen = some h →
        let r := s.readGranule (Loc.setup .b) 1
        let fills := fun (store : SetupStore) (damaged : Bool) =>
          ∃ t, exec (.scanGranuleReadEnd []) s = .next t ∧ t.setup = store ∧ t.scan.pos = .cell 0 .a ∧
            (∀ p, (t.port p).flags = if damaged = true then (s.port p).flags ||| 0x20#8 else (s.port p).flags) ∧
            t.entries = s.entries ∧ t.recovery = s.recovery
        let takes := fun (f : SetupFound) (c : CellName) (g : Gen) (d : Data) =>
          fills ⟨contentsOfBytes (bytesAt d 0 25), g, f.marks.getLsbD 3, some c, g⟩
            (!contentsInRange (bytesAt d 0 25))
        (r.1 ≠ .uncorrectable → (s.scan.setupA = none ∨ ∃ fa, s.scan.setupA = some fa ∧
            (fa.cls ≠ .committed ∨ fa.contents = none)) → takes fb .b h r.2) ∧
        (∀ fa g d, s.scan.setupA = some fa → fa.cls = .committed → fa.gen = some g → fa.contents = some d →
          (r.1 = .uncorrectable → takes fa .a g d) ∧
          (r.1 ≠ .uncorrectable → keepsSecond g h = false → takes fa .a g d) ∧
          (r.1 ≠ .uncorrectable → keepsSecond g h = true → takes fb .b h r.2)) ∧
        (r.1 = .uncorrectable → (∀ fa, s.scan.setupA = some fa → fa.gen = none) →
          fills ⟨⟨Vector.replicate 8 ⟨true, true, true, true, 224, 50⟩, 4⟩, 0, false, none, h⟩ true))

/-- The end of the scan puts the part in READY. The array is unchanged, SPARE_LOW and UNCORRECTABLE are not set by it,
and the spare pool holds only pairs that are not in the BAD set. When all pairs are read, of the LIVE entries with one
key the lowest keeps its claim (R160); every other is FREE, and the items of its pair are one MARK_BAD when the pair is in
the BAD set, ERASE_DEBRIS on its cells found not ERASED when it is not. Each pair that is neither claimed nor in the BAD
set is its own FREE entry's or in the pool, and a FREE entry whose home pair is not its own has pair NONE (R161). That
the entries are listed in canonical form and that the FREE ones are on their home pair, as STARTING has them, are
premises. The ports stay as they are, so a FRAME_ERROR set in STARTING stands in READY: against the last sentence of R172
that is the model's choice, log entry 39. -/
def Obligations.ScanEndEntersReady : Prop :=
  (∀ s : State, s.phase = .starting →
    ∃ t, exec .scanEnd s = .next t ∧ t.phase = .ready ∧ t.granules = s.granules ∧ t.marks = s.marks ∧
      (∀ p, (t.port p).flags.getLsbD 4 = (s.port p).flags.getLsbD 4 ∧
        (t.port p).flags.getLsbD 2 = (s.port p).flags.getLsbD 2) ∧
      (∀ q, q ∈ t.pool → q < 544 ∧ t.isBad q = false) ∧ t.queue = s.queue ∧ t.work = s.work ∧ t.buffers = s.buffers) ∧
  ∀ s : State, s.phase = .starting → s.scan.pos = .done → entriesWf s.entries = true →
    (∀ i, (s.entry i).body = .free → s.entry i = ⟨.free, some i, 0⟩) →
      let doubled := fun (i : Nat) => ∃ l j l', (s.entry i).body = .live l ∧ j < i ∧ (s.entry j).body = .live l' ∧
        l'.key = l.key
      let claims := fun (i p : Nat) => (s.entry i).body ≠ .free ∧ ¬doubled i ∧ (s.entry i).pair = some p
      let freed := fun (i : Nat) => (s.entry i).body = .free ∨ doubled i
      ∃ t, exec .scanEnd s = .next t ∧ t.bad = s.bad ∧ t.setup = s.setup ∧ t.capture = s.capture ∧
        (∀ p, t.port p = s.port p) ∧
        (∀ i, ¬freed i → t.entry i = s.entry i) ∧
        (∀ i, i < 512 → freed i → (s.isBad i = true ∨ ∃ j, claims j i) → t.entry i = ⟨.free, none, 0⟩) ∧
        (∀ i, i < 512 → freed i → s.isBad i = false → (∀ j, ¬claims j i) → t.entry i = ⟨.free, some i, 0⟩) ∧
        (∀ p, p ∈ t.pool ↔ p < 544 ∧ s.isBad p = false ∧ (∀ j, ¬claims j p) ∧ (p < 512 → ¬freed p)) ∧
        t.pool.Pairwise (· < ·) ∧
        ∀ item, item ∈ t.recovery ↔
          item ∈ s.recovery ∧ (∀ i, doubled i → (s.entry i).pair ≠ some item.pair) ∨
          ∃ i p, doubled i ∧ (s.entry i).pair = some p ∧
            (s.isBad p = true ∧ item = .markBad p ∨
              s.isBad p = false ∧ ∃ a b, s.scan.found.find? (fun f => f.1 == p) = some (p, a, b) ∧
                (a ≠ .erased ∧ item = .eraseDebris p .a ∨ b ≠ .erased ∧ item = .eraseDebris p .b))

/-- The successor rule: the successor of the other is kept, else the numerically higher, on equal generations the first.
-/
def Obligations.SuccessorRule : Prop :=
  ∀ g h : Gen, g ≠ 0 → h ≠ 0 →
    let successor := fun (x y : Gen) => y.toNat = x.toNat + 1 ∨ (x = 0xFFFF#16 ∧ y = 1#16)
    (successor g h → keepsSecond g h = true ∧ fallsBack g h = false) ∧
    (successor h g → keepsSecond g h = false ∧ fallsBack g h = false) ∧
    (¬successor g h → ¬successor h g →
      fallsBack g h = true ∧ (keepsSecond g h = true ↔ g.toNat < h.toNat))

/-! ### The engine (Chapters 3 to 5, 10) -/

/-- The oldest job starts. When its start checks pass and the array is free, its first array step is granted: the header
read of the idle cell for a COMMIT on its own pair, and of cell A of the lowest free spare when that pair is NONE or
bad, the read of the first target granule for a PATCH, the retire mark for a RETIRE, the fixed mark for a FIX, the
header read of the idle setup cell for a SETUP. A COMMIT sets out to write its buffer's bytes with the next generation,
1 for a NASCENT entry; without a free spare it completes with NO_SPARE. A PATCH works on its own bytes at its offset in
the current cell, a RETIRE on the entry's pair, which it will bad-mark when it is in the BAD set; a SETUP sets out to
write its contents with the generation after the last one, into the cell that is not current, or into A with a
classification of B to come when none is. That the report of a spare's classification read names no entry is the
model's, log entry 15. -/
def Obligations.JobStartsItsFirstStep : Prop :=
  ∀ (s : State) (j : Job) (rest : List Job),
    s.engineFree → s.recovery = [] → s.queue = j :: rest → firstFailing (s.startChecks j.body) = none →
      let starts := fun (w : Work) (step : EngineStep) => exec .jobStart s = .next (s.atStep w step)
      let holds := fun (payload : List Data) (b : Fin 8) (len : Nat) =>
        ∀ g pos, 1 ≤ g → g ≤ 7 → pos < 32 → byteAt (payload.getD (g - 1) (BitVec.allOnes 256)) pos =
          if 32 * (g - 1) + pos < len then (s.buffers[b]).byte (32 * (g - 1) + pos) else 0xFF#8
      (∀ i k b len g l p n, j.body = .commit i k b len g → s.entry i = ⟨.live l, some p, n⟩ →
        s.isBad p = false → ∃ payload, holds payload b len ∧
          exec .jobStart s = .next (s.atStep
            (.write (some j) ⟨i, l.key, l.cls, nextGen l.gen, len, payload, some (p, l.cell), false, p,
              otherCell l.cell, false, []⟩ (.classify ⟨0, ⟨0, 0, 0⟩, true⟩))
            (.read (Loc.num p (otherCell l.cell)) 0 (some i)))) ∧
      (∀ i k b len g k' c p n, j.body = .commit i k b len g → s.entry i = ⟨.nascent k' c, some p, n⟩ →
        s.isBad p = false → ∃ payload, holds payload b len ∧
          exec .jobStart s = .next (s.atStep
            (.write (some j) ⟨i, k', c, 1, len, payload, none, false, p, .a, false, []⟩
              (.classify ⟨0, ⟨0, 0, 0⟩, true⟩))
            (.read (Loc.num p .a) 0 (some i)))) ∧
      (∀ i k b len g key c, j.body = .commit i k b len g → (s.entry i).key? = some key → (s.entry i).cls? = some c →
        ((s.entry i).pair = none ∨ ∃ p, (s.entry i).pair = some p ∧ s.isBad p = true) →
          (∀ q left, s.pool = q :: left →
            ∃ t payload, exec .jobStart s = .next t ∧ holds payload b len ∧ t.pool = left ∧ t.reserved = some q ∧
              t.work = .write (some j)
                ⟨i, key, c, match (s.entry i).body with | .live l => nextGen l.gen | _ => 1, len, payload,
                  (match (s.entry i).body, (s.entry i).pair with | .live l, some p => some (p, l.cell) | _, _ => none),
                  (s.entry i).isLive && (s.entry i).pair.isSome, q, .a, true, []⟩
                (.classify ⟨0, ⟨0, 0, 0⟩, true⟩) ∧
              t.arb.user = some (.engine (.read (Loc.num q .a) 0 none)) ∧ t.entries = s.entries) ∧
          (s.pool = [] → ∃ t, exec .jobStart s = .next t ∧ jobCompleted s t j rest .noSpare none false ∧
            t.granules = s.granules ∧ t.marks = s.marks)) ∧
      (∀ i k off d g l p n, j.body = .patch i k off d g → s.entry i = ⟨.live l, some p, n⟩ →
        starts (.patch j ⟨i, p, l.cell, off, d, [], [], 0, 0, false⟩ (.read (1 + off / 32)))
          (.read (Loc.num p l.cell) (1 + off / 32) (some i))) ∧
      (∀ i k g l p n, j.body = .retire i k g → s.entry i = ⟨.live l, some p, n⟩ →
        starts (.retire (some j) ⟨i, p, l.cell, s.isBad p⟩ .retireMark) (.mark (Loc.num p l.cell) (markBit .retire))) ∧
      (∀ i k l p n, j.body = .fix i k → s.entry i = ⟨.live l, some p, n⟩ →
        starts (.fix j i) (.mark (Loc.num p l.cell) (markBit .fixed))) ∧
      (∀ c f idle, j.body = .setup c f →
        (s.setup.currentCell = some (otherCell idle) ∨ s.setup.currentCell = none ∧ idle = .a) →
          starts (.setup j ⟨c, f, nextGen s.setup.lastGen, idle, decide (s.setup.currentCell = none)⟩
            (.classify ⟨0, ⟨0, 0, 0⟩, true⟩)) (.read (Loc.setup idle) 0 none))

/-- A job that fails a start check completes at once with that result: it leaves the queue, its record enters its port's
list with no generation and relocated clear, a COMMIT's buffer becomes EMPTY, the jobs count falls, a NASCENT entry of a
COMMIT becomes FREE, and the array is unchanged. The checks of a COMMIT or RETIRE of a LIVE entry, in order, are fixed,
expected generation and class inhibited. -/
def Obligations.FailedStartCheckCompletes : Prop :=
  (∀ (s : State) (j : Job) (rest : List Job) (r : JobResult),
    s.engineFree → s.recovery = [] → s.queue = j :: rest → firstFailing (s.startChecks j.body) = some r →
      ∃ t, exec .jobStart s = .next t ∧ t.queue = rest ∧ t.work = .idle ∧
        (t.port j.port).results = (s.port j.port).results ++
          [⟨j.ticket, j.body.kind, j.body.entry?, j.body.key?, r, none, false⟩] ∧
        (∀ b, j.body.buffer? = some b → t.buffers[b] = ⟨.empty, [], 0⟩) ∧
        (∀ i, j.body.entry? = some i → (t.entry i).jobs = (s.entry i).jobs - 1) ∧
        (∀ i k c p n, j.body.entry? = some i → j.body.isCommit = true → s.entry i = ⟨.nascent k c, some p, n⟩ →
          s.isBad p = false → t.entry i = ⟨.free, some p, n - 1⟩) ∧
        t.granules = s.granules ∧ t.marks = s.marks ∧ t.census = s.census ∧ t.arb = s.arb) ∧
    ∀ (s : State) (i : Nat) (l : Live) (p : Option Nat) (n : Nat) (body : JobBody) (expected : Gen),
      s.entry i = ⟨.live l, p, n⟩ →
        ((∃ k b len, body = .commit i k b len expected) ∨ ∃ k, body = .retire i k expected) →
          firstFailing (s.startChecks body) =
            if l.fixed = true then some .locked
            else if expected ≠ 0 ∧ expected ≠ l.gen then some .staleGen
            else if s.inhibited l.cls = true then some .inhibited
            else none

/-- The head of the refresh list is taken: dropped, with its refresh_wanted flag cleared, when R121 says so; otherwise
its REFRESH begins with the read of data granule 1 of the current cell, and the entry stays listed. A drop leaves the
rest of the list and the overflow flag, but when it leaves the list empty with overflow set: then the list takes the
wanted entries in index order, up to 16, and overflow stays set exactly when more are wanted (R119). Every other entry
and all else stay. That a head on a BAD pair is granted its read although no spare is free is the model's choice, log
entry 37. The reads go on over the data granules of the record; an UNCORRECTABLE one ends the REFRESH, which leaves the
array, the queue and the results as they are, the entry leaving the list. After the last the COMMIT sequence begins with
the data read and the next generation, on the entry's pair, or on the lowest free spare when that pair is in the BAD
set; with no spare free the REFRESH ends. That the report of a spare's classification read names no entry is the
model's, log entry 15. -/
def Obligations.RefreshHeadIsTakenOrDropped : Prop :=
  (∀ (s : State) (i : Nat) (rest : List Nat),
    s.engineFree → s.recovery = [] → s.queue = [] → s.refresh.list = i :: rest → i ∉ rest →
      let drops := fun (dropped : Entry) =>
        ∃ t, exec .refreshStart s = .next t ∧ t.entry i = dropped ∧ (∀ k, k ≠ i → t.entry k = s.entry k) ∧
          (rest ≠ [] ∨ s.refresh.overflow = false → t.refresh = ⟨rest, s.refresh.overflow⟩) ∧
          (∀ wanted : List Nat, rest = [] → s.refresh.overflow = true → wanted.Pairwise (· < ·) →
            (∀ k, k ∈ wanted ↔ k < 512 ∧ ∃ l, (t.entry k).body = .live l ∧ l.refreshWanted = true) →
              t.refresh = ⟨wanted.take 16, decide (16 < wanted.length)⟩) ∧
          t = { s with entries := t.entries, refresh := t.refresh }
      (∀ l p n, s.entry i = ⟨.live l, some p, n⟩ →
        (l.fixed = false → (s.policy l.cls).refreshOk = true → n = 0 →
          exec .refreshStart s =
            .next (s.atStep (.refreshRead i p l.cell 1 []) (.read (Loc.num p l.cell) 1 (some i)))) ∧
        ((l.fixed = true ∨ (s.policy l.cls).refreshOk = false ∨ 0 < n) →
          drops ⟨.live { l with refreshWanted := false }, some p, n⟩)) ∧
      ((∀ l, (s.entry i).body ≠ .live l) → drops (s.entry i))) ∧
  ∀ (s : State) (i pair n : Nat) (l : Live) (g : Nat) (got : List Data) (us : List Upset),
    s.engineAlone (.read (Loc.num pair l.cell) g (some i)) → s.work = .refreshRead i pair l.cell g got →
      s.entry i = ⟨.live l, some pair, n⟩ →
        let r := s.engineReads (Loc.num pair l.cell) g us
        let after := s.readEnded (Loc.num pair l.cell) g (some i) us
        let data := got ++ [r.2]
        let ends :=
          ∃ t, exec (.engineReadEnd us) s = .next t ∧ t.work = .idle ∧ t.arb.user = none ∧ i ∉ t.refresh.list ∧
            t.entry i = ⟨(after.entry i).mapLive (fun x => { x with refreshWanted := false }) |>.body, some pair, n⟩ ∧
            (∀ k, k ≠ i → t.entry k = s.entry k) ∧ t.granules = after.granules ∧ t.marks = after.marks ∧
            t.queue = s.queue ∧ t.bad = s.bad ∧ t.pool = s.pool ∧ t.census = s.census ∧ t.portM = after.portM ∧
            t.portS = after.portS
        let last := 1 + (l.length - 1) / 32
        let writes := fun (payload : List Data) (p : Nat) (cell : CellName) (spare : Bool) =>
          Work.write none ⟨i, l.key, l.cls, nextGen l.gen, l.length, payload, some (pair, l.cell), s.isBad pair, p, cell,
            spare, []⟩ (.classify ⟨0, ⟨0, 0, 0⟩, true⟩)
        let holds := fun (payload : List Data) =>
          ∀ k, payload.getD k (BitVec.allOnes 256) = data.getD k (BitVec.allOnes 256)
        (r.1 = .uncorrectable → ends) ∧
        (r.1 ≠ .uncorrectable → g < last →
          exec (.engineReadEnd us) s = .next
            (after.atStep (.refreshRead i pair l.cell (g + 1) data) (.read (Loc.num pair l.cell) (g + 1) (some i)))) ∧
        (r.1 ≠ .uncorrectable → last ≤ g →
          (s.isBad pair = false → ∃ payload, holds payload ∧ exec (.engineReadEnd us) s = .next
            (after.atStep (writes payload pair (otherCell l.cell) false)
              (.read (Loc.num pair (otherCell l.cell)) 0 (some i)))) ∧
          (s.isBad pair = true →
            (∀ q left, s.pool = q :: left → ∃ t payload, exec (.engineReadEnd us) s = .next t ∧ holds payload ∧
              t.pool = left ∧ t.reserved = some q ∧ t.work = writes payload q .a true ∧
              t.arb.user = some (.engine (.read (Loc.num q .a) 0 none)) ∧ t.entries = after.entries ∧
              t.granules = after.granules ∧ t.marks = after.marks ∧
              ∀ x, (t.port x).flags = if left.length ≤ s.setup.contents.spareThreshold.toNat
                then (after.port x).flags ||| 0x10#8 else (after.port x).flags) ∧
            (s.pool = [] → ends)))

/-- The next recovery item is taken, with the array free: its first array step is granted. A MARK_BAD item of which both
cells carry the bad mark completes without a step; otherwise it marks cell A and then cell B, each when it does not carry
the mark. A SUPERSEDE item completes at the end of its mark step; there as in a MARK_BAD item COMPLETE and FAILED are
alike, and the directory is unchanged. An ERASE_DEBRIS item leaves the list when its erase took; when the
erase failed its pair joins the BAD set and leaves the spare pool, an item on the pair's other cell is dropped, the bad
mark of the failed cell is granted, and then, unless the other cell is the current cell of a LIVE entry, that of the
other cell, a FREE entry whose pair it was taking pair NONE and every other entry staying, of a NASCENT one by the
model's choice, log entry 42. That the item in progress stays in the list until it completes is the model's choice, log
entry 12. -/
def Obligations.RecoveryItemStarts : Prop :=
  (∀ (s : State) (item : RecoveryItem) (rest : List RecoveryItem),
    s.engineFree → s.recovery = item :: rest →
      let starts := fun (w : Work) (step : EngineStep) => exec .recoveryStart s = .next (s.atStep w step)
      (∀ p c, item = .eraseDebris p c → starts (.eraseDebris p c .erase) (.erase (Loc.num p c))) ∧
      (∀ p c, item = .supersede p c → starts (.supersede p c) (.mark (Loc.num p c) (markBit .supersede))) ∧
      (∀ e p c, item = .finishRetire e p c →
        starts (.retire none ⟨e, p, c, s.isBad p⟩ (.classify ⟨0, ⟨0, 0, 0⟩, true⟩))
          (.read (Loc.num p (otherCell c)) 0 (some e))) ∧
      (∀ p, item = .markBad p →
        ((s.markField (Loc.num p .a)).has .bad = false → starts (.markBad p .a) (.mark (Loc.num p .a) (markBit .bad))) ∧
        ((s.markField (Loc.num p .a)).has .bad = true → (s.markField (Loc.num p .b)).has .bad = false →
          starts (.markBad p .b) (.mark (Loc.num p .b) (markBit .bad))) ∧
        ((s.markField (Loc.num p .a)).has .bad = true → (s.markField (Loc.num p .b)).has .bad = true →
          exec .recoveryStart s = .next { s with recovery := rest }))) ∧
  (∀ (s : State) (item : RecoveryItem) (rest : List RecoveryItem) (loc : Loc) (m : BitVec 12) (us : List Upset),
    s.engineAlone (.mark loc m) → s.recovery = item :: rest →
      let after := s.markEnded loc m us
      let completes := exec (.markProgramEnd us) s = .next { after.engineDone with recovery := rest }
      (∀ p c, s.work = .supersede p c → completes) ∧
      ∀ p, (s.work = .markBad p .a →
          ((after.markField (Loc.num p .b)).has .bad = false →
            exec (.markProgramEnd us) s = .next (after.atStep (.markBad p .b) (.mark (Loc.num p .b) (markBit .bad)))) ∧
          ((after.markField (Loc.num p .b)).has .bad = true → completes)) ∧
        (s.work = .markBad p .b → completes)) ∧
  ∀ (s : State) (p : Nat) (c : CellName) (rest : List RecoveryItem) (us : List Upset),
    s.recovery = .eraseDebris p c :: rest →
      let loc := Loc.num p c
      let other := Loc.num p (otherCell c)
      let current := ∃ i, i < 512 ∧ ∃ l n, s.entry i = ⟨.live l, some p, n⟩ ∧ l.cell = otherCell c
      (s.engineAlone (.erase loc) → s.work = .eraseDebris p c .erase →
        let after := s.eraseEnded loc us
        (after.cellErased loc → exec (.cellEraseEnd us) s = .next { after.engineDone with recovery := rest }) ∧
        (¬after.cellErased loc →
          ∃ t, exec (.cellEraseEnd us) s = .next t ∧
            (∀ q, t.isBad q = true ↔ s.isBad q = true ∨ q = p) ∧ (∀ q, q ∈ t.pool ↔ q ∈ s.pool ∧ q ≠ p) ∧
            (∀ q, (t.port q).flags = (s.port q).flags) ∧
            t.recovery = s.recovery.filter (fun x =>
              x != .eraseDebris p (otherCell c) && x != .supersede p (otherCell c)) ∧
            t.work = .eraseDebris p c .badFailed ∧ t.arb.user = some (.engine (.mark loc (markBit .bad))) ∧
            (∀ i n, ¬current → i < 512 → s.entry i = ⟨.free, some p, n⟩ →
              (∀ k, k ≠ i → (s.entry k).pair ≠ some p) → t.entry i = ⟨.free, none, n⟩) ∧
            (∀ i, current ∨ (s.entry i).body ≠ .free ∨ (s.entry i).pair ≠ some p → t.entry i = s.entry i))) ∧
      (s.engineAlone (.mark loc (markBit .bad)) → s.work = .eraseDebris p c .badFailed →
        let after := s.markEnded loc (markBit .bad) us
        (current → exec (.markProgramEnd us) s = .next { after.engineDone with recovery := rest }) ∧
        (¬current → exec (.markProgramEnd us) s =
          .next (after.atStep (.eraseDebris p c .badOther) (.mark other (markBit .bad))))) ∧
      (s.engineAlone (.mark other (markBit .bad)) → s.work = .eraseDebris p c .badOther →
        exec (.markProgramEnd us) s =
          .next { (s.markEnded other (markBit .bad) us).engineDone with recovery := rest })

/-- The last verify read of a COMMIT or REFRESH ends. When it is CLEAN and equals the content programmed, the commit
mark is granted next. When it is not, the pair joins the BAD set and the job goes to cell A of the lowest free spare,
which it classifies. -/
def Obligations.VerifyDecidesCommitMark : Prop :=
  ∀ (s : State) (job : Option Job) (w : WriteJob) (g : Nat),
    s.engineAlone (.read w.loc g (some w.entry)) → s.work = .write job w (.verify g) → w.following g = none →
      (s.readGranule w.loc g = (.clean, w.content g) →
        exec (.engineReadEnd []) s =
          .next { s with
            work := .write job w .commitMark
            arb := { s.arb with user := some (.engine (.mark w.loc (markBit .commit))), suspCount := 0 } }) ∧
      (∀ p rest, s.readGranule w.loc g ≠ (.clean, w.content g) → s.pool = p :: rest →
        ∃ t, exec (.engineReadEnd []) s = .next t ∧ t.isBad w.pair = true ∧ t.pool = rest ∧ t.reserved = some p ∧
          t.work = .write job { w with failed := w.failed ++ [(w.pair, w.cell)], pair := p, cell := .a, spare := true }
            (.classify ⟨0, MarkField.erased, true⟩) ∧
          t.arb.user = some (.engine (.read (Loc.num p .a) 0 none)) ∧
          (rest.length ≤ s.setup.contents.spareThreshold.toNat →
            ∀ q, (t.port q).flags.getLsbD 4 = true) ∧
          t.granules = s.granules ∧ t.marks = s.marks)

/-- The ends of the engine's array steps. A granule program leaves the bitwise AND of the old and the new bytes in its
granule; a mark program programs every copy of every mark named; a cell erase leaves every granule 32 bytes of FFH, read
CLEAN, and no mark copy programmed. Every other granule and mark field reads as before. -/
def Obligations.ArrayStepsChangeTheirPlace : Prop :=
  ∀ (s : State) (l : Loc),
    (∀ (g : Nat) (d : Data), g < 8 → s.arb.user = some (.engine (.program l g d)) →
      ∃ t, exec (.granuleProgramEnd []) s = .next t ∧
        (∀ pos, byteAt (t.granule l g).data pos = byteAt (s.granule l g).data pos &&& byteAt d pos) ∧
        (∀ l' g' pos, g' < 8 → (l', g') ≠ (l, g) →
          byteAt (t.granule l' g').data pos = byteAt (s.granule l' g').data pos) ∧
        ∀ l', t.markField l' = s.markField l') ∧
    (∀ m : BitVec 12, s.arb.user = some (.engine (.mark l m)) →
      ∃ t, exec (.markProgramEnd []) s = .next t ∧
        t.markField l =
          ⟨(s.markField l).copy0 ||| m, (s.markField l).copy1 ||| m, (s.markField l).copy2 ||| m⟩ ∧
        (∀ l', l' ≠ l → t.markField l' = s.markField l') ∧
        ∀ l' g pos, byteAt (t.granule l' g).data pos = byteAt (s.granule l' g).data pos) ∧
    (s.arb.user = some (.engine (.erase l)) →
      ∃ t, exec (.cellEraseEnd []) s = .next t ∧
        (∀ g, g < 8 → t.readGranule l g = (.clean, BitVec.allOnes 256)) ∧ t.markField l = ⟨0, 0, 0⟩ ∧
        ∀ l' g pos, l' ≠ l → g < 8 →
          byteAt (t.granule l' g).data pos = byteAt (s.granule l' g).data pos ∧ t.markField l' = s.markField l')

/-- The directory switch, when the commit mark of a COMMIT or REFRESH took. The entry becomes LIVE on the pair and cell
written with the new generation and length, guard map all GUARDED, damaged and refresh_wanted clear, and leaves the
refresh list. On the pair a LIVE entry has, the supersede mark of the old cell is granted next. A NASCENT entry becomes
LIVE for the first time, and the first COMMIT, which has no old cell, completes at once with DONE. On a spare, the spare
is the entry's pair and no longer reserved, and the bad marks of the failed pairs come next, those of a stranded entry's
old pair first. A NASCENT entry has the bad marks of the pairs that failed in the job alone, and completes at once when
none did: that a pair of it that was BAD at the start is not marked is the model's, log entry 41. -/
def Obligations.CommitMarkSwitchesDirectory : Prop :=
  ∀ (s : State) (job : Option Job) (w : WriteJob) (n : Nat) (us : List Upset),
    s.engineAlone (.mark w.loc (markBit .commit)) → s.work = .write job w .commitMark →
      let after := s.markEnded w.loc (markBit .commit) us
      after.marksStand w.loc (markBit .commit) →
        let record : Bool → EntryBody := fun isFixed =>
          .live ⟨w.key, w.cls, w.length, w.newGen, w.cell, 0, isFixed, false, false⟩
        let switches := fun (t : State) => exec (.markProgramEnd us) s = .next t ∧
          (∀ i, i ≠ w.entry → t.entry i = s.entry i) ∧ w.entry ∉ t.refresh.list ∧ t.granules = after.granules ∧
          t.marks = after.marks ∧ t.bad = s.bad
        (∀ l, w.spare = false → s.entry w.entry = ⟨.live l, some w.pair, n⟩ → w.old = some (w.pair, l.cell) →
          ∃ t, switches t ∧ t.entry w.entry = ⟨record l.fixed, some w.pair, n⟩ ∧
            t.arb.user = some (.engine (.mark (Loc.num w.pair l.cell) (markBit .supersede))) ∧
            t.work = .write job w .supersede ∧ t.reserved = s.reserved ∧ t.queue = s.queue) ∧
        (∀ k c j rest b len g, w.spare = false → s.entry w.entry = ⟨.nascent k c, some w.pair, n⟩ → w.old = none →
          w.failed = [] → job = some j → s.queue = j :: rest → j.body = .commit w.entry w.key b len g →
          ∃ t, switches t ∧ t.entry w.entry = ⟨record false, some w.pair, n - 1⟩ ∧
            jobCompleted s t j rest .done (some w.newGen) false ∧ censusTold s t w.cls) ∧
        (w.spare = true →
          let failedCells := (w.failed.map (fun f => [(f.1, CellName.a), (f.1, .b)])).flatten
          let marks := fun (isFixed : Bool) (p : Nat) (c : CellName) (others : List (Nat × CellName)) =>
            ∃ t, switches t ∧ t.entry w.entry = ⟨record isFixed, some w.pair, n⟩ ∧ t.reserved = none ∧
              t.work = .write job w (.badMarks others) ∧
              t.arb.user = some (.engine (.mark (Loc.num p c) (markBit .bad))) ∧ t.queue = s.queue
          (∀ l old, s.entry w.entry = ⟨.live l, some old, n⟩ → w.old = some (old, l.cell) →
            (w.stranded = true → marks l.fixed old .a ((old, .b) :: failedCells)) ∧
            ∀ p c others, w.stranded = false → failedCells = (p, c) :: others → marks l.fixed p c others) ∧
          (∀ k c pair, s.entry w.entry = ⟨.nascent k c, pair, n⟩ → w.old = none →
            (∀ p cell others, failedCells = (p, cell) :: others → marks false p cell others) ∧
            ∀ j rest b len g, w.failed = [] → w.stranded = false → job = some j → s.queue = j :: rest →
              j.body = .commit w.entry w.key b len g →
              ∃ t, switches t ∧ t.entry w.entry = ⟨record false, some w.pair, n - 1⟩ ∧ t.reserved = none ∧
                jobCompleted s t j rest .done (some w.newGen) false ∧ censusTold s t w.cls))

/-- The sequence of Figure 3-1, for a COMMIT and a REFRESH and for every set of bits that change of themselves: the
classification of the cell to write, its erase, the header and data granules programmed in ascending order, their
verify reads, the failures of the pair at the erase, a verify read or the commit mark, and after the switch the
supersede mark or the bad marks, which are tolerated when they fail. At the end the COMMIT completes with DONE and the
new generation, or with NO_SPARE; a REFRESH ends without a result. The header programmed is read as the record's. That
the report of a spare's classification read names no entry, and that of its verify read the job's, is the model's, log
entry 15. -/
def Obligations.WriteSequenceRuns : Prop :=
  (∀ (w : WriteJob) (g k : Nat), w.following g = some k ↔
    g < k ∧ 1 ≤ k ∧ k ≤ 1 + (w.length - 1) / 32 ∧ w.granule k ≠ BitVec.allOnes 256 ∧
      ∀ k', g < k' → k' < k → 1 ≤ k' → w.granule k' = BitVec.allOnes 256) ∧
  (∀ w : WriteJob, keyValid w.key = true → w.entry ≤ 511 → w.newGen ≠ 0 → 1 ≤ w.length → w.length ≤ 224 →
    headerOf (.clean, w.header) = some ⟨w.key, w.entry, w.cls, w.newGen, w.length⟩) ∧
  ∀ (s : State) (job : Option Job) (w : WriteJob),
    let at' := fun (step : WriteStep) => Work.write job w step
    let verifies := fun (g : Nat) => ((at' (.verify g), .read w.loc g (some w.entry)) : Work × EngineStep)
    let programs := fun (after : Nat) => match w.following after with
      | some k => ((at' (.data k), .program w.loc k (w.granule k)) : Work × EngineStep)
      | none => verifies 0
    let header : Work × EngineStep := (at' .header, .program w.loc 0 w.header)
    classificationRuns s w.loc (if w.spare = true then none else some w.entry) (fun c => at' (.classify c)) header
      (at' .erase, .erase w.loc) ∧
    ∀ us : List Upset,
      (s.engineAlone (.erase w.loc) → s.work = at' .erase →
        let after := s.eraseEnded w.loc us
        (after.cellErased w.loc → exec (.cellEraseEnd us) s = .next (after.atStep header.1 header.2)) ∧
        (¬after.cellErased w.loc → pairFailed (.cellEraseEnd us) s after job w)) ∧
      (∀ d, s.engineAlone (.program w.loc 0 d) → s.work = at' .header →
        exec (.granuleProgramEnd us) s =
          .next ((s.programEnded w.loc 0 d us).atStep (programs 0).1 (programs 0).2)) ∧
      (∀ g d, s.engineAlone (.program w.loc g d) → s.work = at' (.data g) →
        exec (.granuleProgramEnd us) s =
          .next ((s.programEnded w.loc g d us).atStep (programs g).1 (programs g).2)) ∧
      (∀ g, s.engineAlone (.read w.loc g (some w.entry)) → s.work = at' (.verify g) →
        let after := s.readEnded w.loc g (some w.entry) us
        (∀ k, s.engineReads w.loc g us = (.clean, w.content g) → w.following g = some k →
          exec (.engineReadEnd us) s = .next (after.atStep (verifies k).1 (verifies k).2)) ∧
        (s.engineReads w.loc g us = (.clean, w.content g) → w.following g = none →
          exec (.engineReadEnd us) s =
            .next (after.atStep (at' .commitMark) (.mark w.loc (markBit .commit)))) ∧
        (s.engineReads w.loc g us ≠ (.clean, w.content g) → pairFailed (.engineReadEnd us) s after job w)) ∧
      (s.engineAlone (.mark w.loc (markBit .commit)) → s.work = at' .commitMark →
        let after := s.markEnded w.loc (markBit .commit) us
        ¬after.marksStand w.loc (markBit .commit) → pairFailed (.markProgramEnd us) s after job w) ∧
      ∀ (loc : Loc) (m : BitVec 12), s.engineAlone (.mark loc m) →
        let after := s.markEnded loc m us
        (∀ p c others, s.work = at' (.badMarks ((p, c) :: others)) →
          exec (.markProgramEnd us) s =
            .next (after.atStep (at' (.badMarks others)) (.mark (Loc.num p c) (markBit .bad)))) ∧
        (∀ p c others, s.work = at' (.exhaustMarks ((p, c) :: others)) →
          exec (.markProgramEnd us) s =
            .next (after.atStep (at' (.exhaustMarks others)) (.mark (Loc.num p c) (markBit .bad)))) ∧
        (∀ j rest k b len g l, s.work = at' .supersede ∨ s.work = at' (.badMarks []) → job = some j →
          s.queue = j :: rest → j.body = .commit w.entry k b len g → (s.entry w.entry).body = .live l →
          ∃ t, exec (.markProgramEnd us) s = .next t ∧
            jobCompleted s t j rest .done (some w.newGen)
              (decide (w.failed ≠ [] ∨ w.stranded = true ∧ w.spare = true)) ∧
            t.entry w.entry = { s.entry w.entry with jobs := (s.entry w.entry).jobs - 1 } ∧ censusTold s t w.cls ∧
            t.granules = after.granules ∧ t.marks = after.marks) ∧
        (s.work = at' .supersede ∨ s.work = at' (.badMarks []) → job = none →
          ∃ t, exec (.markProgramEnd us) s = .next t ∧ censusTold s t w.cls ∧
            t = { after.engineDone with census := t.census }) ∧
        (∀ j rest k b len g, s.work = at' (.exhaustMarks []) → job = some j → s.queue = j :: rest →
          j.body = .commit w.entry k b len g →
          ∃ t, exec (.markProgramEnd us) s = .next t ∧ jobCompleted s t j rest .noSpare none false ∧
            (∀ l p n, s.entry w.entry = ⟨.live l, p, n⟩ → t.entry w.entry = ⟨.live l, p, n - 1⟩) ∧
            (∀ key c p n, s.entry w.entry = ⟨.nascent key c, p, n⟩ →
              ((∃ q, p = some q ∧ s.isBad q = true) → t.entry w.entry = ⟨.free, none, n - 1⟩) ∧
              ((∀ q, p = some q → s.isBad q = false) → t.entry w.entry = ⟨.free, p, n - 1⟩)) ∧
            t.census = s.census) ∧
        (s.work = at' (.exhaustMarks []) → job = none →
          ∃ t, exec (.markProgramEnd us) s = .next t ∧ t.work = .idle ∧ t.queue = s.queue ∧
            w.entry ∉ t.refresh.list ∧ t.portM = s.portM ∧ t.portS = s.portS ∧ t.census = s.census)

/-- The sequence of Figure 4-1, for every number of target granules and every set of bits that change of themselves. The
target granules are read in ascending order; an UNCORRECTABLE one completes the job with DAMAGED. After the last, a patch
byte with a 1 where its granule has a 0 completes the job with NOT_CLEAR, a patch that changes nothing with DONE. Of
the changed granules, those that held programmed data and did not read UNGUARDED, a CORRECTED one among them, have their
patch-map bits programmed in one mark program; when it fails the job completes with DAMAGED. Then each changed granule is
programmed with its new content and each is read back: the job completes with DONE when all pass, and with DAMAGED at
the first that fails. At the completion the guard map is UNGUARDED for the bits the job programmed that read set,
DAMAGED sets the damaged flag, and the census unit is told when a program step was made. That DAMAGED clears
refresh_wanted too is the model's, log entry 31. -/
def Obligations.PatchActsByContent : Prop :=
  (∀ (cur : Data) (g offset pos : Nat) (data : Bytes), pos < 32 →
    let x := 32 * (g - 1) + pos
    byteAt (patchedGranule cur g offset data) pos =
      if offset ≤ x ∧ x < offset + data.length then data.getD (x - offset) 0 else byteAt cur pos) ∧
  ∀ (s : State) (j : Job) (rest : List Job) (w : PatchJob) (k : Key) (off : Nat) (d : Bytes) (gen : Gen) (l₀ : Live)
      (p : Option Nat) (n : Nat) (us : List Upset),
    s.queue = j :: rest → j.body = .patch w.entry k off d gen → s.entry w.entry = ⟨.live l₀, p, n⟩ →
      let goesTo := fun (c : Instr) (after : State) (w' : PatchJob) (step : PatchStep) (est : EngineStep) =>
        exec c s = .next (after.atStep (.patch j w' step) est)
      let completes := fun (c : Instr) (after : State) (marked : BitVec 7) (programmed : Bool) (result : JobResult) =>
        ∃ t, exec c s = .next t ∧ jobCompleted s t j rest result none false ∧ t.granules = after.granules ∧
          t.marks = after.marks ∧ t.bad = s.bad ∧ t.pool = s.pool ∧ (∀ i, i ≠ w.entry → t.entry i = s.entry i) ∧
          (∀ l, (after.entry w.entry).body = .live l →
            t.entry w.entry =
              ⟨.live { l with
                guardMap := l.guardMap ||| marked
                damaged := l.damaged || decide (result = .damaged)
                refreshWanted := l.refreshWanted && decide (result ≠ .damaged) }, p, n - 1⟩) ∧
          (result = .damaged → w.entry ∉ t.refresh.list) ∧ (result ≠ .damaged → t.refresh = after.refresh) ∧
          (∀ q, (t.port q).flags = (after.port q).flags) ∧
          (programmed = true → censusTold s t l₀.cls) ∧ (programmed = false → t.census = s.census)
      (∀ g, s.engineAlone (.read w.loc g (some w.entry)) → s.work = .patch j w (.read g) →
        let r := s.engineReads w.loc g us
        let after := s.readEnded w.loc g (some w.entry) us
        let reads := w.reads ++ [(g, r)]
        let last := 1 + (w.offset + w.data.length - 1) / 32
        let new := fun (x : Nat × Outcome × Data) => patchedGranule x.2.2 x.1 w.offset w.data
        let clear := ∀ x, x ∈ reads → new x &&& ~~~x.2.2 = 0
        let changes : List Changed :=
          (reads.filter (fun x => decide (new x ≠ x.2.2))).map (fun x => ⟨x.1, new x, decide (x.2 = erasedRead)⟩)
        (r.1 = .uncorrectable → completes (.engineReadEnd us) after w.marked w.programmed .damaged) ∧
        (r.1 ≠ .uncorrectable → 1 + w.offset / 32 ≤ g → g < last →
          goesTo (.engineReadEnd us) after { w with reads := reads } (.read (g + 1))
            (.read w.loc (g + 1) (some w.entry))) ∧
        (r.1 ≠ .uncorrectable → last ≤ g →
          (¬clear → completes (.engineReadEnd us) after w.marked w.programmed .notClear) ∧
          (clear → changes = [] → completes (.engineReadEnd us) after w.marked w.programmed .done) ∧
          (clear → (∀ x, x ∈ reads → 1 ≤ x.1 ∧ x.1 ≤ 7) → ∀ c others, changes = c :: others →
            ∃ m : BitVec 7,
              (∀ b, m.getLsbD b = true ↔
                ∃ x, x ∈ reads ∧ x.1 = b + 1 ∧ new x ≠ x.2.2 ∧ x.2 ≠ erasedRead ∧ x.2.1 ≠ .unguarded) ∧
              let w' := { w with reads := reads, changed := changes, marking := m, programmed := true }
              (m ≠ 0 → goesTo (.engineReadEnd us) after w' .mark (.mark w.loc (m.setWidth 12 <<< 5))) ∧
              (m = 0 → goesTo (.engineReadEnd us) after w' (.program others) (.program w.loc c.granule c.new))))) ∧
      (∀ m, s.engineAlone (.mark w.loc m) → s.work = .patch j w .mark →
        let after := s.markEnded w.loc m us
        let w' := { w with marked := w.marking &&& (after.markField w.loc).voted.extractLsb' 5 7 }
        (¬after.marksStand w.loc m → completes (.markProgramEnd us) after w'.marked w.programmed .damaged) ∧
        ∀ c others, after.marksStand w.loc m → w.changed = c :: others →
          goesTo (.markProgramEnd us) after { w' with programmed := true } (.program others)
            (.program w.loc c.granule c.new)) ∧
      (∀ g x left, s.engineAlone (.program w.loc g x) → s.work = .patch j w (.program left) →
        let after := s.programEnded w.loc g x us
        (∀ c others, left = c :: others →
          goesTo (.granuleProgramEnd us) after { w with programmed := true } (.program others)
            (.program w.loc c.granule c.new)) ∧
        ∀ c others, left = [] → w.changed = c :: others →
          goesTo (.granuleProgramEnd us) after w (.verify c others) (.read w.loc c.granule (some w.entry))) ∧
      ∀ g c left, s.engineAlone (.read w.loc g (some w.entry)) → s.work = .patch j w (.verify c left) →
        let r := s.engineReads w.loc g us
        let after := s.readEnded w.loc g (some w.entry) us
        let passes := (c.first = true → r = (.clean, c.new)) ∧ (c.first = false → r.2 = c.new)
        (¬passes → completes (.engineReadEnd us) after w.marked w.programmed .damaged) ∧
        (passes → left = [] → completes (.engineReadEnd us) after w.marked w.programmed .done) ∧
        ∀ c' others, passes → left = c' :: others →
          goesTo (.engineReadEnd us) after w (.verify c' others) (.read w.loc c'.granule (some w.entry))

/-- The sequence of Figure 5-1, for a RETIRE and a FINISH_RETIRE item and for every set of bits that change of
themselves, and the end of a FIX. The end of the retire mark, COMPLETE or FAILED, makes the entry RETIRING with its key,
class and generation; the other cell is classified and erased, then the retired cell; a failed erase puts the pair in
the BAD set and bad-marks its cell at once; the pair is bad-marked when an erase failed or the pair was in the BAD set.
At the end the entry is FREE, with pair NONE when the pair is in the BAD set, and every slot on it is EMPTY; a RETIRE
completes with DONE and tells the census unit, an item leaves the list. The end of a FIX's mark, COMPLETE or FAILED,
makes the entry fixed and completes it with DONE. That a FINISH_RETIRE item stays in the recovery list until it completes
is the model's choice, log entry 12. -/
def Obligations.RetireAndFixSequencesRun : Prop :=
  (∀ (s : State) (job : Option Job) (w : RetireJob),
    let at' := fun (step : RetireStep) => Work.retire job w step
    let failed : RetireJob := { w with markPair := true }
    let erasesRetired : Work × EngineStep := (at' .eraseRetired, .erase w.retired)
    (∀ (l : Live) (p : Option Nat) (n : Nat) (us : List Upset),
      s.engineAlone (.mark w.retired (markBit .retire)) → s.work = at' .retireMark → s.entry w.entry = ⟨.live l, p, n⟩ →
        let after := s.markEnded w.retired (markBit .retire) us
        ∃ t, exec (.markProgramEnd us) s = .next t ∧ t.entry w.entry = ⟨.retiring l.key l.cls l.gen, p, n⟩ ∧
          (∀ i, i ≠ w.entry → t.entry i = s.entry i) ∧ w.entry ∉ t.refresh.list ∧
          t.work = at' (.classify ⟨0, ⟨0, 0, 0⟩, true⟩) ∧
          t.arb.user = some (.engine (.read w.other 0 (some w.entry))) ∧ t.queue = s.queue ∧ t.holds = s.holds ∧
          t.granules = after.granules ∧ t.marks = after.marks) ∧
    classificationRuns s w.other (some w.entry) (fun c => at' (.classify c)) erasesRetired
      (at' .eraseOther, .erase w.other) ∧
    ∀ us : List Upset,
      let completes := fun (c : Instr) (after : State) =>
        (job = none ∨ ∃ j rest k g, job = some j ∧ s.queue = j :: rest ∧ j.body = .retire w.entry k g) →
        ∃ t, exec c s = .next t ∧ t.granules = after.granules ∧ t.marks = after.marks ∧ t.bad = s.bad ∧
          (t.entry w.entry).body = .free ∧
          ((∃ q, (s.entry w.entry).pair = some q ∧ s.isBad q = true) → (t.entry w.entry).pair = none) ∧
          ((∀ q, (s.entry w.entry).pair = some q → s.isBad q = false) →
            (t.entry w.entry).pair = (s.entry w.entry).pair) ∧
          (∀ i, i ≠ w.entry → t.entry i = s.entry i) ∧
          (∀ slot : Fin 8, ((s.holds[slot]).entry? = some w.entry → t.holds[slot] = .empty) ∧
            ((s.holds[slot]).entry? ≠ some w.entry → t.holds[slot] = s.holds[slot])) ∧
          (∀ j rest cls, job = some j → s.queue = j :: rest → (s.entry w.entry).cls? = some cls →
            jobCompleted s t j rest .done none false ∧ censusTold s t cls ∧
              (t.entry w.entry).jobs = (s.entry w.entry).jobs - 1) ∧
          (job = none → t.work = .idle ∧ t.recovery = s.recovery.drop 1 ∧ t.queue = s.queue ∧ t.portM = s.portM ∧
            t.portS = s.portS ∧ t.census = s.census ∧ (t.entry w.entry).jobs = (s.entry w.entry).jobs)
      (s.engineAlone (.erase w.other) → s.work = at' .eraseOther →
        let after := s.eraseEnded w.other us
        (after.cellErased w.other →
          exec (.cellEraseEnd us) s = .next (after.atStep erasesRetired.1 erasesRetired.2)) ∧
        (¬after.cellErased w.other →
          exec (.cellEraseEnd us) s = .next ({ after with bad := insertNum w.pair s.bad }.atStep
            (.retire job failed .badOther) (.mark w.other (markBit .bad))))) ∧
      (s.engineAlone (.erase w.retired) → s.work = at' .eraseRetired →
        let after := s.eraseEnded w.retired us
        (after.cellErased w.retired → w.markPair = true →
          exec (.cellEraseEnd us) s =
            .next (after.atStep (at' .badA) (.mark (Loc.num w.pair .a) (markBit .bad)))) ∧
        (after.cellErased w.retired → w.markPair = false → completes (.cellEraseEnd us) after) ∧
        (¬after.cellErased w.retired →
          exec (.cellEraseEnd us) s = .next ({ after with bad := insertNum w.pair s.bad }.atStep
            (.retire job failed .badRetired) (.mark w.retired (markBit .bad))))) ∧
      ∀ (loc : Loc) (m : BitVec 12), s.engineAlone (.mark loc m) →
        let after := s.markEnded loc m us
        let goesTo := fun (p : Work × EngineStep) => exec (.markProgramEnd us) s = .next (after.atStep p.1 p.2)
        (s.work = at' .badOther → goesTo erasesRetired) ∧
        (s.work = at' .badRetired → w.markPair = true →
          goesTo (at' .badA, .mark (Loc.num w.pair .a) (markBit .bad))) ∧
        (s.work = at' .badA → goesTo (at' .badB, .mark (Loc.num w.pair .b) (markBit .bad))) ∧
        (s.work = at' .badB → completes (.markProgramEnd us) after)) ∧
  ∀ (s : State) (j : Job) (rest : List Job) (i : Nat) (k : Key) (l : Live) (p : Option Nat) (n : Nat) (loc : Loc)
      (m : BitVec 12) (us : List Upset),
    s.engineAlone (.mark loc m) → s.work = .fix j i → s.queue = j :: rest → j.body = .fix i k →
      s.entry i = ⟨.live l, p, n⟩ →
        ∃ t, exec (.markProgramEnd us) s = .next t ∧ jobCompleted s t j rest .done none false ∧
          t.entry i = ⟨.live { l with fixed := true, refreshWanted := false }, p, n - 1⟩ ∧ i ∉ t.refresh.list ∧
          (∀ x, x ≠ i → t.entry x = s.entry x) ∧ t.census = s.census ∧ t.bad = s.bad

/-- The sequence of Figure 10-1, for every set of bits that change of themselves. The idle cell is classified and erased,
header and contents are programmed and verified, the commit mark and, when asked, the fixed mark are programmed. At the
switch the new record comes into force with its generation, the cell written becomes the current setup cell, and the old
cell is superseded next, or classified first when there was no current cell: a COMMITTED one is then superseded, any
other is left. The end of the supersede mark, or of that classification, completes the job with DONE and the new
generation. A failed erase, a verify read that differs or a failed commit mark is a storage
failure: the new record comes into force, the current setup cell stays, SETUP_DAMAGED is set on both ports, and the job
completes with DONE. A RESTART deferred behind the job is carried out at its completion. -/
def Obligations.SetupSwitchInstallsRecord : Prop :=
  ∀ (s : State) (j : Job) (rest : List Job) (w : SetupJob),
    let at' := fun (step : SetupStep) => Work.setup j w step
    let content := fun (g : Nat) => if g = 0 then setupHeaderData w.gen else dataOfBytes (bytesOfContents w.contents)
    let header : Work × EngineStep := (at' .header, .program w.loc 0 (content 0))
    classificationRuns s w.loc none (fun c => at' (.classify c)) header (at' .erase, .erase w.loc) ∧
    (s.queue = j :: rest → j.body.isSetup = true → ∀ us : List Upset,
      let restarts := fun (t after : State) =>
        t = { State.reset with
          granules := after.granules, marks := after.marks, free := after.free, pending := s.pending }
      let storageFails := fun (c : Instr) (after : State) =>
        ∃ t, exec c s = .next t ∧ (s.restartDeferred = true → restarts t after) ∧
          (s.restartDeferred = false → jobCompleted s t j rest .done (some w.gen) false ∧
            t.setup = ⟨w.contents, w.gen, s.setup.fixed || w.fix, s.setup.currentCell, w.gen⟩ ∧
            (∀ q, (t.port q).flags = (after.port q).flags ||| 0x20#8) ∧
            t.granules = after.granules ∧ t.marks = after.marks)
      let completes := fun (c : Instr) (after : State) =>
        ∃ t, exec c s = .next t ∧ (s.restartDeferred = true → restarts t after) ∧
          (s.restartDeferred = false → jobCompleted s t j rest .done (some w.gen) false ∧ t.setup = s.setup ∧
            (∀ q, (t.port q).flags = (after.port q).flags) ∧ t.granules = after.granules ∧ t.marks = after.marks)
      let installs := fun (after : State) =>
        exec (.markProgramEnd us) s = .next
          ({ after with setup := ⟨w.contents, w.gen, s.setup.fixed || w.fix, some w.idle, w.gen⟩ }.atStep
            (if w.wasNone = true then at' (.classifyOld ⟨0, ⟨0, 0, 0⟩, true⟩) else at' .supersede)
            (if w.wasNone = true then .read (Loc.setup (otherCell w.idle)) 0 none
              else .mark (Loc.setup (otherCell w.idle)) (markBit .supersede)))
      (s.engineAlone (.erase w.loc) → s.work = at' .erase →
        let after := s.eraseEnded w.loc us
        (after.cellErased w.loc → exec (.cellEraseEnd us) s = .next (after.atStep header.1 header.2)) ∧
        (¬after.cellErased w.loc → storageFails (.cellEraseEnd us) after)) ∧
      (∀ d, s.engineAlone (.program w.loc 0 d) → s.work = at' .header →
        exec (.granuleProgramEnd us) s =
          .next ((s.programEnded w.loc 0 d us).atStep (at' .data) (.program w.loc 1 (content 1)))) ∧
      (∀ d, s.engineAlone (.program w.loc 1 d) → s.work = at' .data →
        exec (.granuleProgramEnd us) s =
          .next ((s.programEnded w.loc 1 d us).atStep (at' (.verify 0)) (.read w.loc 0 none))) ∧
      (∀ g, g ≤ 1 → s.engineAlone (.read w.loc g none) → s.work = at' (.verify g) →
        let after := s.readEnded w.loc g none us
        (s.engineReads w.loc g us = (.clean, content g) →
          (g = 0 → exec (.engineReadEnd us) s = .next (after.atStep (at' (.verify 1)) (.read w.loc 1 none))) ∧
          (g = 1 → exec (.engineReadEnd us) s =
            .next (after.atStep (at' .commitMark) (.mark w.loc (markBit .commit))))) ∧
        (s.engineReads w.loc g us ≠ (.clean, content g) → storageFails (.engineReadEnd us) after)) ∧
      (s.engineAlone (.mark w.loc (markBit .commit)) → s.work = at' .commitMark →
        let after := s.markEnded w.loc (markBit .commit) us
        (¬after.marksStand w.loc (markBit .commit) → storageFails (.markProgramEnd us) after) ∧
        (after.marksStand w.loc (markBit .commit) → w.fix = true →
          exec (.markProgramEnd us) s =
            .next (after.atStep (at' .fixedMark) (.mark w.loc (markBit .fixed)))) ∧
        (after.marksStand w.loc (markBit .commit) → w.fix = false → installs after)) ∧
      (s.engineAlone (.mark w.loc (markBit .fixed)) → s.work = at' .fixedMark →
        installs (s.markEnded w.loc (markBit .fixed) us)) ∧
      (s.engineAlone (.mark w.oldLoc (markBit .supersede)) → s.work = at' .supersede →
        completes (.markProgramEnd us) (s.markEnded w.oldLoc (markBit .supersede) us)) ∧
      ∀ c : Classifying, s.engineAlone (.read w.oldLoc c.granule none) → s.work = at' (.classifyOld c) →
        let r := s.engineReads w.oldLoc c.granule us
        let after := s.readEnded w.oldLoc c.granule none us
        let f := (s.upsets w.oldLoc us).markField w.oldLoc
        let committed := (setupHeaderOf r).isSome = true ∧ f.has .commit = true ∧ f.has .bad = false ∧
          f.has .retire = false ∧ f.has .supersede = false
        let goesTo := fun (step : SetupStep) (est : EngineStep) =>
          exec (.engineReadEnd us) s = .next (after.atStep (at' step) est)
        (c.granule = 0 → r = erasedRead → goesTo (.classifyOld ⟨1, f, true⟩) (.read w.oldLoc 1 none)) ∧
        (c.granule = 0 → r ≠ erasedRead → committed → goesTo .supersede (.mark w.oldLoc (markBit .supersede))) ∧
        (c.granule = 0 → r ≠ erasedRead → ¬committed → completes (.engineReadEnd us) after) ∧
        (1 ≤ c.granule → c.granule < 7 →
          goesTo (.classifyOld ⟨c.granule + 1, c.marks, c.erased && decide (r = erasedRead)⟩)
            (.read w.oldLoc (c.granule + 1) none)) ∧
        (c.granule = 7 → completes (.engineReadEnd us) after))

/-! ### Check values (R145, R173) -/

/-- The check values the manual gives for its two check sums, and the wrap of the ticket counter and of the generation
cycle; generation 0, of a setup cell without a generation yet, is followed by 1 too (R169). -/
def Obligations.CheckValuesAndCycles : Prop :=
  let nine : Bytes := [0x31, 0x32, 0x33, 0x34, 0x35, 0x36, 0x37, 0x38, 0x39]
  crc8 nine = 0xF4#8 ∧ crc32Bytes (BitVec.allOnes 32) nine ^^^ BitVec.allOnes 32 = 0xCBF43926#32 ∧
    nextTicket 255 = 1 ∧ nextTicket 1 = 2 ∧ nextGen 65535 = 1 ∧ nextGen 1 = 2 ∧ nextGen 0 = 1

/-! ### Invariants -/

/-- Every step keeps the canonical form of the array and of the directory. -/
def Obligations.StepKeepsCanonicalMemory : Prop :=
  ∀ s t : State, Memory.wf s = true → step s = .next t → Memory.wf t = true

/-- Every step keeps the manual's bounds: integrity counts of at most 63, at most 16 listed refreshes, at most 8 queued
jobs. The queue's bound is kept together with the rest of its law: the running job at its head, each entry's jobs count
the number of queued jobs that name it (R12), and no job before the part is READY. -/
def Obligations.StepKeepsBounds : Prop :=
  ∀ s t : State, s.capture.bounded = true → s.refresh.bounded = true → queueLaw s →
    step s = .next t → t.capture.bounded = true ∧ t.refresh.bounded = true ∧ queueLaw t

/-- Every step keeps the running job at the head of the queue. -/
def Obligations.StepKeepsRunningJobAtHead : Prop :=
  ∀ s t : State, runningJobHeads s = true → step s = .next t → runningJobHeads t = true

/-- Every step keeps the law of holds: slots are owned by their port, no entry has two ACTIVE holds, no port two slots
on one entry. -/
def Obligations.StepKeepsHoldLaw : Prop :=
  ∀ s t : State, holdLaw s.holds → step s = .next t → holdLaw t.holds

/-- The state after reset meets the laws the steps keep, and has the values of Table 9-1: every entry FREE on its home
pair, pairs 512 to 543 spare, no BAD pair and no reservation, the arbiter without claimant or suspended step and with
PORT_S last granted, buffers, queue, lists and slots empty, ticket 1 and event mask 01H on each port, no census. -/
def Obligations.ResetMeetsTheLaws : Prop :=
  let r := State.reset
  (Memory.wf r = true ∧ r.capture.bounded = true ∧ r.refresh.bounded = true ∧ queueLaw r ∧
    runningJobHeads r = true ∧ holdLaw r.holds) ∧
  r.phase = .starting ∧ r.restartDeferred = false ∧ (∀ i, i < 512 → r.entry i = ⟨.free, some i, 0⟩) ∧
  (∀ p, p ∈ r.pool ↔ 512 ≤ p ∧ p < 544) ∧ r.pool.length = 32 ∧ r.reserved = none ∧ r.bad = [] ∧
  r.arrayFree ∧ r.arb.suspCount = 0 ∧ r.arb.lastPort = .s ∧
  (∀ b : Fin 8, r.buffers[b] = ⟨.empty, [], 0⟩) ∧ r.queue = [] ∧ r.work = .idle ∧ r.recovery = [] ∧
  (∀ slot : Fin 8, r.holds[slot] = .empty) ∧ r.inhibit = 0 ∧ r.capture = ⟨0, 0, none, none, none, none⟩ ∧
  r.refresh = ⟨[], false⟩ ∧ r.census = none ∧
  ∀ p, (r.port p).slot = .empty ∧ (r.port p).results = [] ∧ (r.port p).outstanding = 0 ∧ (r.port p).ticket = 1 ∧
    (r.port p).flags = 0 ∧ (r.port p).mask = 0x01

end Statements
end

