-- ==== Sys2Proof/Laws/Sparse.lean ====
section
/-! SUPPORT. Sparse data: what is read after a write, and the canonical form. -/

namespace Sys2Proof.Machine

variable {α : Type}

theorem sparseGet_put_same (dflt : Nat → α) (m : Sparse α) (k : Nat) (v : α) :
    sparseGet dflt (sparsePut k v m) k = v := by
  induction m with
  | nil => simp [sparsePut, sparseGet]
  | cons e t ih =>
    obtain ⟨k', v'⟩ := e
    unfold sparsePut
    split
    · simp [sparseGet]
    · split
      · simp [sparseGet]
      · next h => simp only [sparseGet, if_neg h, ih]

theorem sparseGet_put_other (dflt : Nat → α) (m : Sparse α) (k j : Nat) (v : α) (hj : j ≠ k) :
    sparseGet dflt (sparsePut k v m) j = sparseGet dflt m j := by
  induction m with
  | nil => simp [sparsePut, sparseGet, hj]
  | cons e t ih =>
    obtain ⟨k', v'⟩ := e
    unfold sparsePut
    split
    · simp [sparseGet, hj]
    · split
      · next h => subst h; simp [sparseGet, hj]
      · simp only [sparseGet, ih]

theorem sparseGet_drop_same (dflt : Nat → α) (m : Sparse α) (k : Nat) :
    sparseGet dflt (sparseDrop k m) k = dflt k := by
  induction m with
  | nil => rfl
  | cons e t ih =>
    obtain ⟨k', v'⟩ := e
    by_cases h : k' = k
    · simpa [sparseDrop, List.filter_cons, h] using ih
    · have h' : ¬k = k' := fun e => h e.symm
      simpa [sparseDrop, List.filter_cons, h, sparseGet, h'] using ih

theorem sparseGet_drop_other (dflt : Nat → α) (m : Sparse α) (k j : Nat) (hj : j ≠ k) :
    sparseGet dflt (sparseDrop k m) j = sparseGet dflt m j := by
  induction m with
  | nil => rfl
  | cons e t ih =>
    obtain ⟨k', v'⟩ := e
    by_cases h : k' = k
    · subst h
      simpa [sparseDrop, List.filter_cons, sparseGet, hj] using ih
    · by_cases h2 : j = k'
      · subst h2
        simp [sparseDrop, h, sparseGet]
      · simpa [sparseDrop, List.filter_cons, h, sparseGet, h2] using ih

variable [DecidableEq α]

/-- What is read at a key after it was written. -/
@[simp] theorem sparseGet_set_same (dflt : Nat → α) (m : Sparse α) (k : Nat) (v : α) :
    sparseGet dflt (sparseSet dflt m k v) k = v := by
  unfold sparseSet
  split
  · next h => rw [sparseGet_drop_same, h]
  · exact sparseGet_put_same ..

/-- What is read at any other key. -/
theorem sparseGet_set_other (dflt : Nat → α) (m : Sparse α) (k j : Nat) (v : α) (hj : j ≠ k) :
    sparseGet dflt (sparseSet dflt m k v) j = sparseGet dflt m j := by
  unfold sparseSet
  split
  · exact sparseGet_drop_other _ _ _ _ hj
  · exact sparseGet_put_other _ _ _ _ _ hj

/-- A key lies above a bound that may be absent. -/
def aboveLow (low : Option Nat) (k : Nat) : Prop := ∀ l, low = some l → l < k

theorem sparseWfFrom_cons (dflt : Nat → α) (low : Option Nat) (k : Nat) (v : α) (t : Sparse α) :
    sparseWfFrom dflt low ((k, v) :: t) = true ↔
      aboveLow low k ∧ v ≠ dflt k ∧ sparseWfFrom dflt (some k) t = true := by
  cases low <;> simp [sparseWfFrom, aboveLow, and_assoc]

theorem sparseWfFrom_mono (dflt : Nat → α) (m : Sparse α) (l l' : Nat) (h : l' ≤ l)
    (hm : sparseWfFrom dflt (some l) m = true) : sparseWfFrom dflt (some l') m = true := by
  cases m with
  | nil => rfl
  | cons e t =>
    obtain ⟨k, v⟩ := e
    rw [sparseWfFrom_cons] at hm ⊢
    refine ⟨fun x hx => ?_, hm.2⟩
    have := hm.1 l rfl
    cases hx
    omega

theorem sparseWfFrom_put (dflt : Nat → α) (m : Sparse α) (low : Option Nat) (k : Nat) (v : α)
    (hv : v ≠ dflt k) (hk : aboveLow low k) (hm : sparseWfFrom dflt low m = true) :
    sparseWfFrom dflt low (sparsePut k v m) = true := by
  induction m generalizing low with
  | nil => rw [sparsePut, sparseWfFrom_cons]; exact ⟨hk, hv, rfl⟩
  | cons e t ih =>
    obtain ⟨k', v'⟩ := e
    rw [sparseWfFrom_cons] at hm
    unfold sparsePut
    split
    · next h =>
      rw [sparseWfFrom_cons, sparseWfFrom_cons]
      exact ⟨hk, hv, fun l hl => by cases hl; exact h, hm.2⟩
    · split
      · next h => subst h; rw [sparseWfFrom_cons]; exact ⟨hk, hv, hm.2.2⟩
      · next h1 h2 =>
        rw [sparseWfFrom_cons]
        exact ⟨hm.1, hm.2.1, ih _ (fun l hl => by cases hl; omega) hm.2.2⟩

theorem sparseWfFrom_drop (dflt : Nat → α) (m : Sparse α) (low : Option Nat) (k : Nat)
    (hm : sparseWfFrom dflt low m = true) : sparseWfFrom dflt low (sparseDrop k m) = true := by
  induction m generalizing low with
  | nil => rfl
  | cons e t ih =>
    obtain ⟨k', v'⟩ := e
    rw [sparseWfFrom_cons] at hm
    have ht := ih _ hm.2.2
    by_cases h : k' = k
    · have hd : sparseDrop k ((k', v') :: t) = sparseDrop k t := by simp [sparseDrop, h]
      rw [hd]
      cases low with
      | none =>
        cases hs : sparseDrop k t with
        | nil => rfl
        | cons e' t' =>
          obtain ⟨k2, v2⟩ := e'
          rw [hs, sparseWfFrom_cons] at ht
          rw [sparseWfFrom_cons]
          exact ⟨fun l hl => (by cases hl), ht.2⟩
      | some l => exact sparseWfFrom_mono dflt _ k' l (Nat.le_of_lt (hm.1 l rfl)) ht
    · have hd : sparseDrop k ((k', v') :: t) = (k', v') :: sparseDrop k t := by
        simp [sparseDrop, h]
      rw [hd, sparseWfFrom_cons]
      exact ⟨hm.1, hm.2.1, ht⟩

/-- A write keeps the canonical form. -/
theorem sparseWf_set (dflt : Nat → α) (m : Sparse α) (k : Nat) (v : α) (hm : sparseWf dflt m = true) :
    sparseWf dflt (sparseSet dflt m k v) = true := by
  unfold sparseSet
  split
  · exact sparseWfFrom_drop _ _ _ _ hm
  · next h => exact sparseWfFrom_put _ _ _ _ _ h (fun l hl => by cases hl) hm

/-- The keys of canonical data lie above their bound. -/
theorem sparseWfFrom_above (dflt : Nat → α) (m : Sparse α) (l : Nat) (hm : sparseWfFrom dflt (some l) m = true) :
    ∀ e ∈ m, l < e.1 := by
  induction m generalizing l with
  | nil => intro e he; cases he
  | cons e t ih =>
    obtain ⟨k, v⟩ := e
    rw [sparseWfFrom_cons] at hm
    intro e he
    rcases List.mem_cons.1 he with rfl | he
    · exact hm.1 l rfl
    · exact Nat.lt_trans (hm.1 l rfl) (ih k hm.2.2 e he)

/-- In canonical data the entries listed are the keys that read otherwise than an unlisted one. -/
theorem sparse_mem (dflt : Nat → α) (m : Sparse α) (hm : sparseWf dflt m = true) (k : Nat) (v : α) :
    (k, v) ∈ m ↔ v ≠ dflt k ∧ sparseGet dflt m k = v := by
  suffices h : ∀ low, sparseWfFrom dflt low m = true →
      ((k, v) ∈ m ↔ v ≠ dflt k ∧ sparseGet dflt m k = v) from h none hm
  clear hm
  induction m with
  | nil => intro low _; simp only [List.not_mem_nil, sparseGet, false_iff]; exact fun h => h.1 h.2.symm
  | cons e t ih =>
    obtain ⟨k', v'⟩ := e
    intro low hm
    rw [sparseWfFrom_cons] at hm
    have hab := sparseWfFrom_above dflt t k' hm.2.2
    by_cases hk : k = k'
    · subst hk
      have hn : (k, v) ∉ t := fun h => absurd (hab _ h) (Nat.lt_irrefl k)
      simp only [List.mem_cons, hn, or_false, sparseGet, if_true, Prod.mk.injEq, true_and]
      exact ⟨fun h => ⟨by rw [h]; exact hm.2.1, h.symm⟩, fun h => h.2.symm⟩
    · simp only [List.mem_cons, Prod.mk.injEq, hk, false_and, false_or, sparseGet, if_false]
      exact ih _ hm.2.2

/-- The keys of canonical data rise. -/
theorem sparse_rising (dflt : Nat → α) (m : Sparse α) (hm : sparseWf dflt m = true) :
    m.Pairwise (fun x y => x.1 < y.1) := by
  suffices h : ∀ low, sparseWfFrom dflt low m = true → m.Pairwise (fun x y => x.1 < y.1) from h none hm
  clear hm
  induction m with
  | nil => exact fun _ _ => List.Pairwise.nil
  | cons e t ih =>
    obtain ⟨k, v⟩ := e
    intro low hm
    rw [sparseWfFrom_cons] at hm
    exact List.pairwise_cons.2 ⟨sparseWfFrom_above dflt t k hm.2.2, ih _ hm.2.2⟩

end Sys2Proof.Machine
end

