-- ==== Sys2Proof/Laws/State.lean ====
section
/-! SUPPORT. What each update of the state leaves in each field: one lemma for each field and update, by rfl. -/

namespace Sys2Proof.Machine

/-! `setGranule` -/

@[simp] theorem setGranule_phase (s : State) (l : Loc) (g : Nat) (v : Granule) : (s.setGranule l g v).phase = s.phase := rfl
@[simp] theorem setGranule_restartDeferred (s : State) (l : Loc) (g : Nat) (v : Granule) : (s.setGranule l g v).restartDeferred = s.restartDeferred := rfl
@[simp] theorem setGranule_granules (s : State) (l : Loc) (g : Nat) (v : Granule) : (s.setGranule l g v).granules = sparseSet factoryGranule s.granules (granuleKey l g) v := rfl
@[simp] theorem setGranule_marks (s : State) (l : Loc) (g : Nat) (v : Granule) : (s.setGranule l g v).marks = s.marks := rfl
@[simp] theorem setGranule_entries (s : State) (l : Loc) (g : Nat) (v : Granule) : (s.setGranule l g v).entries = s.entries := rfl
@[simp] theorem setGranule_pool (s : State) (l : Loc) (g : Nat) (v : Granule) : (s.setGranule l g v).pool = s.pool := rfl
@[simp] theorem setGranule_reserved (s : State) (l : Loc) (g : Nat) (v : Granule) : (s.setGranule l g v).reserved = s.reserved := rfl
@[simp] theorem setGranule_bad (s : State) (l : Loc) (g : Nat) (v : Granule) : (s.setGranule l g v).bad = s.bad := rfl
@[simp] theorem setGranule_arb (s : State) (l : Loc) (g : Nat) (v : Granule) : (s.setGranule l g v).arb = s.arb := rfl
@[simp] theorem setGranule_buffers (s : State) (l : Loc) (g : Nat) (v : Granule) : (s.setGranule l g v).buffers = s.buffers := rfl
@[simp] theorem setGranule_queue (s : State) (l : Loc) (g : Nat) (v : Granule) : (s.setGranule l g v).queue = s.queue := rfl
@[simp] theorem setGranule_work (s : State) (l : Loc) (g : Nat) (v : Granule) : (s.setGranule l g v).work = s.work := rfl
@[simp] theorem setGranule_recovery (s : State) (l : Loc) (g : Nat) (v : Granule) : (s.setGranule l g v).recovery = s.recovery := rfl
@[simp] theorem setGranule_holds (s : State) (l : Loc) (g : Nat) (v : Granule) : (s.setGranule l g v).holds = s.holds := rfl
@[simp] theorem setGranule_inhibit (s : State) (l : Loc) (g : Nat) (v : Granule) : (s.setGranule l g v).inhibit = s.inhibit := rfl
@[simp] theorem setGranule_capture (s : State) (l : Loc) (g : Nat) (v : Granule) : (s.setGranule l g v).capture = s.capture := rfl
@[simp] theorem setGranule_refresh (s : State) (l : Loc) (g : Nat) (v : Granule) : (s.setGranule l g v).refresh = s.refresh := rfl
@[simp] theorem setGranule_census (s : State) (l : Loc) (g : Nat) (v : Granule) : (s.setGranule l g v).census = s.census := rfl
@[simp] theorem setGranule_setup (s : State) (l : Loc) (g : Nat) (v : Granule) : (s.setGranule l g v).setup = s.setup := rfl
@[simp] theorem setGranule_scan (s : State) (l : Loc) (g : Nat) (v : Granule) : (s.setGranule l g v).scan = s.scan := rfl
@[simp] theorem setGranule_portM (s : State) (l : Loc) (g : Nat) (v : Granule) : (s.setGranule l g v).portM = s.portM := rfl
@[simp] theorem setGranule_portS (s : State) (l : Loc) (g : Nat) (v : Granule) : (s.setGranule l g v).portS = s.portS := rfl
@[simp] theorem setGranule_free (s : State) (l : Loc) (g : Nat) (v : Granule) : (s.setGranule l g v).free = s.free := rfl
@[simp] theorem setGranule_pending (s : State) (l : Loc) (g : Nat) (v : Granule) : (s.setGranule l g v).pending = s.pending := rfl

/-! `setMarkField` -/

@[simp] theorem setMarkField_phase (s : State) (l : Loc) (f : MarkField) : (s.setMarkField l f).phase = s.phase := rfl
@[simp] theorem setMarkField_restartDeferred (s : State) (l : Loc) (f : MarkField) : (s.setMarkField l f).restartDeferred = s.restartDeferred := rfl
@[simp] theorem setMarkField_granules (s : State) (l : Loc) (f : MarkField) : (s.setMarkField l f).granules = s.granules := rfl
@[simp] theorem setMarkField_marks (s : State) (l : Loc) (f : MarkField) : (s.setMarkField l f).marks = sparseSet factoryMarks s.marks l.index f := rfl
@[simp] theorem setMarkField_entries (s : State) (l : Loc) (f : MarkField) : (s.setMarkField l f).entries = s.entries := rfl
@[simp] theorem setMarkField_pool (s : State) (l : Loc) (f : MarkField) : (s.setMarkField l f).pool = s.pool := rfl
@[simp] theorem setMarkField_reserved (s : State) (l : Loc) (f : MarkField) : (s.setMarkField l f).reserved = s.reserved := rfl
@[simp] theorem setMarkField_bad (s : State) (l : Loc) (f : MarkField) : (s.setMarkField l f).bad = s.bad := rfl
@[simp] theorem setMarkField_arb (s : State) (l : Loc) (f : MarkField) : (s.setMarkField l f).arb = s.arb := rfl
@[simp] theorem setMarkField_buffers (s : State) (l : Loc) (f : MarkField) : (s.setMarkField l f).buffers = s.buffers := rfl
@[simp] theorem setMarkField_queue (s : State) (l : Loc) (f : MarkField) : (s.setMarkField l f).queue = s.queue := rfl
@[simp] theorem setMarkField_work (s : State) (l : Loc) (f : MarkField) : (s.setMarkField l f).work = s.work := rfl
@[simp] theorem setMarkField_recovery (s : State) (l : Loc) (f : MarkField) : (s.setMarkField l f).recovery = s.recovery := rfl
@[simp] theorem setMarkField_holds (s : State) (l : Loc) (f : MarkField) : (s.setMarkField l f).holds = s.holds := rfl
@[simp] theorem setMarkField_inhibit (s : State) (l : Loc) (f : MarkField) : (s.setMarkField l f).inhibit = s.inhibit := rfl
@[simp] theorem setMarkField_capture (s : State) (l : Loc) (f : MarkField) : (s.setMarkField l f).capture = s.capture := rfl
@[simp] theorem setMarkField_refresh (s : State) (l : Loc) (f : MarkField) : (s.setMarkField l f).refresh = s.refresh := rfl
@[simp] theorem setMarkField_census (s : State) (l : Loc) (f : MarkField) : (s.setMarkField l f).census = s.census := rfl
@[simp] theorem setMarkField_setup (s : State) (l : Loc) (f : MarkField) : (s.setMarkField l f).setup = s.setup := rfl
@[simp] theorem setMarkField_scan (s : State) (l : Loc) (f : MarkField) : (s.setMarkField l f).scan = s.scan := rfl
@[simp] theorem setMarkField_portM (s : State) (l : Loc) (f : MarkField) : (s.setMarkField l f).portM = s.portM := rfl
@[simp] theorem setMarkField_portS (s : State) (l : Loc) (f : MarkField) : (s.setMarkField l f).portS = s.portS := rfl
@[simp] theorem setMarkField_free (s : State) (l : Loc) (f : MarkField) : (s.setMarkField l f).free = s.free := rfl
@[simp] theorem setMarkField_pending (s : State) (l : Loc) (f : MarkField) : (s.setMarkField l f).pending = s.pending := rfl

/-! `setEntry` -/

@[simp] theorem setEntry_phase (s : State) (i : Nat) (e : Entry) : (s.setEntry i e).phase = s.phase := rfl
@[simp] theorem setEntry_restartDeferred (s : State) (i : Nat) (e : Entry) : (s.setEntry i e).restartDeferred = s.restartDeferred := rfl
@[simp] theorem setEntry_granules (s : State) (i : Nat) (e : Entry) : (s.setEntry i e).granules = s.granules := rfl
@[simp] theorem setEntry_marks (s : State) (i : Nat) (e : Entry) : (s.setEntry i e).marks = s.marks := rfl
@[simp] theorem setEntry_entries (s : State) (i : Nat) (e : Entry) : (s.setEntry i e).entries = sparseSet homeEntry s.entries i e := rfl
@[simp] theorem setEntry_pool (s : State) (i : Nat) (e : Entry) : (s.setEntry i e).pool = s.pool := rfl
@[simp] theorem setEntry_reserved (s : State) (i : Nat) (e : Entry) : (s.setEntry i e).reserved = s.reserved := rfl
@[simp] theorem setEntry_bad (s : State) (i : Nat) (e : Entry) : (s.setEntry i e).bad = s.bad := rfl
@[simp] theorem setEntry_arb (s : State) (i : Nat) (e : Entry) : (s.setEntry i e).arb = s.arb := rfl
@[simp] theorem setEntry_buffers (s : State) (i : Nat) (e : Entry) : (s.setEntry i e).buffers = s.buffers := rfl
@[simp] theorem setEntry_queue (s : State) (i : Nat) (e : Entry) : (s.setEntry i e).queue = s.queue := rfl
@[simp] theorem setEntry_work (s : State) (i : Nat) (e : Entry) : (s.setEntry i e).work = s.work := rfl
@[simp] theorem setEntry_recovery (s : State) (i : Nat) (e : Entry) : (s.setEntry i e).recovery = s.recovery := rfl
@[simp] theorem setEntry_holds (s : State) (i : Nat) (e : Entry) : (s.setEntry i e).holds = s.holds := rfl
@[simp] theorem setEntry_inhibit (s : State) (i : Nat) (e : Entry) : (s.setEntry i e).inhibit = s.inhibit := rfl
@[simp] theorem setEntry_capture (s : State) (i : Nat) (e : Entry) : (s.setEntry i e).capture = s.capture := rfl
@[simp] theorem setEntry_refresh (s : State) (i : Nat) (e : Entry) : (s.setEntry i e).refresh = s.refresh := rfl
@[simp] theorem setEntry_census (s : State) (i : Nat) (e : Entry) : (s.setEntry i e).census = s.census := rfl
@[simp] theorem setEntry_setup (s : State) (i : Nat) (e : Entry) : (s.setEntry i e).setup = s.setup := rfl
@[simp] theorem setEntry_scan (s : State) (i : Nat) (e : Entry) : (s.setEntry i e).scan = s.scan := rfl
@[simp] theorem setEntry_portM (s : State) (i : Nat) (e : Entry) : (s.setEntry i e).portM = s.portM := rfl
@[simp] theorem setEntry_portS (s : State) (i : Nat) (e : Entry) : (s.setEntry i e).portS = s.portS := rfl
@[simp] theorem setEntry_free (s : State) (i : Nat) (e : Entry) : (s.setEntry i e).free = s.free := rfl
@[simp] theorem setEntry_pending (s : State) (i : Nat) (e : Entry) : (s.setEntry i e).pending = s.pending := rfl

/-! `modPort` -/

@[simp] theorem modPort_phase (s : State) (p : Port) (f : PortState → PortState) : (s.modPort p f).phase = s.phase := rfl
@[simp] theorem modPort_restartDeferred (s : State) (p : Port) (f : PortState → PortState) : (s.modPort p f).restartDeferred = s.restartDeferred := rfl
@[simp] theorem modPort_granules (s : State) (p : Port) (f : PortState → PortState) : (s.modPort p f).granules = s.granules := rfl
@[simp] theorem modPort_marks (s : State) (p : Port) (f : PortState → PortState) : (s.modPort p f).marks = s.marks := rfl
@[simp] theorem modPort_entries (s : State) (p : Port) (f : PortState → PortState) : (s.modPort p f).entries = s.entries := rfl
@[simp] theorem modPort_pool (s : State) (p : Port) (f : PortState → PortState) : (s.modPort p f).pool = s.pool := rfl
@[simp] theorem modPort_reserved (s : State) (p : Port) (f : PortState → PortState) : (s.modPort p f).reserved = s.reserved := rfl
@[simp] theorem modPort_bad (s : State) (p : Port) (f : PortState → PortState) : (s.modPort p f).bad = s.bad := rfl
@[simp] theorem modPort_arb (s : State) (p : Port) (f : PortState → PortState) : (s.modPort p f).arb = s.arb := rfl
@[simp] theorem modPort_buffers (s : State) (p : Port) (f : PortState → PortState) : (s.modPort p f).buffers = s.buffers := rfl
@[simp] theorem modPort_queue (s : State) (p : Port) (f : PortState → PortState) : (s.modPort p f).queue = s.queue := rfl
@[simp] theorem modPort_work (s : State) (p : Port) (f : PortState → PortState) : (s.modPort p f).work = s.work := rfl
@[simp] theorem modPort_recovery (s : State) (p : Port) (f : PortState → PortState) : (s.modPort p f).recovery = s.recovery := rfl
@[simp] theorem modPort_holds (s : State) (p : Port) (f : PortState → PortState) : (s.modPort p f).holds = s.holds := rfl
@[simp] theorem modPort_inhibit (s : State) (p : Port) (f : PortState → PortState) : (s.modPort p f).inhibit = s.inhibit := rfl
@[simp] theorem modPort_capture (s : State) (p : Port) (f : PortState → PortState) : (s.modPort p f).capture = s.capture := rfl
@[simp] theorem modPort_refresh (s : State) (p : Port) (f : PortState → PortState) : (s.modPort p f).refresh = s.refresh := rfl
@[simp] theorem modPort_census (s : State) (p : Port) (f : PortState → PortState) : (s.modPort p f).census = s.census := rfl
@[simp] theorem modPort_setup (s : State) (p : Port) (f : PortState → PortState) : (s.modPort p f).setup = s.setup := rfl
@[simp] theorem modPort_scan (s : State) (p : Port) (f : PortState → PortState) : (s.modPort p f).scan = s.scan := rfl
@[simp] theorem modPort_portM (s : State) (p : Port) (f : PortState → PortState) : (s.modPort p f).portM = if p = .m then f s.portM else s.portM := rfl
@[simp] theorem modPort_portS (s : State) (p : Port) (f : PortState → PortState) : (s.modPort p f).portS = if p = .s then f s.portS else s.portS := rfl
@[simp] theorem modPort_free (s : State) (p : Port) (f : PortState → PortState) : (s.modPort p f).free = s.free := rfl
@[simp] theorem modPort_pending (s : State) (p : Port) (f : PortState → PortState) : (s.modPort p f).pending = s.pending := rfl

/-! `setFlagBoth` -/

@[simp] theorem setFlagBoth_phase (s : State) (e : Event) : (s.setFlagBoth e).phase = s.phase := rfl
@[simp] theorem setFlagBoth_restartDeferred (s : State) (e : Event) : (s.setFlagBoth e).restartDeferred = s.restartDeferred := rfl
@[simp] theorem setFlagBoth_granules (s : State) (e : Event) : (s.setFlagBoth e).granules = s.granules := rfl
@[simp] theorem setFlagBoth_marks (s : State) (e : Event) : (s.setFlagBoth e).marks = s.marks := rfl
@[simp] theorem setFlagBoth_entries (s : State) (e : Event) : (s.setFlagBoth e).entries = s.entries := rfl
@[simp] theorem setFlagBoth_pool (s : State) (e : Event) : (s.setFlagBoth e).pool = s.pool := rfl
@[simp] theorem setFlagBoth_reserved (s : State) (e : Event) : (s.setFlagBoth e).reserved = s.reserved := rfl
@[simp] theorem setFlagBoth_bad (s : State) (e : Event) : (s.setFlagBoth e).bad = s.bad := rfl
@[simp] theorem setFlagBoth_arb (s : State) (e : Event) : (s.setFlagBoth e).arb = s.arb := rfl
@[simp] theorem setFlagBoth_buffers (s : State) (e : Event) : (s.setFlagBoth e).buffers = s.buffers := rfl
@[simp] theorem setFlagBoth_queue (s : State) (e : Event) : (s.setFlagBoth e).queue = s.queue := rfl
@[simp] theorem setFlagBoth_work (s : State) (e : Event) : (s.setFlagBoth e).work = s.work := rfl
@[simp] theorem setFlagBoth_recovery (s : State) (e : Event) : (s.setFlagBoth e).recovery = s.recovery := rfl
@[simp] theorem setFlagBoth_holds (s : State) (e : Event) : (s.setFlagBoth e).holds = s.holds := rfl
@[simp] theorem setFlagBoth_inhibit (s : State) (e : Event) : (s.setFlagBoth e).inhibit = s.inhibit := rfl
@[simp] theorem setFlagBoth_capture (s : State) (e : Event) : (s.setFlagBoth e).capture = s.capture := rfl
@[simp] theorem setFlagBoth_refresh (s : State) (e : Event) : (s.setFlagBoth e).refresh = s.refresh := rfl
@[simp] theorem setFlagBoth_census (s : State) (e : Event) : (s.setFlagBoth e).census = s.census := rfl
@[simp] theorem setFlagBoth_setup (s : State) (e : Event) : (s.setFlagBoth e).setup = s.setup := rfl
@[simp] theorem setFlagBoth_scan (s : State) (e : Event) : (s.setFlagBoth e).scan = s.scan := rfl
@[simp] theorem setFlagBoth_portM (s : State) (e : Event) : (s.setFlagBoth e).portM = { s.portM with flags := s.portM.flags ||| e.bit } := rfl
@[simp] theorem setFlagBoth_portS (s : State) (e : Event) : (s.setFlagBoth e).portS = { s.portS with flags := s.portS.flags ||| e.bit } := rfl
@[simp] theorem setFlagBoth_free (s : State) (e : Event) : (s.setFlagBoth e).free = s.free := rfl
@[simp] theorem setFlagBoth_pending (s : State) (e : Event) : (s.setFlagBoth e).pending = s.pending := rfl

/-! `setBuffer` -/

@[simp] theorem setBuffer_phase (s : State) (b : Fin 8) (v : Buffer) : (s.setBuffer b v).phase = s.phase := rfl
@[simp] theorem setBuffer_restartDeferred (s : State) (b : Fin 8) (v : Buffer) : (s.setBuffer b v).restartDeferred = s.restartDeferred := rfl
@[simp] theorem setBuffer_granules (s : State) (b : Fin 8) (v : Buffer) : (s.setBuffer b v).granules = s.granules := rfl
@[simp] theorem setBuffer_marks (s : State) (b : Fin 8) (v : Buffer) : (s.setBuffer b v).marks = s.marks := rfl
@[simp] theorem setBuffer_entries (s : State) (b : Fin 8) (v : Buffer) : (s.setBuffer b v).entries = s.entries := rfl
@[simp] theorem setBuffer_pool (s : State) (b : Fin 8) (v : Buffer) : (s.setBuffer b v).pool = s.pool := rfl
@[simp] theorem setBuffer_reserved (s : State) (b : Fin 8) (v : Buffer) : (s.setBuffer b v).reserved = s.reserved := rfl
@[simp] theorem setBuffer_bad (s : State) (b : Fin 8) (v : Buffer) : (s.setBuffer b v).bad = s.bad := rfl
@[simp] theorem setBuffer_arb (s : State) (b : Fin 8) (v : Buffer) : (s.setBuffer b v).arb = s.arb := rfl
@[simp] theorem setBuffer_buffers (s : State) (b : Fin 8) (v : Buffer) : (s.setBuffer b v).buffers = s.buffers.set b v := rfl
@[simp] theorem setBuffer_queue (s : State) (b : Fin 8) (v : Buffer) : (s.setBuffer b v).queue = s.queue := rfl
@[simp] theorem setBuffer_work (s : State) (b : Fin 8) (v : Buffer) : (s.setBuffer b v).work = s.work := rfl
@[simp] theorem setBuffer_recovery (s : State) (b : Fin 8) (v : Buffer) : (s.setBuffer b v).recovery = s.recovery := rfl
@[simp] theorem setBuffer_holds (s : State) (b : Fin 8) (v : Buffer) : (s.setBuffer b v).holds = s.holds := rfl
@[simp] theorem setBuffer_inhibit (s : State) (b : Fin 8) (v : Buffer) : (s.setBuffer b v).inhibit = s.inhibit := rfl
@[simp] theorem setBuffer_capture (s : State) (b : Fin 8) (v : Buffer) : (s.setBuffer b v).capture = s.capture := rfl
@[simp] theorem setBuffer_refresh (s : State) (b : Fin 8) (v : Buffer) : (s.setBuffer b v).refresh = s.refresh := rfl
@[simp] theorem setBuffer_census (s : State) (b : Fin 8) (v : Buffer) : (s.setBuffer b v).census = s.census := rfl
@[simp] theorem setBuffer_setup (s : State) (b : Fin 8) (v : Buffer) : (s.setBuffer b v).setup = s.setup := rfl
@[simp] theorem setBuffer_scan (s : State) (b : Fin 8) (v : Buffer) : (s.setBuffer b v).scan = s.scan := rfl
@[simp] theorem setBuffer_portM (s : State) (b : Fin 8) (v : Buffer) : (s.setBuffer b v).portM = s.portM := rfl
@[simp] theorem setBuffer_portS (s : State) (b : Fin 8) (v : Buffer) : (s.setBuffer b v).portS = s.portS := rfl
@[simp] theorem setBuffer_free (s : State) (b : Fin 8) (v : Buffer) : (s.setBuffer b v).free = s.free := rfl
@[simp] theorem setBuffer_pending (s : State) (b : Fin 8) (v : Buffer) : (s.setBuffer b v).pending = s.pending := rfl

/-! `setHold` -/

@[simp] theorem setHold_phase (s : State) (i : Fin 8) (h : HoldSlot) : (s.setHold i h).phase = s.phase := rfl
@[simp] theorem setHold_restartDeferred (s : State) (i : Fin 8) (h : HoldSlot) : (s.setHold i h).restartDeferred = s.restartDeferred := rfl
@[simp] theorem setHold_granules (s : State) (i : Fin 8) (h : HoldSlot) : (s.setHold i h).granules = s.granules := rfl
@[simp] theorem setHold_marks (s : State) (i : Fin 8) (h : HoldSlot) : (s.setHold i h).marks = s.marks := rfl
@[simp] theorem setHold_entries (s : State) (i : Fin 8) (h : HoldSlot) : (s.setHold i h).entries = s.entries := rfl
@[simp] theorem setHold_pool (s : State) (i : Fin 8) (h : HoldSlot) : (s.setHold i h).pool = s.pool := rfl
@[simp] theorem setHold_reserved (s : State) (i : Fin 8) (h : HoldSlot) : (s.setHold i h).reserved = s.reserved := rfl
@[simp] theorem setHold_bad (s : State) (i : Fin 8) (h : HoldSlot) : (s.setHold i h).bad = s.bad := rfl
@[simp] theorem setHold_arb (s : State) (i : Fin 8) (h : HoldSlot) : (s.setHold i h).arb = s.arb := rfl
@[simp] theorem setHold_buffers (s : State) (i : Fin 8) (h : HoldSlot) : (s.setHold i h).buffers = s.buffers := rfl
@[simp] theorem setHold_queue (s : State) (i : Fin 8) (h : HoldSlot) : (s.setHold i h).queue = s.queue := rfl
@[simp] theorem setHold_work (s : State) (i : Fin 8) (h : HoldSlot) : (s.setHold i h).work = s.work := rfl
@[simp] theorem setHold_recovery (s : State) (i : Fin 8) (h : HoldSlot) : (s.setHold i h).recovery = s.recovery := rfl
@[simp] theorem setHold_holds (s : State) (i : Fin 8) (h : HoldSlot) : (s.setHold i h).holds = s.holds.set i h := rfl
@[simp] theorem setHold_inhibit (s : State) (i : Fin 8) (h : HoldSlot) : (s.setHold i h).inhibit = s.inhibit := rfl
@[simp] theorem setHold_capture (s : State) (i : Fin 8) (h : HoldSlot) : (s.setHold i h).capture = s.capture := rfl
@[simp] theorem setHold_refresh (s : State) (i : Fin 8) (h : HoldSlot) : (s.setHold i h).refresh = s.refresh := rfl
@[simp] theorem setHold_census (s : State) (i : Fin 8) (h : HoldSlot) : (s.setHold i h).census = s.census := rfl
@[simp] theorem setHold_setup (s : State) (i : Fin 8) (h : HoldSlot) : (s.setHold i h).setup = s.setup := rfl
@[simp] theorem setHold_scan (s : State) (i : Fin 8) (h : HoldSlot) : (s.setHold i h).scan = s.scan := rfl
@[simp] theorem setHold_portM (s : State) (i : Fin 8) (h : HoldSlot) : (s.setHold i h).portM = s.portM := rfl
@[simp] theorem setHold_portS (s : State) (i : Fin 8) (h : HoldSlot) : (s.setHold i h).portS = s.portS := rfl
@[simp] theorem setHold_free (s : State) (i : Fin 8) (h : HoldSlot) : (s.setHold i h).free = s.free := rfl
@[simp] theorem setHold_pending (s : State) (i : Fin 8) (h : HoldSlot) : (s.setHold i h).pending = s.pending := rfl

/-! `addBad` -/

@[simp] theorem addBad_phase (s : State) (p : Nat) : (s.addBad p).phase = s.phase := rfl
@[simp] theorem addBad_restartDeferred (s : State) (p : Nat) : (s.addBad p).restartDeferred = s.restartDeferred := rfl
@[simp] theorem addBad_granules (s : State) (p : Nat) : (s.addBad p).granules = s.granules := rfl
@[simp] theorem addBad_marks (s : State) (p : Nat) : (s.addBad p).marks = s.marks := rfl
@[simp] theorem addBad_entries (s : State) (p : Nat) : (s.addBad p).entries = s.entries := rfl
@[simp] theorem addBad_pool (s : State) (p : Nat) : (s.addBad p).pool = s.pool := rfl
@[simp] theorem addBad_reserved (s : State) (p : Nat) : (s.addBad p).reserved = s.reserved := rfl
@[simp] theorem addBad_bad (s : State) (p : Nat) : (s.addBad p).bad = insertNum p s.bad := rfl
@[simp] theorem addBad_arb (s : State) (p : Nat) : (s.addBad p).arb = s.arb := rfl
@[simp] theorem addBad_buffers (s : State) (p : Nat) : (s.addBad p).buffers = s.buffers := rfl
@[simp] theorem addBad_queue (s : State) (p : Nat) : (s.addBad p).queue = s.queue := rfl
@[simp] theorem addBad_work (s : State) (p : Nat) : (s.addBad p).work = s.work := rfl
@[simp] theorem addBad_recovery (s : State) (p : Nat) : (s.addBad p).recovery = s.recovery := rfl
@[simp] theorem addBad_holds (s : State) (p : Nat) : (s.addBad p).holds = s.holds := rfl
@[simp] theorem addBad_inhibit (s : State) (p : Nat) : (s.addBad p).inhibit = s.inhibit := rfl
@[simp] theorem addBad_capture (s : State) (p : Nat) : (s.addBad p).capture = s.capture := rfl
@[simp] theorem addBad_refresh (s : State) (p : Nat) : (s.addBad p).refresh = s.refresh := rfl
@[simp] theorem addBad_census (s : State) (p : Nat) : (s.addBad p).census = s.census := rfl
@[simp] theorem addBad_setup (s : State) (p : Nat) : (s.addBad p).setup = s.setup := rfl
@[simp] theorem addBad_scan (s : State) (p : Nat) : (s.addBad p).scan = s.scan := rfl
@[simp] theorem addBad_portM (s : State) (p : Nat) : (s.addBad p).portM = s.portM := rfl
@[simp] theorem addBad_portS (s : State) (p : Nat) : (s.addBad p).portS = s.portS := rfl
@[simp] theorem addBad_free (s : State) (p : Nat) : (s.addBad p).free = s.free := rfl
@[simp] theorem addBad_pending (s : State) (p : Nat) : (s.addBad p).pending = s.pending := rfl

/-! `claims` -/

@[simp] theorem claims_phase (s : State) (w : Work) (st : EngineStep) : (s.claims w st).phase = s.phase := rfl
@[simp] theorem claims_restartDeferred (s : State) (w : Work) (st : EngineStep) : (s.claims w st).restartDeferred = s.restartDeferred := rfl
@[simp] theorem claims_granules (s : State) (w : Work) (st : EngineStep) : (s.claims w st).granules = s.granules := rfl
@[simp] theorem claims_marks (s : State) (w : Work) (st : EngineStep) : (s.claims w st).marks = s.marks := rfl
@[simp] theorem claims_entries (s : State) (w : Work) (st : EngineStep) : (s.claims w st).entries = s.entries := rfl
@[simp] theorem claims_pool (s : State) (w : Work) (st : EngineStep) : (s.claims w st).pool = s.pool := rfl
@[simp] theorem claims_reserved (s : State) (w : Work) (st : EngineStep) : (s.claims w st).reserved = s.reserved := rfl
@[simp] theorem claims_bad (s : State) (w : Work) (st : EngineStep) : (s.claims w st).bad = s.bad := rfl
@[simp] theorem claims_arb (s : State) (w : Work) (st : EngineStep) : (s.claims w st).arb = { s.arb with waitEngine := some st } := rfl
@[simp] theorem claims_buffers (s : State) (w : Work) (st : EngineStep) : (s.claims w st).buffers = s.buffers := rfl
@[simp] theorem claims_queue (s : State) (w : Work) (st : EngineStep) : (s.claims w st).queue = s.queue := rfl
@[simp] theorem claims_work (s : State) (w : Work) (st : EngineStep) : (s.claims w st).work = w := rfl
@[simp] theorem claims_recovery (s : State) (w : Work) (st : EngineStep) : (s.claims w st).recovery = s.recovery := rfl
@[simp] theorem claims_holds (s : State) (w : Work) (st : EngineStep) : (s.claims w st).holds = s.holds := rfl
@[simp] theorem claims_inhibit (s : State) (w : Work) (st : EngineStep) : (s.claims w st).inhibit = s.inhibit := rfl
@[simp] theorem claims_capture (s : State) (w : Work) (st : EngineStep) : (s.claims w st).capture = s.capture := rfl
@[simp] theorem claims_refresh (s : State) (w : Work) (st : EngineStep) : (s.claims w st).refresh = s.refresh := rfl
@[simp] theorem claims_census (s : State) (w : Work) (st : EngineStep) : (s.claims w st).census = s.census := rfl
@[simp] theorem claims_setup (s : State) (w : Work) (st : EngineStep) : (s.claims w st).setup = s.setup := rfl
@[simp] theorem claims_scan (s : State) (w : Work) (st : EngineStep) : (s.claims w st).scan = s.scan := rfl
@[simp] theorem claims_portM (s : State) (w : Work) (st : EngineStep) : (s.claims w st).portM = s.portM := rfl
@[simp] theorem claims_portS (s : State) (w : Work) (st : EngineStep) : (s.claims w st).portS = s.portS := rfl
@[simp] theorem claims_free (s : State) (w : Work) (st : EngineStep) : (s.claims w st).free = s.free := rfl
@[simp] theorem claims_pending (s : State) (w : Work) (st : EngineStep) : (s.claims w st).pending = s.pending := rfl

/-! `idle` -/

@[simp] theorem idle_phase (s : State) : s.idle.phase = s.phase := rfl
@[simp] theorem idle_restartDeferred (s : State) : s.idle.restartDeferred = s.restartDeferred := rfl
@[simp] theorem idle_granules (s : State) : s.idle.granules = s.granules := rfl
@[simp] theorem idle_marks (s : State) : s.idle.marks = s.marks := rfl
@[simp] theorem idle_entries (s : State) : s.idle.entries = s.entries := rfl
@[simp] theorem idle_pool (s : State) : s.idle.pool = s.pool := rfl
@[simp] theorem idle_reserved (s : State) : s.idle.reserved = s.reserved := rfl
@[simp] theorem idle_bad (s : State) : s.idle.bad = s.bad := rfl
@[simp] theorem idle_arb (s : State) : s.idle.arb = s.arb := rfl
@[simp] theorem idle_buffers (s : State) : s.idle.buffers = s.buffers := rfl
@[simp] theorem idle_queue (s : State) : s.idle.queue = s.queue := rfl
@[simp] theorem idle_work (s : State) : s.idle.work = .idle := rfl
@[simp] theorem idle_recovery (s : State) : s.idle.recovery = s.recovery := rfl
@[simp] theorem idle_holds (s : State) : s.idle.holds = s.holds := rfl
@[simp] theorem idle_inhibit (s : State) : s.idle.inhibit = s.inhibit := rfl
@[simp] theorem idle_capture (s : State) : s.idle.capture = s.capture := rfl
@[simp] theorem idle_refresh (s : State) : s.idle.refresh = s.refresh := rfl
@[simp] theorem idle_census (s : State) : s.idle.census = s.census := rfl
@[simp] theorem idle_setup (s : State) : s.idle.setup = s.setup := rfl
@[simp] theorem idle_scan (s : State) : s.idle.scan = s.scan := rfl
@[simp] theorem idle_portM (s : State) : s.idle.portM = s.portM := rfl
@[simp] theorem idle_portS (s : State) : s.idle.portS = s.portS := rfl
@[simp] theorem idle_free (s : State) : s.idle.free = s.free := rfl
@[simp] theorem idle_pending (s : State) : s.idle.pending = s.pending := rfl

/-! `itemDone` -/

@[simp] theorem itemDone_phase (s : State) : s.itemDone.phase = s.phase := rfl
@[simp] theorem itemDone_restartDeferred (s : State) : s.itemDone.restartDeferred = s.restartDeferred := rfl
@[simp] theorem itemDone_granules (s : State) : s.itemDone.granules = s.granules := rfl
@[simp] theorem itemDone_marks (s : State) : s.itemDone.marks = s.marks := rfl
@[simp] theorem itemDone_entries (s : State) : s.itemDone.entries = s.entries := rfl
@[simp] theorem itemDone_pool (s : State) : s.itemDone.pool = s.pool := rfl
@[simp] theorem itemDone_reserved (s : State) : s.itemDone.reserved = s.reserved := rfl
@[simp] theorem itemDone_bad (s : State) : s.itemDone.bad = s.bad := rfl
@[simp] theorem itemDone_arb (s : State) : s.itemDone.arb = s.arb := rfl
@[simp] theorem itemDone_buffers (s : State) : s.itemDone.buffers = s.buffers := rfl
@[simp] theorem itemDone_queue (s : State) : s.itemDone.queue = s.queue := rfl
@[simp] theorem itemDone_work (s : State) : s.itemDone.work = .idle := rfl
@[simp] theorem itemDone_recovery (s : State) : s.itemDone.recovery = s.recovery.drop 1 := rfl
@[simp] theorem itemDone_holds (s : State) : s.itemDone.holds = s.holds := rfl
@[simp] theorem itemDone_inhibit (s : State) : s.itemDone.inhibit = s.inhibit := rfl
@[simp] theorem itemDone_capture (s : State) : s.itemDone.capture = s.capture := rfl
@[simp] theorem itemDone_refresh (s : State) : s.itemDone.refresh = s.refresh := rfl
@[simp] theorem itemDone_census (s : State) : s.itemDone.census = s.census := rfl
@[simp] theorem itemDone_setup (s : State) : s.itemDone.setup = s.setup := rfl
@[simp] theorem itemDone_scan (s : State) : s.itemDone.scan = s.scan := rfl
@[simp] theorem itemDone_portM (s : State) : s.itemDone.portM = s.portM := rfl
@[simp] theorem itemDone_portS (s : State) : s.itemDone.portS = s.portS := rfl
@[simp] theorem itemDone_free (s : State) : s.itemDone.free = s.free := rfl
@[simp] theorem itemDone_pending (s : State) : s.itemDone.pending = s.pending := rfl

/-! `release` -/

@[simp] theorem release_phase (s : State) : s.release.phase = s.phase := rfl
@[simp] theorem release_restartDeferred (s : State) : s.release.restartDeferred = s.restartDeferred := rfl
@[simp] theorem release_granules (s : State) : s.release.granules = s.granules := rfl
@[simp] theorem release_marks (s : State) : s.release.marks = s.marks := rfl
@[simp] theorem release_entries (s : State) : s.release.entries = s.entries := rfl
@[simp] theorem release_pool (s : State) : s.release.pool = s.pool := rfl
@[simp] theorem release_reserved (s : State) : s.release.reserved = s.reserved := rfl
@[simp] theorem release_bad (s : State) : s.release.bad = s.bad := rfl
@[simp] theorem release_arb (s : State) : s.release.arb = { s.arb with user := none } := rfl
@[simp] theorem release_buffers (s : State) : s.release.buffers = s.buffers := rfl
@[simp] theorem release_queue (s : State) : s.release.queue = s.queue := rfl
@[simp] theorem release_work (s : State) : s.release.work = s.work := rfl
@[simp] theorem release_recovery (s : State) : s.release.recovery = s.recovery := rfl
@[simp] theorem release_holds (s : State) : s.release.holds = s.holds := rfl
@[simp] theorem release_inhibit (s : State) : s.release.inhibit = s.inhibit := rfl
@[simp] theorem release_capture (s : State) : s.release.capture = s.capture := rfl
@[simp] theorem release_refresh (s : State) : s.release.refresh = s.refresh := rfl
@[simp] theorem release_census (s : State) : s.release.census = s.census := rfl
@[simp] theorem release_setup (s : State) : s.release.setup = s.setup := rfl
@[simp] theorem release_scan (s : State) : s.release.scan = s.scan := rfl
@[simp] theorem release_portM (s : State) : s.release.portM = s.portM := rfl
@[simp] theorem release_portS (s : State) : s.release.portS = s.portS := rfl
@[simp] theorem release_free (s : State) : s.release.free = s.free := rfl
@[simp] theorem release_pending (s : State) : s.release.pending = s.pending := rfl

/-! `emptyHoldsOn` -/

@[simp] theorem emptyHoldsOn_phase (s : State) (i : Nat) : (s.emptyHoldsOn i).phase = s.phase := rfl
@[simp] theorem emptyHoldsOn_restartDeferred (s : State) (i : Nat) : (s.emptyHoldsOn i).restartDeferred = s.restartDeferred := rfl
@[simp] theorem emptyHoldsOn_granules (s : State) (i : Nat) : (s.emptyHoldsOn i).granules = s.granules := rfl
@[simp] theorem emptyHoldsOn_marks (s : State) (i : Nat) : (s.emptyHoldsOn i).marks = s.marks := rfl
@[simp] theorem emptyHoldsOn_entries (s : State) (i : Nat) : (s.emptyHoldsOn i).entries = s.entries := rfl
@[simp] theorem emptyHoldsOn_pool (s : State) (i : Nat) : (s.emptyHoldsOn i).pool = s.pool := rfl
@[simp] theorem emptyHoldsOn_reserved (s : State) (i : Nat) : (s.emptyHoldsOn i).reserved = s.reserved := rfl
@[simp] theorem emptyHoldsOn_bad (s : State) (i : Nat) : (s.emptyHoldsOn i).bad = s.bad := rfl
@[simp] theorem emptyHoldsOn_arb (s : State) (i : Nat) : (s.emptyHoldsOn i).arb = s.arb := rfl
@[simp] theorem emptyHoldsOn_buffers (s : State) (i : Nat) : (s.emptyHoldsOn i).buffers = s.buffers := rfl
@[simp] theorem emptyHoldsOn_queue (s : State) (i : Nat) : (s.emptyHoldsOn i).queue = s.queue := rfl
@[simp] theorem emptyHoldsOn_work (s : State) (i : Nat) : (s.emptyHoldsOn i).work = s.work := rfl
@[simp] theorem emptyHoldsOn_recovery (s : State) (i : Nat) : (s.emptyHoldsOn i).recovery = s.recovery := rfl
@[simp] theorem emptyHoldsOn_inhibit (s : State) (i : Nat) : (s.emptyHoldsOn i).inhibit = s.inhibit := rfl
@[simp] theorem emptyHoldsOn_capture (s : State) (i : Nat) : (s.emptyHoldsOn i).capture = s.capture := rfl
@[simp] theorem emptyHoldsOn_refresh (s : State) (i : Nat) : (s.emptyHoldsOn i).refresh = s.refresh := rfl
@[simp] theorem emptyHoldsOn_census (s : State) (i : Nat) : (s.emptyHoldsOn i).census = s.census := rfl
@[simp] theorem emptyHoldsOn_setup (s : State) (i : Nat) : (s.emptyHoldsOn i).setup = s.setup := rfl
@[simp] theorem emptyHoldsOn_scan (s : State) (i : Nat) : (s.emptyHoldsOn i).scan = s.scan := rfl
@[simp] theorem emptyHoldsOn_portM (s : State) (i : Nat) : (s.emptyHoldsOn i).portM = s.portM := rfl
@[simp] theorem emptyHoldsOn_portS (s : State) (i : Nat) : (s.emptyHoldsOn i).portS = s.portS := rfl
@[simp] theorem emptyHoldsOn_free (s : State) (i : Nat) : (s.emptyHoldsOn i).free = s.free := rfl
@[simp] theorem emptyHoldsOn_pending (s : State) (i : Nat) : (s.emptyHoldsOn i).pending = s.pending := rfl

/-! `tellCensus` -/

@[simp] theorem tellCensus_phase (s : State) (c : Cls) : (s.tellCensus c).phase = s.phase := rfl
@[simp] theorem tellCensus_restartDeferred (s : State) (c : Cls) : (s.tellCensus c).restartDeferred = s.restartDeferred := rfl
@[simp] theorem tellCensus_granules (s : State) (c : Cls) : (s.tellCensus c).granules = s.granules := rfl
@[simp] theorem tellCensus_marks (s : State) (c : Cls) : (s.tellCensus c).marks = s.marks := rfl
@[simp] theorem tellCensus_entries (s : State) (c : Cls) : (s.tellCensus c).entries = s.entries := rfl
@[simp] theorem tellCensus_pool (s : State) (c : Cls) : (s.tellCensus c).pool = s.pool := rfl
@[simp] theorem tellCensus_reserved (s : State) (c : Cls) : (s.tellCensus c).reserved = s.reserved := rfl
@[simp] theorem tellCensus_bad (s : State) (c : Cls) : (s.tellCensus c).bad = s.bad := rfl
@[simp] theorem tellCensus_arb (s : State) (c : Cls) : (s.tellCensus c).arb = s.arb := rfl
@[simp] theorem tellCensus_buffers (s : State) (c : Cls) : (s.tellCensus c).buffers = s.buffers := rfl
@[simp] theorem tellCensus_queue (s : State) (c : Cls) : (s.tellCensus c).queue = s.queue := rfl
@[simp] theorem tellCensus_work (s : State) (c : Cls) : (s.tellCensus c).work = s.work := rfl
@[simp] theorem tellCensus_recovery (s : State) (c : Cls) : (s.tellCensus c).recovery = s.recovery := rfl
@[simp] theorem tellCensus_holds (s : State) (c : Cls) : (s.tellCensus c).holds = s.holds := rfl
@[simp] theorem tellCensus_inhibit (s : State) (c : Cls) : (s.tellCensus c).inhibit = s.inhibit := rfl
@[simp] theorem tellCensus_capture (s : State) (c : Cls) : (s.tellCensus c).capture = s.capture := rfl
@[simp] theorem tellCensus_refresh (s : State) (c : Cls) : (s.tellCensus c).refresh = s.refresh := rfl
@[simp] theorem tellCensus_setup (s : State) (c : Cls) : (s.tellCensus c).setup = s.setup := rfl
@[simp] theorem tellCensus_scan (s : State) (c : Cls) : (s.tellCensus c).scan = s.scan := rfl
@[simp] theorem tellCensus_portM (s : State) (c : Cls) : (s.tellCensus c).portM = s.portM := rfl
@[simp] theorem tellCensus_portS (s : State) (c : Cls) : (s.tellCensus c).portS = s.portS := rfl
@[simp] theorem tellCensus_free (s : State) (c : Cls) : (s.tellCensus c).free = s.free := rfl
@[simp] theorem tellCensus_pending (s : State) (c : Cls) : (s.tellCensus c).pending = s.pending := rfl

/-! `unlist` -/

@[simp] theorem unlist_phase (s : State) (i : Nat) : (s.unlist i).phase = s.phase := rfl
@[simp] theorem unlist_restartDeferred (s : State) (i : Nat) : (s.unlist i).restartDeferred = s.restartDeferred := rfl
@[simp] theorem unlist_granules (s : State) (i : Nat) : (s.unlist i).granules = s.granules := rfl
@[simp] theorem unlist_marks (s : State) (i : Nat) : (s.unlist i).marks = s.marks := rfl
@[simp] theorem unlist_pool (s : State) (i : Nat) : (s.unlist i).pool = s.pool := rfl
@[simp] theorem unlist_reserved (s : State) (i : Nat) : (s.unlist i).reserved = s.reserved := rfl
@[simp] theorem unlist_bad (s : State) (i : Nat) : (s.unlist i).bad = s.bad := rfl
@[simp] theorem unlist_arb (s : State) (i : Nat) : (s.unlist i).arb = s.arb := rfl
@[simp] theorem unlist_buffers (s : State) (i : Nat) : (s.unlist i).buffers = s.buffers := rfl
@[simp] theorem unlist_queue (s : State) (i : Nat) : (s.unlist i).queue = s.queue := rfl
@[simp] theorem unlist_work (s : State) (i : Nat) : (s.unlist i).work = s.work := rfl
@[simp] theorem unlist_recovery (s : State) (i : Nat) : (s.unlist i).recovery = s.recovery := rfl
@[simp] theorem unlist_holds (s : State) (i : Nat) : (s.unlist i).holds = s.holds := rfl
@[simp] theorem unlist_inhibit (s : State) (i : Nat) : (s.unlist i).inhibit = s.inhibit := rfl
@[simp] theorem unlist_capture (s : State) (i : Nat) : (s.unlist i).capture = s.capture := rfl
@[simp] theorem unlist_census (s : State) (i : Nat) : (s.unlist i).census = s.census := rfl
@[simp] theorem unlist_setup (s : State) (i : Nat) : (s.unlist i).setup = s.setup := rfl
@[simp] theorem unlist_scan (s : State) (i : Nat) : (s.unlist i).scan = s.scan := rfl
@[simp] theorem unlist_portM (s : State) (i : Nat) : (s.unlist i).portM = s.portM := rfl
@[simp] theorem unlist_portS (s : State) (i : Nat) : (s.unlist i).portS = s.portS := rfl
@[simp] theorem unlist_free (s : State) (i : Nat) : (s.unlist i).free = s.free := rfl
@[simp] theorem unlist_pending (s : State) (i : Nat) : (s.unlist i).pending = s.pending := rfl

/-- A port after a change of that port. -/
@[simp] theorem port_modPort_same (s : State) (p : Port) (f : PortState → PortState) :
    (s.modPort p f).port p = f (s.port p) := by cases p <;> rfl

/-- A port after a change of the other port. -/
theorem port_modPort_other (s : State) (p q : Port) (f : PortState → PortState) (h : q ≠ p) :
    (s.modPort p f).port q = s.port q := by cases p <;> cases q <;> first | rfl | exact absurd rfl h

end Sys2Proof.Machine
end

