-- ==== Sys2Proof/Laws/Array.lean ====
section
/-! SUPPORT. The record array and the directory: what is read after each operation that writes them, and that each keeps
the canonical form. -/

namespace Sys2Proof.Machine

/-! ### Addresses -/

theorem Loc.index_inj (l l' : Loc) (h : l.index = l'.index) : l = l' := by
  obtain ⟨p, c⟩ := l
  obtain ⟨p', c'⟩ := l'
  cases p <;> cases p' <;> cases c <;> cases c' <;> simp [Loc.index] at h ⊢ <;> (try split at h) <;> (try split at h) <;>
    omega

theorem granuleKey_inj (l l' : Loc) (g g' : Nat) (hg : g < 8) (hg' : g' < 8)
    (h : granuleKey l g = granuleKey l' g') : l = l' ∧ g = g' := by
  unfold granuleKey at h
  have hl : l.index = l'.index := by omega
  exact ⟨Loc.index_inj _ _ hl, by omega⟩

/-! ### Granules and mark fields -/

/-- What an entry reads as depends on the directory alone. -/
theorem entry_congr {s t : State} (h : t.entries = s.entries) (i : Nat) : t.entry i = s.entry i := by
  simp [State.entry, h]

/-- What a granule reads as depends on the granules alone. -/
theorem granule_congr {s t : State} (h : t.granules = s.granules) (l : Loc) (g : Nat) : t.granule l g = s.granule l g := by
  simp [State.granule, h]

/-- What a mark field reads as depends on the mark fields alone. -/
theorem markField_congr {s t : State} (h : t.marks = s.marks) (l : Loc) : t.markField l = s.markField l := by
  simp [State.markField, h]

@[simp] theorem granule_setGranule_same (s : State) (l : Loc) (g : Nat) (v : Granule) :
    (s.setGranule l g v).granule l g = v := by
  simp [State.granule]

theorem granule_setGranule_other (s : State) (l l' : Loc) (g g' : Nat) (v : Granule)
    (h : granuleKey l' g' ≠ granuleKey l g) : (s.setGranule l g v).granule l' g' = s.granule l' g' := by
  simp only [State.granule, setGranule_granules]
  exact sparseGet_set_other _ _ _ _ _ h

@[simp] theorem markField_setMarkField_same (s : State) (l : Loc) (f : MarkField) :
    (s.setMarkField l f).markField l = f := by
  simp [State.markField]

theorem markField_setMarkField_other (s : State) (l l' : Loc) (f : MarkField) (h : l' ≠ l) :
    (s.setMarkField l f).markField l' = s.markField l' := by
  simp only [State.markField, setMarkField_marks]
  exact sparseGet_set_other _ _ _ _ _ (fun e => h (Loc.index_inj _ _ e))

@[simp] theorem markField_setGranule (s : State) (l l' : Loc) (g : Nat) (v : Granule) :
    (s.setGranule l g v).markField l' = s.markField l' := rfl

@[simp] theorem granule_setMarkField (s : State) (l l' : Loc) (g : Nat) (f : MarkField) :
    (s.setMarkField l f).granule l' g = s.granule l' g := rfl

/-! ### Entries -/

@[simp] theorem entry_setEntry_same (s : State) (i : Nat) (e : Entry) : (s.setEntry i e).entry i = e := by
  simp [State.entry]

theorem entry_setEntry_other (s : State) (i j : Nat) (e : Entry) (h : j ≠ i) :
    (s.setEntry i e).entry j = s.entry j := by
  simp only [State.entry, setEntry_entries]
  exact sparseGet_set_other _ _ _ _ _ h

/-! ### What an operation changes of the array -/

/-- Only the cell at `l` may read otherwise. -/
def OnlyCell (l : Loc) (s t : State) : Prop :=
  ∀ l', l' ≠ l → (∀ g, g < 8 → t.granule l' g = s.granule l' g) ∧ t.markField l' = s.markField l'

theorem OnlyCell.refl (l : Loc) (s : State) : OnlyCell l s s := fun _ _ => ⟨fun _ _ => rfl, rfl⟩

theorem OnlyCell.trans {l : Loc} {s t u : State} (h : OnlyCell l s t) (h' : OnlyCell l t u) : OnlyCell l s u :=
  fun l' hl => ⟨fun g hg => ((h' l' hl).1 g hg).trans ((h l' hl).1 g hg), (h' l' hl).2.trans (h l' hl).2⟩

theorem onlyCell_setGranule (s : State) (l : Loc) (g : Nat) (v : Granule) (hg : g < 8) :
    OnlyCell l s (s.setGranule l g v) := fun _ hl =>
  ⟨fun _ hg' => granule_setGranule_other _ _ _ _ _ _ (fun e => hl (granuleKey_inj _ _ _ _ hg' hg e).1), rfl⟩

theorem onlyCell_setMarkField (s : State) (l : Loc) (f : MarkField) : OnlyCell l s (s.setMarkField l f) :=
  fun _ hl => ⟨fun _ _ => rfl, markField_setMarkField_other _ _ _ _ hl⟩

/-- A bit that changes of itself changes no other cell. -/
theorem onlyCell_upset (s : State) (l : Loc) (u : Upset) : OnlyCell l s (s.upset l u) := by
  cases u with
  | dataBit g b =>
    simp only [State.upset]
    split
    · next h => exact onlyCell_setGranule _ _ _ _ h
    · exact OnlyCell.refl _ _
  | checkBit g k =>
    simp only [State.upset]
    split
    · next h => exact onlyCell_setGranule _ _ _ _ h
    · exact OnlyCell.refl _ _
  | markCopy m k => exact onlyCell_setMarkField _ _ _

theorem onlyCell_upsets (s : State) (l : Loc) (us : List Upset) : OnlyCell l s (s.upsets l us) := by
  unfold State.upsets
  induction us generalizing s with
  | nil => exact OnlyCell.refl _ _
  | cons u us ih => exact (onlyCell_upset s l u).trans (ih _)

/-- An erase changes no other cell. -/
theorem onlyCell_eraseCell (s : State) (l : Loc) : OnlyCell l s (s.eraseCell l) := by
  have h : ∀ (gs : List Nat) (s : State), (∀ g ∈ gs, g < 8) →
      OnlyCell l s (gs.foldl (fun s g => s.setGranule l g Granule.erased) s) := by
    intro gs
    induction gs with
    | nil => exact fun s _ => OnlyCell.refl _ _
    | cons g gs ih =>
      exact fun s hgs => (onlyCell_setGranule s l g _ (hgs g (by simp))).trans
        (ih _ (fun g' hg' => hgs g' (by simp [hg'])))
  exact (h cellGranules s (by decide)).trans (onlyCell_setMarkField _ _ _)

/-! ### The steps of the array -/

/-- A granule program leaves the bitwise AND in its granule (R26). -/
theorem granule_programGranule_same (s : State) (l : Loc) (g : Nat) (d : Data) :
    ((s.programGranule l g d).granule l g).data = (s.granule l g).data &&& d := by
  show (sparseGet factoryGranule (s.setGranule l g _).granules (granuleKey l g)).data = _
  simp [Granule.program]

/-- A first program of an erased granule with one wrong check bit leaves at most that bit wrong, so that the data programmed
is read, CLEAN or CORRECTED (R26, R33). -/
theorem readGuarded_first_program (k : Nat) (new : Data) (tag : Nat) :
    ((⟨erasedData, .matching erasedData [k]⟩ : Granule).program new tag).readGuarded = (.clean, new) ∨
      ((⟨erasedData, .matching erasedData [k]⟩ : Granule).program new tag).readGuarded = (.corrected, new) := by
  have hz : wrongBits 0#256 = 0 := by decide
  have hd : erasedData &&& new = new := by
    rw [show erasedData = BitVec.allOnes 256 from by decide]; exact BitVec.allOnes_and
  by_cases hn : new = erasedData
  · subst hn; right
    simp [Granule.program, programCheck, Granule.readGuarded, hz]
  · cases hk : checkBit new k
    · right; simp [Granule.program, programCheck, Granule.readGuarded, hn, hk, hd, hz]
    · left; simp [Granule.program, programCheck, Granule.readGuarded, hn, hk, hd, hz]

theorem onlyCell_programGranule (s : State) (l : Loc) (g : Nat) (d : Data) (hg : g < 8) :
    OnlyCell l s (s.programGranule l g d) := onlyCell_setGranule s l g _ hg

/-- A mark program sets every copy named (Table 2-3). -/
@[simp] theorem markField_programMarks (s : State) (l : Loc) (m : BitVec 12) :
    (s.programMarks l m).markField l =
      ⟨(s.markField l).copy0 ||| m, (s.markField l).copy1 ||| m, (s.markField l).copy2 ||| m⟩ := by
  simp [State.programMarks]

theorem onlyCell_programMarks (s : State) (l : Loc) (m : BitVec 12) : OnlyCell l s (s.programMarks l m) :=
  onlyCell_setMarkField s l _

/-- After an erase every granule of the cell is erased (Table 2-3). -/
theorem granule_eraseCell (s : State) (l : Loc) (g : Nat) (hg : g < 8) :
    (s.eraseCell l).granule l g = Granule.erased := by
  have key : ∀ (gs : List Nat) (s : State), (∀ x ∈ gs, x < 8) → (g ∈ gs ∨ s.granule l g = Granule.erased) →
      (gs.foldl (fun s g => s.setGranule l g Granule.erased) s).granule l g = Granule.erased := by
    intro gs
    induction gs with
    | nil => exact fun s _ h => h.elim (fun h => absurd h (by simp)) id
    | cons x gs ih =>
      intro s hx h
      refine ih _ (fun y hy => hx y (by simp [hy])) ?_
      by_cases hxg : x = g
      · subst hxg; exact Or.inr (granule_setGranule_same _ _ _ _)
      · rcases h with h | h
        · exact Or.inl (by simpa [Ne.symm hxg] using h)
        · refine Or.inr ?_
          rw [granule_setGranule_other _ _ _ _ _ _ (fun e => hxg
            (granuleKey_inj _ _ _ _ hg (hx x (by simp)) e).2.symm), h]
  have hmem : g ∈ cellGranules := by
    have : g = 0 ∨ g = 1 ∨ g = 2 ∨ g = 3 ∨ g = 4 ∨ g = 5 ∨ g = 6 ∨ g = 7 := by omega
    simpa [cellGranules] using this
  rw [State.eraseCell, granule_setMarkField]
  exact key cellGranules s (by decide) (Or.inl hmem)

/-- After an erase every mark copy of the cell is erased (Table 2-3). -/
@[simp] theorem markField_eraseCell (s : State) (l : Loc) : (s.eraseCell l).markField l = MarkField.erased :=
  markField_setMarkField_same _ _ _

/-! ### The canonical form -/

theorem memoryWf_iff (s : State) : Memory.wf s = true ↔
    granulesWf s.granules = true ∧ marksWf s.marks = true ∧ entriesWf s.entries = true := by
  simp [Memory.wf, and_assoc]

/-- The canonical form depends on three fields only. -/
theorem memoryWf_of_eq {s t : State} (hg : t.granules = s.granules) (hm : t.marks = s.marks)
    (he : t.entries = s.entries) (h : Memory.wf s = true) : Memory.wf t = true := by
  rw [memoryWf_iff] at h ⊢
  rw [hg, hm, he]
  exact h

theorem memoryWf_setGranule (s : State) (l : Loc) (g : Nat) (v : Granule) (h : Memory.wf s = true) :
    Memory.wf (s.setGranule l g v) = true := by
  rw [memoryWf_iff] at h ⊢
  exact ⟨sparseWf_set _ _ _ _ h.1, h.2⟩

theorem memoryWf_setMarkField (s : State) (l : Loc) (f : MarkField) (h : Memory.wf s = true) :
    Memory.wf (s.setMarkField l f) = true := by
  rw [memoryWf_iff] at h ⊢
  exact ⟨h.1, sparseWf_set _ _ _ _ h.2.1, h.2.2⟩

theorem memoryWf_setEntry (s : State) (i : Nat) (e : Entry) (h : Memory.wf s = true) :
    Memory.wf (s.setEntry i e) = true := by
  rw [memoryWf_iff] at h ⊢
  exact ⟨h.1, h.2.1, sparseWf_set _ _ _ _ h.2.2⟩

theorem memoryWf_foldl {β : Type} (f : State → β → State) (hf : ∀ s x, Memory.wf s = true → Memory.wf (f s x) = true)
    (xs : List β) (s : State) (h : Memory.wf s = true) : Memory.wf (xs.foldl f s) = true := by
  induction xs generalizing s with
  | nil => exact h
  | cons x xs ih => exact ih _ (hf _ _ h)

theorem memoryWf_upset (s : State) (l : Loc) (u : Upset) (h : Memory.wf s = true) : Memory.wf (s.upset l u) = true := by
  cases u with
  | dataBit g b =>
    simp only [State.upset]
    split
    · exact memoryWf_setGranule _ _ _ _ h
    · exact h
  | checkBit g k =>
    simp only [State.upset]
    split
    · exact memoryWf_setGranule _ _ _ _ h
    · exact h
  | markCopy m k => exact memoryWf_setMarkField _ _ _ h

theorem memoryWf_upsets (s : State) (l : Loc) (us : List Upset) (h : Memory.wf s = true) :
    Memory.wf (s.upsets l us) = true := memoryWf_foldl _ (fun _ _ => memoryWf_upset _ _ _) _ _ h

theorem memoryWf_programGranule (s : State) (l : Loc) (g : Nat) (d : Data) (h : Memory.wf s = true) :
    Memory.wf (s.programGranule l g d) = true := memoryWf_setGranule s l g _ h

theorem memoryWf_programMarks (s : State) (l : Loc) (m : BitVec 12) (h : Memory.wf s = true) :
    Memory.wf (s.programMarks l m) = true := memoryWf_setMarkField _ _ _ h

theorem memoryWf_eraseCell (s : State) (l : Loc) (h : Memory.wf s = true) : Memory.wf (s.eraseCell l) = true :=
  memoryWf_setMarkField _ _ _ (memoryWf_foldl _ (fun _ _ => memoryWf_setGranule _ _ _ _) _ _ h)

/-- Check bits that the step would not have changed are left, whichever of them it had reached (R47). -/
@[simp] theorem withBitsOf_self (c : CheckBits) (ks : List Nat) (tag : Nat) : c.withBitsOf c ks tag = c := by
  simp [CheckBits.withBitsOf]

/-- An abandoned step leaves a granule that it would not have changed as it was (R47). -/
@[simp] theorem interrupted_self (g : Granule) (r : GranuleResidue) (tag : Nat) : g.interrupted g r tag = g := by
  have h : ∀ m d : Data, mixBits m d d = d := by
    intro m d
    ext i hi
    simp only [mixBits, BitVec.getElem_or, BitVec.getElem_and, BitVec.getElem_not]
    cases d[i] <;> cases m[i] <;> rfl
  obtain ⟨d, c⟩ := g
  simp only [Granule.interrupted, h]
  cases r.check <;> simp

theorem memoryWf_interruptGranule (s : State) (l : Loc) (new : Granule → Granule) (r : GranuleResidue)
    (h : Memory.wf s = true) : Memory.wf (s.interruptGranule l new r) = true := memoryWf_setGranule s l r.granule _ h

theorem memoryWf_abandonStep (s : State) (r : Residue) (st : EngineStep) (h : Memory.wf s = true) :
    Memory.wf (s.abandonStep r st) = true := by
  cases st with
  | read l g e => exact h
  | program l g d => exact memoryWf_foldl _ (fun _ _ => memoryWf_interruptGranule _ _ _ _) _ _ h
  | mark l m => exact memoryWf_setMarkField _ _ _ h
  | erase l => exact memoryWf_setMarkField _ _ _ (memoryWf_foldl _ (fun _ _ => memoryWf_interruptGranule _ _ _ _) _ _ h)

end Sys2Proof.Machine
end

