-- ==== Sys2Proof/Laws/Frames.lean ====
section
/-! SUPPORT. What the shared operations leave alone: the array and the queue of waiting commands, said once for each
operation, so that a proof about a command cites it instead of unfolding the operation. -/

namespace Sys2Proof.Machine

/-- The array and the queue of waiting commands are the same. -/
abbrev Same (s t : State) : Prop := t.granules = s.granules ∧ t.marks = s.marks ∧ t.pending = s.pending

/-! ### Directory, ports, monitor, census -/

@[simp] theorem same_modLive (s : State) (i : Nat) (f : Live → Live) : Same s (s.modLive i f) := ⟨rfl, rfl, rfl⟩

@[simp] theorem same_answer (s : State) (p : Port) (st : Status) (d : Bytes) : Same s (s.answer p st d) :=
  ⟨rfl, rfl, rfl⟩

@[simp] theorem same_refuse (s : State) (p : Port) (st : Status) : Same s (s.refuse p st) := ⟨rfl, rfl, rfl⟩

@[simp] theorem same_setFlag (s : State) (p : Port) (e : Event) : Same s (s.setFlag p e) := ⟨rfl, rfl, rfl⟩

@[simp] theorem same_clearFlags (s : State) (p : Port) (m : Byte) : Same s (s.clearFlags p m) := ⟨rfl, rfl, rfl⟩

@[simp] theorem same_raiseJobs (s : State) (i : Nat) : Same s (s.raiseJobs i) := ⟨rfl, rfl, rfl⟩

@[simp] theorem same_lowerJobs (s : State) (i : Nat) : Same s (s.lowerJobs i) := ⟨rfl, rfl, rfl⟩

@[simp] theorem same_freeEntry (s : State) (i : Nat) : Same s (s.freeEntry i) := ⟨rfl, rfl, rfl⟩

@[simp] theorem same_allocate (s : State) (i : Nat) (k : Key) (c : Cls) : Same s (s.allocate i k c) := ⟨rfl, rfl, rfl⟩

@[simp] theorem same_setDamaged (s : State) (i : Nat) : Same s (s.setDamaged i) := ⟨rfl, rfl, rfl⟩

@[simp] theorem same_nominate (s : State) (i : Nat) : Same s (s.nominate i) := by
  unfold State.nominate
  split <;> exact ⟨rfl, rfl, rfl⟩

@[simp] theorem same_reportEntry (s : State) (r : Report) : Same s (s.reportEntry r) := by
  unfold State.reportEntry
  repeat' split
  all_goals simp [Same]

@[simp] theorem same_reportEvent (s : State) (r : Report) : Same s (s.reportEvent r) := by
  unfold State.reportEvent
  split <;> exact ⟨rfl, rfl, rfl⟩

@[simp] theorem same_report (s : State) (r : Report) : Same s (s.report r) := by
  simp [Same, State.report]

@[simp] theorem same_takeUp (s : State) (c : CensusRun) : Same s (s.takeUp c) := by
  unfold State.takeUp
  split <;> exact ⟨rfl, rfl, rfl⟩

@[simp] theorem same_grantCensus (s : State) (c : CensusClaim) : Same s (s.grantCensus c) := by
  simp only [Same, State.grantCensus]
  repeat' split
  all_goals simp

@[simp] theorem same_censusRead (s : State) (g : Nat) (r : Outcome × Data) : Same s (s.censusRead g r) := by
  simp only [Same, State.censusRead]
  repeat' split
  all_goals simp

/-- An entry that leaves the refresh list is not on it, even when the removal is taken together with a sweep (R118,
R119). -/
theorem not_mem_unlist (s : State) (i : Nat) : i ∉ (s.unlist i).refresh.list := by
  simp only [State.unlist, RefreshList.remove]
  split
  · split
    · intro hm
      have h2 := (List.mem_filter.mp (List.mem_of_mem_take hm)).2
      revert h2
      simp only [Entry.wanted, State.modLive, State.entry, State.setEntry, sparseGet_set_same, Entry.mapLive]
      cases hb : (sparseGet homeEntry s.entries i).body <;> simp [hb]
    · simp
  · next h => simpa using h

/-! ### The arbiter -/

@[simp] theorem same_suspendFor (s : State) : Same s s.suspendFor := by
  unfold State.suspendFor
  repeat' split
  all_goals exact ⟨rfl, rfl, rfl⟩

@[simp] theorem same_grantRead (s : State) (p : Port) (c : ReadClaim) : Same s (s.grantRead p c) := by
  simp only [Same, State.grantRead]
  repeat' split
  all_goals simp

@[simp] theorem same_grantEngine (s : State) (st : EngineStep) : Same s (s.grantEngine st) := by
  simp [Same, State.grantEngine]

@[simp] theorem same_resume (s : State) (sp : Suspended) : Same s (s.resume sp) := by
  simp [Same, State.resume]

@[simp] theorem same_grantFree (s : State) (b : Bool) : Same s (s.grantFree b) := by
  simp only [Same, State.grantFree]
  repeat' split
  all_goals simp

@[simp] theorem same_grantBoundary (s : State) (b : Boundary) : Same s (s.grantBoundary b) := by
  simp only [Same, State.grantBoundary]
  repeat' split
  all_goals simp

@[simp] theorem same_arbiterMove (s : State) (b : Bool) : Same s (s.arbiterMove b) := by
  simp only [Same, State.arbiterMove]
  repeat' split
  all_goals simp

@[simp] theorem same_grants (b : Bool) (n : Nat) (s : State) : Same s (State.grants b n s) := by
  induction n generalizing s with
  | zero => exact ⟨rfl, rfl, rfl⟩
  | succ n ih =>
    unfold State.grants
    split
    · exact ⟨rfl, rfl, rfl⟩
    · simp [Same, ih]

@[simp] theorem same_grant (s : State) : Same s s.grant := same_grants _ _ _

@[simp] theorem same_grantAfterCensus (s : State) : Same s s.grantAfterCensus := same_grants _ _ _

@[simp] theorem same_claimRead (s : State) (p : Port) (c : ReadClaim) : Same s (s.claimRead p c) := by
  simp [Same, State.claimRead]

@[simp] theorem same_stepBoundary (s : State) : Same s s.stepBoundary := by
  unfold State.stepBoundary
  split <;> simp [Same]

/-! ### Taking a frame -/

/-- A command leaves the array and the queue alone when its action does. -/
theorem same_arrive (s : State) (p : Port) (t : State) (h : Same s t) : Same s (s.arrive p t) := by
  unfold State.arrive
  repeat' split
  · exact ⟨rfl, rfl, rfl⟩
  · exact same_setFlag _ _ _
  · exact h

/-- A command leaves the array and the queue alone when its action does. -/
theorem same_command {α : Type} (s : State) (p : Port) (args : Option α) (act : α → State)
    (h : ∀ a, Same s (act a)) : Same s (s.command p args act) := by
  refine same_arrive _ _ _ ?_
  repeat' split
  · exact same_refuse _ _ _
  · exact same_refuse _ _ _
  · exact h _

theorem same_unless (s : State) (p : Port) (f : Option Status) (t : State) (h : Same s t) : Same s (s.unless p f t) := by
  unfold State.unless
  split
  · exact same_refuse _ _ _
  · exact h

/-! ### Jobs -/

@[simp] theorem same_pushResult (s : State) (p : Port) (r : ResultRecord) : Same s (s.pushResult p r) := ⟨rfl, rfl, rfl⟩

@[simp] theorem same_emptyBufferOf (s : State) (b : JobBody) : Same s (s.emptyBufferOf b) := by
  unfold State.emptyBufferOf
  split <;> exact ⟨rfl, rfl, rfl⟩

@[simp] theorem same_lowerJobsOf (s : State) (b : JobBody) : Same s (s.lowerJobsOf b) := by
  unfold State.lowerJobsOf
  split <;> exact ⟨rfl, rfl, rfl⟩

@[simp] theorem same_freeNascent (s : State) (b : JobBody) (r : JobResult) : Same s (s.freeNascent b r) := by
  unfold State.freeNascent
  repeat' split
  all_goals exact ⟨rfl, rfl, rfl⟩

@[simp] theorem same_completeJob (s : State) (j : Job) (r : JobResult) (g : Option Gen) (x : Bool) :
    Same s (s.completeJob j r g x) := by
  simp [Same, State.completeJob]

@[simp] theorem same_enqueue (s : State) (p : Port) (b : JobBody) : Same s (s.enqueue p b) := ⟨rfl, rfl, rfl⟩

@[simp] theorem same_coalesce (s : State) (p : Port) (b : JobBody) (j : Job) : Same s (s.coalesce p b j) := by
  simp [Same, State.coalesce]

@[simp] theorem same_acceptCommit (s : State) (p : Port) (t : Target) (a : CommitArgs) (b : Fin 8) :
    Same s (s.acceptCommit p t a b) := by
  simp only [Same, State.acceptCommit]
  repeat' split
  all_goals simp

end Sys2Proof.Machine
end

