-- ==== Sys2Proof/Laws/Arbiter.lean ====
section
/-! SUPPORT. What the arbiter does in its plain cases: nobody waits, one claimant waits for a free array, the engine
waits at a step boundary alone. And what one grant does where several wait. -/

namespace Sys2Proof.Machine

/-- The arbiter makes no grant while the array has a user. -/
theorem grants_of_user (e : Bool) (n : Nat) (s : State) (h : s.arb.user.isSome = true) : State.grants e n s = s := by
  cases n <;> simp [State.grants, h]

/-- Nobody waits, and nothing is owed. -/
abbrev Arbiter.quiet (a : Arbiter) : Prop :=
  a.suspended = none ∧ a.waitM = none ∧ a.waitS = none ∧ a.waitCensus = none ∧ a.waitEngine = none

/-- Without waiting READs no port waits. -/
theorem waitingPorts_nil (a : Arbiter) (hm : a.waitM = none) (hs : a.waitS = none) : a.waitingPorts = [] := by
  unfold Arbiter.waitingPorts Arbiter.portOrder
  cases h : a.lastPort <;> simp [Arbiter.waiting, otherPort, hm, hs]

/-- A port alone waits. -/
theorem waitingPorts_one (a : Arbiter) (p : Port) (c : ReadClaim) (h : a.waiting p = some c)
    (ho : a.waiting (otherPort p) = none) : a.waitingPorts = [p] := by
  unfold Arbiter.waitingPorts Arbiter.portOrder
  cases p <;> cases hl : a.lastPort <;> simp_all [Arbiter.waiting, otherPort]

/-- A quiet arbiter that owes no boundary grants nothing. -/
theorem grants_quiet (e : Bool) (n : Nat) (s : State) (h : s.arb.quiet) (hb : s.arb.boundary = none) :
    State.grants e n s = s := by
  induction n with
  | zero => rfl
  | succ n ih =>
    have hw := waitingPorts_nil s.arb h.2.1 h.2.2.1
    cases hu : s.arb.user <;>
      simp [State.grants, State.arbiterMove, State.grantFree, hu, h.1, h.2.2.2.1, h.2.2.2.2, hb, hw, ih]

/-- On a free array that nobody waits for the arbiter grants nothing. -/
theorem grant_free (s : State) (h : s.arrayFree) : s.grant = s :=
  grants_quiet _ _ _ ⟨h.2.1, h.2.2.2.1, h.2.2.2.2.1, h.2.2.2.2.2.1, h.2.2.2.2.2.2⟩ h.2.2.1

/-- Nothing suspends a step that no READ waits for. -/
theorem suspendFor_quiet (s : State) (hm : s.arb.waitM = none) (hs : s.arb.waitS = none) : s.suspendFor = s := by
  have hw := waitingPorts_nil s.arb hm hs
  unfold State.suspendFor
  split <;> simp [hw]

/-- The engine, waiting alone, is granted its step. -/
theorem grantEngine_alone (s : State) (step : EngineStep) (hm : s.arb.waitM = none) (hs : s.arb.waitS = none) :
    s.grantEngine step =
      { s with arb := { s.arb with waitEngine := none, user := some (.engine step), suspCount := 0, boundary := none } } :=
  suspendFor_quiet _ hm hs

/-- While the array has no user the arbiter moves. -/
theorem grants_succ (e : Bool) (n : Nat) (s : State) (h : s.arb.user = none) :
    State.grants e (n + 1) s = State.grants e n (s.arbiterMove e) := by
  simp [State.grants, h]

/-- On a free array with the engine alone waiting, the arbiter's move is the engine's grant. -/
theorem arbiterMove_engine (e : Bool) (s : State) (step : EngineStep) (hu : s.arb.user = none)
    (hsu : s.arb.suspended = none) (hb : s.arb.boundary = none) (hm : s.arb.waitM = none) (hs : s.arb.waitS = none)
    (hc : s.arb.waitCensus = none) (he : s.arb.waitEngine = some step) :
    s.arbiterMove e = s.grantEngine step := by
  simp only [State.arbiterMove, hu, hsu, hb, State.grantFree, waitingPorts_nil s.arb hm hs, hc, he]

/-- At a step boundary with the engine alone waiting, the arbiter's move is the engine's grant. -/
theorem arbiterMove_boundary (e : Bool) (s : State) (b : Boundary) (step : EngineStep) (hu : s.arb.user = none)
    (hsu : s.arb.suspended = none) (hb : s.arb.boundary = some b) (hm : s.arb.waitM = none) (hs : s.arb.waitS = none)
    (hc : s.arb.waitCensus = none) (he : s.arb.waitEngine = some step) :
    s.arbiterMove e = { s with arb := { s.arb with boundary := some ⟨[], false⟩ } }.grantEngine step := by
  simp only [State.arbiterMove, hu, hsu, hb, State.grantBoundary, waitingPorts_nil s.arb hm hs, List.find?_nil, hc, he]
  cases b.census <;> rfl

/-- At a step boundary with nobody waiting, the arbiter's move ends the boundary. -/
theorem arbiterMove_boundary_end (e : Bool) (s : State) (b : Boundary) (hu : s.arb.user = none)
    (hsu : s.arb.suspended = none) (hb : s.arb.boundary = some b) (hm : s.arb.waitM = none) (hs : s.arb.waitS = none)
    (hc : s.arb.waitCensus = none) (he : s.arb.waitEngine = none) :
    s.arbiterMove e = { s with arb := { s.arb with boundary := none } } := by
  simp only [State.arbiterMove, hu, hsu, hb, State.grantBoundary, waitingPorts_nil s.arb hm hs, List.find?_nil, hc, he]
  cases b.census <;> rfl

/-- The engine claims a step of a free array that nobody else waits for: it is granted. -/
theorem grant_claims (s : State) (w : Work) (step : EngineStep) (h : s.arrayFree) :
    (s.claims w step).grant =
      { s with work := w, arb := { s.arb with user := some (.engine step), suspCount := 0 } } := by
  obtain ⟨hu, hsu, hb, hm, hs, hc, he⟩ := h
  rw [State.grant, grantMoves, grants_succ _ _ _ (by exact hu),
    arbiterMove_engine _ _ step (by exact hu) (by exact hsu) (by exact hb) (by exact hm) (by exact hs) (by exact hc) rfl,
    grantEngine_alone _ _ (by exact hm) (by exact hs), grants_of_user _ _ _ rfl]
  simp [State.claims, State.claimStep, hb, he]

/-- A step boundary at which the engine alone waits: its next step is granted. -/
theorem stepBoundary_claims (s : State) (w : Work) (step : EngineStep) (h : s.arrayFree) :
    (s.claims w step).stepBoundary =
      { s with work := w, arb := { s.arb with user := some (.engine step), suspCount := 0 } } := by
  obtain ⟨hu, hsu, hb, hm, hs, hc, he⟩ := h
  rw [State.stepBoundary, if_pos (by rfl), State.grant, grantMoves, grants_succ _ _ _ (by exact hu),
    arbiterMove_boundary _ _ _ step (by exact hu) (by exact hsu) rfl (by exact hm) (by exact hs) (by exact hc) rfl,
    grantEngine_alone _ _ (by exact hm) (by exact hs), grants_of_user _ _ _ rfl]
  simp [State.claims, State.claimStep, hb, he]

/-- A step boundary at which nobody waits ends without a grant. -/
theorem stepBoundary_quiet (s : State) (h : s.arrayFree) : s.stepBoundary = s := by
  obtain ⟨hu, hsu, hb, hm, hs, hc, he⟩ := h
  unfold State.stepBoundary
  split
  · rw [State.grant, grantMoves, grants_succ _ _ _ (by exact hu),
      arbiterMove_boundary_end _ _ _ (by exact hu) (by exact hsu) rfl (by exact hm) (by exact hs) (by exact hc)
        (by exact he)]
    refine (grants_quiet _ _ _ (by exact ⟨hsu, hm, hs, hc, he⟩) rfl).trans ?_
    exact congrArg (fun b => { s with arb := { s.arb with boundary := b } }) hb.symm
  · exact grants_quiet _ _ _ ⟨hsu, hm, hs, hc, he⟩ hb

/-! ### One grant -/

/-- While no step is suspended and no boundary is owed the arbiter moves by R41. -/
theorem arbiterMove_free (e : Bool) (s : State) (hu : s.arb.user = none) (hs : s.arb.suspended = none)
    (hb : s.arb.boundary = none) : s.arbiterMove e = s.grantFree e := by
  simp only [State.arbiterMove, hu, hs, hb]

/-- At a step boundary the arbiter moves by R42. -/
theorem arbiterMove_owed (e : Bool) (s : State) (b : Boundary) (hu : s.arb.user = none) (hs : s.arb.suspended = none)
    (hb : s.arb.boundary = some b) : s.arbiterMove e = s.grantBoundary b := by
  simp only [State.arbiterMove, hu, hs, hb]

/-- On a free array with the census alone waiting, its read is granted (R41). -/
theorem grantFree_census (e : Bool) (s : State) (c : CensusClaim) (hm : s.arb.waitM = none) (hs : s.arb.waitS = none)
    (hc : s.arb.waitCensus = some c) (he : s.arb.waitEngine = none) : s.grantFree e = s.grantCensus c := by
  simp only [State.grantFree, waitingPorts_nil s.arb hm hs, hc, he]

/-- In a suspension with a READ to grant the arbiter grants it (R43). -/
theorem arbiterMove_suspended (e : Bool) (s : State) (sp : Suspended) (p : Port) (c : ReadClaim) (hu : s.arb.user = none)
    (hs : s.arb.suspended = some sp) (hn : s.arb.nextInSuspension sp = some p) (hw : s.arb.waiting p = some c) :
    s.arbiterMove e = s.grantRead p c := by
  simp only [State.arbiterMove, hu, hs, hn, hw]

/-- In a suspension without a READ to grant the step resumes (R44). -/
theorem arbiterMove_resumes (e : Bool) (s : State) (sp : Suspended) (hu : s.arb.user = none)
    (hs : s.arb.suspended = some sp) (hn : s.arb.nextInSuspension sp = none) : s.arbiterMove e = s.resume sp := by
  simp only [State.arbiterMove, hu, hs, hn]

/-- The grant of a READ of a LIVE entry, within its record: the port holds the array (R38). -/
theorem grantRead_live (s : State) (p : Port) (c : ReadClaim) (l : Live) (pair n : Nat)
    (he : s.entry c.entry = ⟨.live l, some pair, n⟩) (ho : c.offset < l.length) :
    s.grantRead p c =
      { s with
        arb := { s.arb.setWaiting p none with
          lastPort := p
          suspended := s.arb.suspended.map (fun sp => { sp with granted := p :: sp.granted })
          boundary := s.arb.boundary.map (fun b => { b with ports := b.ports.filter (fun q => q != p) })
          user := some (.port ⟨p, c.entry, Loc.num pair l.cell, l.gen, c.offset, min c.count (l.length - c.offset)⟩) } } := by
  simp only [State.grantRead, he, Entry.currentLoc, ho, if_true]

/-- The grant of the header read of an entry that is LIVE (R144). -/
theorem grantCensus_header (s : State) (c : CensusRun) (i : Nat) (l : Live) (pair n : Nat) (hc : s.census = some c)
    (he : s.entry i = ⟨.live l, some pair, n⟩) :
    s.grantCensus (.header i) =
      { s with
        census := some { c with current := some (CensusEntry.of i l (Loc.num pair l.cell)) }
        arb := { s.arb with waitCensus := none, user := some (.census (Loc.num pair l.cell) 0 i true) } } := by
  simp only [State.grantCensus, hc, he, Entry.currentLoc]

/-- The grant of the header read of an entry that is no longer LIVE (R144). -/
theorem grantCensus_gone (s : State) (c : CensusRun) (i : Nat) (hc : s.census = some c)
    (he : ∀ l, (s.entry i).body ≠ .live l) :
    s.grantCensus (.header i) = { s with arb := { s.arb with waitCensus := none } }.takeUp c := by
  simp only [State.grantCensus, hc]
  split
  · next l _ hl _ => exact absurd hl (he l)
  · rfl

/-- The grant of a data granule of the entry recorded (R144). -/
theorem grantCensus_data (s : State) (c : CensusRun) (g : Nat) (e : CensusEntry) (hc : s.census = some c)
    (he : c.current = some e) :
    s.grantCensus (.data g) =
      { s with arb := { s.arb with waitCensus := none, user := some (.census e.loc g e.entry true) } } := by
  simp only [State.grantCensus, hc, he]

/-- A move of the arbiter that gives the array a user is the whole grant. -/
theorem grants_one (e : Bool) (n : Nat) (s t : State) (h : s.arb.user = none) (ht : s.arbiterMove e = t)
    (hu : t.arb.user.isSome = true) : State.grants e (n + 1) s = t := by
  rw [grants_succ _ _ _ h, ht, grants_of_user _ _ _ hu]

/-! ### Several that wait -/

theorem waiting_setWaiting_same (a : Arbiter) (p : Port) (c : Option ReadClaim) : (a.setWaiting p c).waiting p = c := by
  cases p <;> rfl

theorem waiting_setWaiting_other (a : Arbiter) (p : Port) (c : Option ReadClaim) :
    (a.setWaiting p c).waiting (otherPort p) = a.waiting (otherPort p) := by
  cases p <;> rfl

theorem mem_waitingPorts (a : Arbiter) (p : Port) : p ∈ a.waitingPorts ↔ (a.waiting p).isSome = true := by
  unfold Arbiter.waitingPorts Arbiter.portOrder
  cases h : a.lastPort <;> cases p <;> simp [otherPort]

/-- The READ granted first waits for the port that is not the last-granted one, or waits alone (R41). -/
theorem waitingPorts_first (a : Arbiter) (p : Port) (c : ReadClaim) (h : a.waiting p = some c)
    (ho : a.waiting (otherPort p) = none ∨ a.lastPort ≠ p) :
    a.waitingPorts = p :: (if a.waiting (otherPort p) = none then [] else [otherPort p]) := by
  by_cases hn : a.waiting (otherPort p) = none
  · rw [waitingPorts_one a p c h hn, if_pos hn]
  · have hl := ho.resolve_left hn
    have ho' : (a.waiting (otherPort p)).isSome = true := Option.isSome_iff_ne_none.2 hn
    have hp : (a.waiting p).isSome = true := by rw [h]; rfl
    rw [if_neg hn, Arbiter.waitingPorts, Arbiter.portOrder]
    cases p <;> cases hq : a.lastPort <;> first | exact absurd hq hl | simp_all [otherPort]

/-- A step that has spent its budget, or that no READ of another cell waits for, is not suspended (R43). -/
theorem suspendFor_not (s : State) (step : EngineStep) (hu : s.arb.user = some (.engine step))
    (h : step.budget ≤ s.arb.suspCount ∨ ∀ p c, s.arb.waiting p = some c → c.loc = step.loc) : s.suspendFor = s := by
  unfold State.suspendFor
  rw [hu]
  dsimp only
  rw [if_neg]
  rintro ⟨h1, h2⟩
  rcases h with h | h
  · omega
  · rw [List.any_eq_true] at h2
    obtain ⟨p, hp, h2⟩ := h2
    unfold Arbiter.readsElsewhere at h2
    cases hw : s.arb.waiting p with
    | none => simp [hw] at h2
    | some c => simp [hw, h p c hw] at h2

/-- A step within its budget is suspended by a READ of another cell (R43). -/
theorem suspendFor_does (s : State) (step : EngineStep) (p : Port) (c : ReadClaim)
    (hu : s.arb.user = some (.engine step)) (hc : s.arb.suspCount < step.budget) (hw : s.arb.waiting p = some c)
    (hl : c.loc ≠ step.loc) :
    s.suspendFor = { s with
      arb := { s.arb with
        user := none
        suspended := some ⟨step, Config.suspendProgress s.free, []⟩
        suspCount := s.arb.suspCount + 1 }
      free := s.free + 1 } := by
  unfold State.suspendFor
  rw [hu]
  dsimp only
  rw [if_pos]
  refine ⟨hc, List.any_eq_true.2 ⟨p, (mem_waitingPorts _ _).2 (by rw [hw]; rfl), ?_⟩⟩
  simp [Arbiter.readsElsewhere, hw, hl]

/-- A READ of another cell that waits alone, of a port not yet granted, is the next of a suspension (R43). -/
theorem nextInSuspension_one (a : Arbiter) (sp : Suspended) (p : Port) (c : ReadClaim) (hw : a.waiting p = some c)
    (ho : a.waiting (otherPort p) = none) (hg : p ∉ sp.granted) (hl : c.loc ≠ sp.step.loc) :
    a.nextInSuspension sp = some p := by
  unfold Arbiter.nextInSuspension
  rw [waitingPorts_one a p c hw ho]
  simp [hg, Arbiter.readsElsewhere, hw, hl]

/-- No READ is the next of a suspension when each that waits is of a port granted or of the step's cell (R43). -/
theorem nextInSuspension_none (a : Arbiter) (sp : Suspended)
    (h : ∀ p c, a.waiting p = some c → p ∈ sp.granted ∨ c.loc = sp.step.loc) : a.nextInSuspension sp = none := by
  unfold Arbiter.nextInSuspension
  rw [List.find?_eq_none]
  intro p hp
  rw [mem_waitingPorts] at hp
  obtain ⟨c, hc⟩ := Option.isSome_iff_exists.1 hp
  rcases h p c hc with h | h <;> simp [h, Arbiter.readsElsewhere, hc]

/-- A READ that may not suspend the engine's step in progress waits (R43). -/
theorem claimRead_waits (s : State) (p : Port) (c : ReadClaim) (step : EngineStep)
    (hu : s.arb.user = some (.engine step))
    (h : step.budget ≤ s.arb.suspCount ∨ ∀ q r, (s.arb.setWaiting p (some c)).waiting q = some r → r.loc = step.loc) :
    s.claimRead p c = { s with arb := s.arb.setWaiting p (some c) } := by
  have hs : ({ s with arb := s.arb.setWaiting p (some c) } : State).suspendFor =
      { s with arb := s.arb.setWaiting p (some c) } := suspendFor_not _ step hu h
  rw [State.claimRead, hs]
  exact grants_of_user _ _ _ (by show s.arb.user.isSome = true; rw [hu]; rfl)

/-- A READ that meets the array in the hands of a port or of the census waits (R41). -/
theorem claimRead_waits_other (s : State) (p : Port) (c : ReadClaim) (u : User) (hu : s.arb.user = some u)
    (h : ∀ step, u ≠ .engine step) : s.claimRead p c = { s with arb := s.arb.setWaiting p (some c) } := by
  have hs : ({ s with arb := s.arb.setWaiting p (some c) } : State).suspendFor =
      { s with arb := s.arb.setWaiting p (some c) } := by
    unfold State.suspendFor
    rw [show ({ s with arb := s.arb.setWaiting p (some c) } : State).arb.user = some u from hu]
    cases u <;> first | rfl | exact absurd rfl (h _)
  rw [State.claimRead, hs]
  exact grants_of_user _ _ _ (by show s.arb.user.isSome = true; rw [hu]; rfl)

/-- At a step boundary the engine's next step is granted once no READ that waited at the boundary is left, and no census
read (R42). -/
theorem grantBoundary_engine (s : State) (b : Boundary) (step : EngineStep)
    (hf : s.arb.waitingPorts.find? (fun p => b.ports.contains p) = none)
    (hc : b.census = false ∨ s.arb.waitCensus = none) (he : s.arb.waitEngine = some step) :
    s.grantBoundary b = { s with arb := { s.arb with boundary := some ⟨[], false⟩ } }.grantEngine step := by
  simp only [State.grantBoundary, hf]
  split
  · next h1 h2 => rcases hc with h | h <;> simp_all
  · next h _ => rw [he] at h; cases h; rfl
  · next h _ => rw [he] at h; cases h

end Sys2Proof.Machine
end

