-- ==== Sys2Proof/Laws/Touches.lean ====
section
/-! SUPPORT. Which fields the shared operations can touch at all, said once for each: the upsets, the monitor and the
arbiter. -/

namespace Sys2Proof.Machine

/-- Upsets touch the array alone. -/
theorem upsets_touches (s : State) (l : Loc) (us : List Upset) :
    ∃ g m, s.upsets l us = { s with granules := g, marks := m } := by
  induction us generalizing s with
  | nil => exact ⟨_, _, rfl⟩
  | cons u us ih =>
    have h : ∃ g m, s.upset l u = { s with granules := g, marks := m } := by
      cases u <;> simp only [State.upset]
      · split <;> exact ⟨_, _, rfl⟩
      · split <;> exact ⟨_, _, rfl⟩
      · exact ⟨_, _, rfl⟩
    obtain ⟨g, m, h⟩ := h
    obtain ⟨g', m', h'⟩ := ih (s.upset l u)
    refine ⟨g', m', ?_⟩
    show (s.upset l u).upsets l us = _
    rw [h', h]

/-- A report takes its place in the capture record, and beside that touches the directory, the refresh list and the event
flags alone. -/
theorem report_touches (s : State) (r : Report) :
    ∃ es rl fm fs, s.report r =
      { s with
        capture := s.capture.take r, entries := es, refresh := rl
        portM := { s.portM with flags := fm }
        portS := { s.portS with flags := fs } } := by
  have h : ∃ es rl, ({ s with capture := s.capture.take r } : State).reportEntry r =
      { s with capture := s.capture.take r, entries := es, refresh := rl } := by
    simp only [State.reportEntry]
    repeat' split
    all_goals try simp only [State.nominate]
    all_goals repeat' split
    all_goals exact ⟨_, _, rfl⟩
  obtain ⟨es, rl, h⟩ := h
  simp only [State.report, h, State.reportEvent]
  split <;> exact ⟨es, rl, _, _, rfl⟩

/-- The taking up of an entry by the census touches the census, the waiting claims and the event flags. -/
theorem takeUp_touches (s : State) (c : CensusRun) :
    ∃ a cn pm ps, s.takeUp c = { s with arb := a, census := cn, portM := pm, portS := ps } := by
  unfold State.takeUp
  split <;> exact ⟨_, _, _, _, rfl⟩

/-- A grant of the census touches the census, the arbiter and the event flags. -/
theorem grantCensus_touches (s : State) (claim : CensusClaim) :
    ∃ a cn pm ps, s.grantCensus claim = { s with arb := a, census := cn, portM := pm, portS := ps } := by
  simp only [State.grantCensus]
  repeat' split
  all_goals first
    | exact takeUp_touches _ _
    | exact ⟨_, _, _, _, rfl⟩

/-- A suspension touches the arbiter and the counter of free values. -/
theorem suspendFor_touches (s : State) : ∃ a f, s.suspendFor = { s with arb := a, free := f } := by
  unfold State.suspendFor
  repeat' split
  all_goals exact ⟨_, _, rfl⟩

/-- The grant of a READ touches the arbiter and the response slots. -/
theorem grantRead_touches (s : State) (p : Port) (c : ReadClaim) :
    ∃ a pm ps, s.grantRead p c = { s with arb := a, portM := pm, portS := ps } := by
  simp only [State.grantRead]
  repeat' split
  all_goals exact ⟨_, _, _, rfl⟩

/-- What a move of the arbiter can touch. -/
abbrev ArbiterOnly (s t : State) : Prop :=
  ∃ a cn pm ps f, t = { s with arb := a, census := cn, portM := pm, portS := ps, free := f }

theorem ArbiterOnly.refl (s : State) : ArbiterOnly s s := ⟨_, _, _, _, _, rfl⟩

theorem ArbiterOnly.trans {s t u : State} (h : ArbiterOnly s t) (h' : ArbiterOnly t u) : ArbiterOnly s u := by
  obtain ⟨_, _, _, _, _, rfl⟩ := h
  obtain ⟨a, cn, pm, ps, f, rfl⟩ := h'
  exact ⟨a, cn, pm, ps, f, rfl⟩

theorem arbiterOnly_grantRead (s : State) (p : Port) (c : ReadClaim) : ArbiterOnly s (s.grantRead p c) := by
  obtain ⟨a, pm, ps, h⟩ := grantRead_touches s p c
  exact ⟨a, s.census, pm, ps, s.free, by rw [h]⟩

theorem arbiterOnly_grantCensus (s : State) (c : CensusClaim) : ArbiterOnly s (s.grantCensus c) := by
  obtain ⟨a, cn, pm, ps, h⟩ := grantCensus_touches s c
  exact ⟨a, cn, pm, ps, s.free, by rw [h]⟩

theorem arbiterOnly_suspendFor (s : State) : ArbiterOnly s s.suspendFor := by
  obtain ⟨a, f, h⟩ := suspendFor_touches s
  exact ⟨a, s.census, s.portM, s.portS, f, by rw [h]⟩

theorem arbiterOnly_arb (s : State) (a : Arbiter) : ArbiterOnly s { s with arb := a } := ⟨a, _, _, _, _, rfl⟩

theorem arbiterOnly_grantEngine (s : State) (st : EngineStep) : ArbiterOnly s (s.grantEngine st) :=
  (arbiterOnly_arb s _).trans (arbiterOnly_suspendFor _)

/-- A move of the arbiter touches the arbiter, the census, the ports and the counter of free values alone. -/
theorem arbiterOnly_arbiterMove (s : State) (e : Bool) : ArbiterOnly s (s.arbiterMove e) := by
  simp only [State.arbiterMove, State.resume, State.grantBoundary, State.grantFree]
  repeat' split
  all_goals first
    | exact ArbiterOnly.refl s
    | exact arbiterOnly_grantRead s _ _
    | exact arbiterOnly_grantCensus s _
    | exact arbiterOnly_grantEngine s _
    | exact arbiterOnly_arb s _
    | exact (arbiterOnly_arb s _).trans (arbiterOnly_suspendFor _)
    | exact (arbiterOnly_arb s _).trans (arbiterOnly_grantCensus _ _)

/-- The arbiter's grants touch the arbiter, the census, the ports and the counter of free values alone. -/
theorem arbiterOnly_grants (e : Bool) (n : Nat) (s : State) : ArbiterOnly s (State.grants e n s) := by
  induction n generalizing s with
  | zero => exact ArbiterOnly.refl s
  | succ n ih =>
    simp only [State.grants]
    split
    · exact ArbiterOnly.refl s
    · exact (arbiterOnly_arbiterMove s e).trans (ih _)

/-- A step boundary touches the arbiter, the census, the ports and the counter of free values alone. -/
theorem arbiterOnly_stepBoundary (s : State) : ArbiterOnly s s.stepBoundary := by
  unfold State.stepBoundary
  split
  · exact (arbiterOnly_arb s _).trans (arbiterOnly_grants _ _ _)
  · exact arbiterOnly_grants _ _ s

end Sys2Proof.Machine
end

