-- ==== Sys2Proof/Laws/StepEnds.lean ====
section
/-! SUPPORT. The ends of the engine's array steps, when nobody else waits: what the engine does with the array as the
step left it, said once for each kind of step. -/

namespace Sys2Proof.Machine

/-- The array steps touch the array and the counter of free values alone. -/
abbrev ArrayOnly (s t : State) : Prop := ∃ g m f, t = { s with granules := g, marks := m, free := f }

/-- The end of a mark program leaves all but the array. -/
theorem markEnded_touches (s : State) (l : Loc) (m : BitVec 12) (us : List Upset) :
    ∃ g k, s.markEnded l m us = { s with granules := g, marks := k } := by
  obtain ⟨g, k, h⟩ := upsets_touches (s.programMarks l m) l us
  exact ⟨g, k, h⟩

/-- A cell erase leaves all but the array. -/
theorem eraseCell_touches (s : State) (l : Loc) : ∃ g k, s.eraseCell l = { s with granules := g, marks := k } := by
  have h : ∀ (gs : List Nat) (s : State), ∃ g, gs.foldl (fun s g => s.setGranule l g Granule.erased) s =
      { s with granules := g } := by
    intro gs
    induction gs with
    | nil => exact fun s => ⟨_, rfl⟩
    | cons x gs ih =>
      intro s
      obtain ⟨g, h⟩ := ih (s.setGranule l x Granule.erased)
      exact ⟨g, h⟩
  obtain ⟨g, h⟩ := h cellGranules s
  exact ⟨g, sparseSet factoryMarks s.marks l.index MarkField.erased, by rw [State.eraseCell, h]; rfl⟩

/-- The end of a cell erase leaves all but the array. -/
theorem eraseEnded_touches (s : State) (l : Loc) (us : List Upset) :
    ∃ g k, s.eraseEnded l us = { s with granules := g, marks := k } := by
  obtain ⟨g, k, h⟩ := upsets_touches (s.eraseCell l) l us
  obtain ⟨g', k', h'⟩ := eraseCell_touches s l
  exact ⟨g, k, h.trans (by rw [h'])⟩

/-- The end of a granule program leaves all but the array and the counter of free values. -/
theorem programEnded_touches (s : State) (l : Loc) (g : Nat) (d : Data) (us : List Upset) :
    ArrayOnly s (s.programEnded l g d us) := by
  obtain ⟨x, k, h⟩ := upsets_touches (s.programGranule l g d) l us
  exact ⟨x, k, s.free + 1, h⟩

/-- A read with its report leaves the arbiter, the work, the queue and what the directory's reports do not touch. -/
theorem readEnded_touches (s : State) (l : Loc) (g : Nat) (e : Option Nat) (us : List Upset) :
    ∃ x k es rl fm fs c, s.readEnded l g e us =
      { s with
        granules := x, marks := k, capture := c, entries := es, refresh := rl
        portM := { s.portM with flags := fm }
        portS := { s.portS with flags := fs } } := by
  obtain ⟨x, k, h⟩ := upsets_touches s l us
  obtain ⟨es, rl, fm, fs, h'⟩ :=
    report_touches (s.upsets l us) ⟨(s.engineReads l g us).1, l, g, e, .engine⟩
  exact ⟨x, k, es, rl, fm, fs, _, h'.trans (by rw [h])⟩

/-- A state whose arbiter is that of a state whose engine step is alone has a free array once the step is released. -/
theorem arrayFree_release {s t : State} {step : EngineStep} (h : s.engineAlone step) (ht : t.arb = s.arb) :
    t.release.arrayFree := by
  obtain ⟨hu, hsu, hb, hm, hs, hc, he⟩ := h
  simp only [State.arrayFree, release_arb, ht]
  exact ⟨trivial, hsu, hb, hm, hs, hc, he⟩

theorem markEnded_arb (s : State) (l : Loc) (m : BitVec 12) (us : List Upset) : (s.markEnded l m us).arb = s.arb := by
  obtain ⟨g, k, h⟩ := markEnded_touches s l m us
  rw [h]

theorem eraseEnded_arb (s : State) (l : Loc) (us : List Upset) : (s.eraseEnded l us).arb = s.arb := by
  obtain ⟨g, k, h⟩ := eraseEnded_touches s l us
  rw [h]

theorem programEnded_arb (s : State) (l : Loc) (g : Nat) (d : Data) (us : List Upset) :
    (s.programEnded l g d us).arb = s.arb := by
  obtain ⟨x, k, f, h⟩ := programEnded_touches s l g d us
  rw [h]

theorem readEnded_arb (s : State) (l : Loc) (g : Nat) (e : Option Nat) (us : List Upset) :
    (s.readEnded l g e us).arb = s.arb := by
  obtain ⟨x, k, es, rl, fm, fs, c, h⟩ := readEnded_touches s l g e us
  rw [h]

/-- The mark program took exactly when every mark named reads set. -/
theorem marksTook_iff (s : State) (l : Loc) (m : BitVec 12) : s.marksTook l m = true ↔ s.marksStand l m := by
  simp [State.marksTook, State.marksStand]

/-- What reads erased is 32 bytes of FFH, CLEAN. -/
theorem readsErased_iff (r : Outcome × Data) : readsErased r = true ↔ r = erasedRead := by
  obtain ⟨o, d⟩ := r
  simp [readsErased, erasedRead, erasedData]

/-- The erase took exactly when the whole cell is erased. -/
theorem eraseTook_iff (s : State) (l : Loc) : s.eraseTook l = true ↔ s.cellErased l := by
  simp only [State.eraseTook, State.cellErased, Bool.and_eq_true, beq_iff_eq, List.all_eq_true, readsErased_iff]
  refine and_congr ⟨fun h g hg => h g ?_, fun h g hg => h g ?_⟩ Iff.rfl
  · have : g = 0 ∨ g = 1 ∨ g = 2 ∨ g = 3 ∨ g = 4 ∨ g = 5 ∨ g = 6 ∨ g = 7 := by omega
    simpa [cellGranules] using this
  · simp only [cellGranules, List.mem_cons, List.not_mem_nil, or_false] at hg
    omega

/-- The end of a mark program of the engine. -/
theorem exec_markProgramEnd (s : State) (l : Loc) (m : BitVec 12) (us : List Upset) (h : s.engineAlone (.mark l m)) :
    exec (.markProgramEnd us) s =
      .next (((s.markEnded l m us).release.afterMark ((s.markEnded l m us).marksTook l m)).stepBoundary) := by
  simp only [exec, execMarkProgramEnd, State.endMark, h.1]

/-- The end of a cell erase of the engine. -/
theorem exec_cellEraseEnd (s : State) (l : Loc) (us : List Upset) (h : s.engineAlone (.erase l)) :
    exec (.cellEraseEnd us) s =
      .next (((s.eraseEnded l us).release.afterErase ((s.eraseEnded l us).eraseTook l)).stepBoundary) := by
  simp only [exec, execCellEraseEnd, State.endErase, h.1]

/-- The end of a granule program of the engine. -/
theorem exec_granuleProgramEnd (s : State) (l : Loc) (g : Nat) (d : Data) (us : List Upset)
    (h : s.engineAlone (.program l g d)) :
    exec (.granuleProgramEnd us) s = .next ((s.programEnded l g d us).release.afterProgram.stepBoundary) := by
  simp only [exec, execGranuleProgramEnd, State.endProgram, h.1]

/-- The end of a granule read of the engine. -/
theorem exec_engineReadEnd (s : State) (l : Loc) (g : Nat) (e : Option Nat) (us : List Upset)
    (h : s.engineAlone (.read l g e)) :
    exec (.engineReadEnd us) s =
      .next (((s.readEnded l g e us).release.afterRead (s.engineReads l g us)).stepBoundary) := by
  simp only [exec, execEngineReadEnd, State.endEngineRead, h.1]

/-- From the released end of a step, a claim of the engine is granted at the boundary. -/
theorem release_claims {s t : State} {step : EngineStep} (h : s.engineAlone step) (ht : t.arb = s.arb) (w : Work)
    (next : EngineStep) : (t.release.claims w next).stepBoundary = t.atStep w next := by
  rw [stepBoundary_claims _ _ _ (arrayFree_release h ht)]
  rfl

/-! ### Classification -/

/-- Only a cell whose every granule reads erased is classified ERASED. -/
theorem classify_not_erased (f : MarkField) (valid : Bool) : classify f valid false ≠ .erased := by
  unfold classify
  simp only [Bool.false_and]
  repeat' split
  all_goals first
    | decide
    | simp_all

/-- From an erased header a classification goes on to data granule 1. -/
theorem take_erasedHeader (c : Classifying) (f : MarkField) (v : Bool) (h : c.granule = 0) :
    c.take f v erasedRead = .more ⟨1, f, true⟩ := by
  rw [Classifying.take, if_pos h, if_pos ((readsErased_iff _).2 rfl)]

/-- Any other header classifies the cell, and not as ERASED. -/
theorem take_header (c : Classifying) (f : MarkField) (v : Bool) (r : Outcome × Data) (h : c.granule = 0)
    (hr : r ≠ erasedRead) : c.take f v r = .found (classify f v false) := by
  rw [Classifying.take, if_pos h, if_neg (fun e => hr ((readsErased_iff _).1 e))]

/-- A data granule before the last leads to the next. -/
theorem take_next (c : Classifying) (f : MarkField) (v : Bool) (r : Outcome × Data) (h : 1 ≤ c.granule)
    (h7 : c.granule < 7) :
    c.take f v r = .more ⟨c.granule + 1, c.marks, c.erased && decide (r = erasedRead)⟩ := by
  have hr : readsErased r = decide (r = erasedRead) := by
    rw [Bool.eq_iff_iff, readsErased_iff, decide_eq_true_iff]
  rw [Classifying.take, if_neg (by omega), if_pos h7, hr]

/-- The last data granule classifies a cell of which everything is erased as ERASED. -/
theorem take_last_erased (c : Classifying) (f : MarkField) (v : Bool) (h : c.granule = 7) (he : c.erased = true)
    (hm : c.marks = ⟨0, 0, 0⟩) : c.take f v erasedRead = .found .erased := by
  rw [Classifying.take, if_neg (by omega), if_neg (by omega), he, (readsErased_iff erasedRead).2 rfl, hm]
  rfl

/-- The last data granule classifies any other cell, and not as ERASED. -/
theorem take_last_other (c : Classifying) (f : MarkField) (v : Bool) (r : Outcome × Data) (h : c.granule = 7)
    (ho : c.erased = false ∨ r ≠ erasedRead ∨ c.marks ≠ ⟨0, 0, 0⟩) : ∃ cls, cls ≠ .erased ∧ c.take f v r = .found cls := by
  rw [Classifying.take, if_neg (by omega), if_neg (by omega)]
  refine ⟨_, ?_, rfl⟩
  by_cases hm : c.marks = ⟨0, 0, 0⟩
  · have he : (c.erased && readsErased r) = false := by
      rcases ho with ho | ho | ho
      · simp [ho]
      · cases hq : readsErased r
        · simp
        · exact absurd ((readsErased_iff _).1 hq) ho
      · exact absurd hm ho
    rw [he]
    exact classify_not_erased _ _
  · unfold classify
    have : (c.marks == MarkField.erased) = false := by simpa [MarkField.erased] using hm
    simp only [this, Bool.and_false]
    repeat' split
    all_goals first
      | decide
      | simp_all

/-- A piece of work whose reads of the cell `l` go on as a classification's do runs the classification of R32. -/
theorem classificationRuns_of (s : State) (l : Loc) (entry : Option Nat) (at' : Classifying → Work)
    (erased other : Work × EngineStep) (valid : Outcome × Data → Bool)
    (h : ∀ (t : State) (c : Classifying) (r : Outcome × Data), t.work = at' c →
      t.afterRead r = match c.take (t.markField l) (valid r) r with
        | .more c' => t.claims (at' c') (.read l c'.granule entry)
        | .found .erased => t.claims erased.1 erased.2
        | .found _ => t.claims other.1 other.2) :
    classificationRuns s l entry at' erased other := by
  intro c us hs hw
  have harb := readEnded_arb s l c.granule entry us
  have hwork : (s.readEnded l c.granule entry us).release.work = at' c := by
    obtain ⟨x, k, es, rl, fm, fs, cc, e⟩ := readEnded_touches s l c.granule entry us
    rw [release_work, e]
    exact hw
  have hm : (s.readEnded l c.granule entry us).release.markField l = (s.upsets l us).markField l := by
    show (s.readEnded l c.granule entry us).markField l = _
    simp only [State.readEnded, State.markField, (same_report _ _).2.1]
  have hx := exec_engineReadEnd s l c.granule entry us hs
  rw [h _ c _ hwork, hm] at hx
  have key := fun w st => congrArg (Host.Outcome.next (φ := Fault) (ρ := Refusal)) (release_claims hs harb w st)
  refine ⟨fun h0 hr => ?_, fun h0 hr => ?_, fun h1 h7 => ?_, fun h7 he hr hmk => ?_, fun h7 ho => ?_⟩
  · rw [hx, hr, take_erasedHeader _ _ _ h0]
    exact key _ _
  · rw [hx, take_header _ _ _ _ h0 hr]
    have hn := classify_not_erased ((s.upsets l us).markField l) (valid (s.engineReads l c.granule us))
    revert hn
    generalize classify _ _ _ = cls
    intro hn
    cases cls <;> first | exact key _ _ | exact absurd rfl hn
  · rw [hx, take_next _ _ _ _ h1 h7]
    exact key _ _
  · rw [hx, hr, take_last_erased _ _ _ h7 he hmk]
    exact key _ _
  · obtain ⟨cls, hn, hc⟩ := take_last_other c ((s.upsets l us).markField l) (valid (s.engineReads l c.granule us)) _ h7 ho
    rw [hx, hc]
    cases cls <;> first | exact key _ _ | exact absurd rfl hn

/-! ### Failure of the written pair, and completion -/

/-- What a set of numbers holds after one was put into it. -/
theorem mem_insertNum (k q : Nat) (l : List Nat) : q ∈ insertNum k l ↔ q = k ∨ q ∈ l := by
  induction l with
  | nil => simp [insertNum]
  | cons h t ih =>
    simp only [insertNum]
    split
    · simp
    · split
      · next e => subst e; simp
      · simp only [List.mem_cons, ih, or_left_comm]

/-- The failure of a written pair at a command whose next state is `pairFails` and the boundary after it. -/
theorem pairFailed_of (c : Instr) (s after : State) (job : Option Job) (w : WriteJob) (step : EngineStep)
    (hs : s.engineAlone step) (harb : after.arb = s.arb) (hpool : after.pool = s.pool) (hbad : after.bad = s.bad)
    (hset : after.setup = s.setup) (hq : after.queue = s.queue)
    (hx : exec c s = .next ((after.release.pairFails job w).stepBoundary)) : pairFailed c s after job w := by
  refine ⟨fun p rest hp => ?_, fun hp first rest hc => ?_⟩
  · by_cases hl : rest.length ≤ s.setup.contents.spareThreshold.toNat
    · have e : after.release.pairFails job w =
          (({ after with bad := insertNum w.pair after.bad, pool := rest, reserved := some p } : State).setFlagBoth
            .spareLow).release.claims
            (.write job { w with failed := w.failed ++ [(w.pair, w.cell)], pair := p, cell := .a, spare := true }
          (.classify ⟨0, ⟨0, 0, 0⟩, true⟩)) (.read (Loc.num p .a) 0 none) := by
        simp only [State.pairFails, State.writeOnSpare, State.takeSpare, addBad_pool, release_pool, hpool, hp,
          addBad_setup, release_setup, hset, hl, if_true]
        rfl
      rw [e, release_claims hs (by exact harb)] at hx
      refine ⟨_, hx, ?_, ?_, rfl, rfl, rfl, rfl, ?_, rfl, rfl, rfl, hq⟩
      · simp [State.isBad, mem_insertNum]
      · intro q hq
        simp [State.isBad, mem_insertNum, hq, hbad]
      · intro q
        rw [if_pos hl]
        cases q <;> rfl
    · have e : after.release.pairFails job w =
          ({ after with bad := insertNum w.pair after.bad, pool := rest, reserved := some p } : State).release.claims
            (.write job { w with failed := w.failed ++ [(w.pair, w.cell)], pair := p, cell := .a, spare := true }
          (.classify ⟨0, ⟨0, 0, 0⟩, true⟩)) (.read (Loc.num p .a) 0 none) := by
        simp only [State.pairFails, State.writeOnSpare, State.takeSpare, addBad_pool, release_pool, hpool, hp,
          addBad_setup, release_setup, hset, hl, if_false]
        rfl
      rw [e, release_claims hs (by exact harb)] at hx
      refine ⟨_, hx, ?_, ?_, rfl, rfl, rfl, rfl, ?_, rfl, rfl, rfl, hq⟩
      · simp [State.isBad, mem_insertNum]
      · intro q hq
        simp [State.isBad, mem_insertNum, hq, hbad]
      · intro q
        rw [if_neg hl]
        cases q <;> rfl
  · have e : after.release.pairFails job w =
        ({ after with
            bad := insertNum w.pair after.bad, reserved := if w.spare then none else after.reserved } :
          State).release.claims
          (.write job { w with failed := w.failed ++ [(w.pair, w.cell)] } (.exhaustMarks rest))
          (.mark (Loc.num first.1 first.2) (markBit .bad)) := by
      simp only [State.pairFails, State.writeOnSpare, State.takeSpare, addBad_pool, release_pool, hpool, hp]
      refine (congrArg (State.writeExhaustMarks _ job { w with failed := w.failed ++ [(w.pair, w.cell)] }) hc).trans ?_
      rfl
    rw [e, release_claims hs (by exact harb)] at hx
    refine ⟨_, hx, ?_, ?_, rfl, rfl, ?_, rfl, rfl, rfl, hq⟩
    · simp [State.isBad, mem_insertNum]
    · intro q hq
      simp [State.isBad, mem_insertNum, hq, hbad]
    · intro h
      simp [h]

/-- What the completion of the job at the head of the queue leaves (R62, R71). -/
theorem completeJob_facts (s : State) (j : Job) (rest : List Job) (r : JobResult) (g : Option Gen) (x : Bool)
    (hq : s.queue = j :: rest) : jobCompleted s (s.completeJob j r g x) j rest r g x := by
  have hf : ∀ (u : State), (u.freeNascent j.body r).work = u.work ∧ (u.freeNascent j.body r).queue = u.queue ∧
      (u.freeNascent j.body r).port = u.port ∧ (u.freeNascent j.body r).buffers = u.buffers := by
    intro u
    unfold State.freeNascent
    repeat' split
    all_goals exact ⟨rfl, rfl, rfl, rfl⟩
  have hl : ∀ (u : State), (u.lowerJobsOf j.body).work = u.work ∧ (u.lowerJobsOf j.body).queue = u.queue ∧
      (u.lowerJobsOf j.body).port = u.port ∧ (u.lowerJobsOf j.body).buffers = u.buffers := by
    intro u
    unfold State.lowerJobsOf
    split <;> exact ⟨rfl, rfl, rfl, rfl⟩
  have hb : ∀ (u : State), (u.emptyBufferOf j.body).work = u.work ∧ (u.emptyBufferOf j.body).queue = u.queue ∧
      (u.emptyBufferOf j.body).port = u.port := by
    intro u
    unfold State.emptyBufferOf
    split <;> exact ⟨rfl, rfl, rfl⟩
  unfold jobCompleted State.completeJob
  refine ⟨?_, ?_, ?_, ?_, fun b hbuf => ?_⟩
  · rw [(hf _).1, (hl _).1, (hb _).1]
    rfl
  · rw [(hf _).2.1, (hl _).2.1, (hb _).2.1]
    exact congrArg (List.drop 1) hq
  · rw [(hf _).2.2.1, (hl _).2.2.1, (hb _).2.2, State.pushResult, port_modPort_same]
    cases j.port <;> rfl
  · rw [(hf _).2.2.1, (hl _).2.2.1, (hb _).2.2, State.pushResult, port_modPort_same]
    cases j.port <;> rfl
  · rw [(hf _).2.2.2, (hl _).2.2.2]
    simp [State.emptyBufferOf, hbuf, State.setBuffer, Buffer.emptied]

/-- The census unit is told as R146 says. -/
theorem tellCensus_told (s : State) (c : Cls) : censusTold s (s.tellCensus c) c := by
  have hin : ∀ sc : Option Cls, inScope sc c = true ↔ sc = none ∨ sc = some c := by
    intro sc
    cases sc with
    | none => simp [inScope]
    | some c' => exact ⟨fun h => Or.inr (by rw [eq_of_beq h]), fun h => by rcases h with h | h <;> simp_all [inScope]⟩
  refine ⟨fun r hr hs hsc => ?_, fun h => ?_⟩
  · simp [State.tellCensus, hr, hs, (hin r.scope).2 hsc]
  · cases hc : s.census with
    | none => simp [State.tellCensus, hc]
    | some r =>
      have : ¬(r.state = .running ∧ inScope r.scope c = true) := by
        rw [hin]
        rintro ⟨h1, h2⟩
        rcases h r hc with h | h
        · exact h h1
        · exact h2.elim h.1 h.2
      simp [State.tellCensus, hc, this]

/-- A completion leaves all but the queue, the work, a port, a buffer, the directory and the hold slots. -/
theorem completeJob_touches (s : State) (j : Job) (r : JobResult) (g : Option Gen) (x : Bool) :
    ∃ q w pm ps b es hs, s.completeJob j r g x =
      { s with queue := q, work := w, portM := pm, portS := ps, buffers := b, entries := es, holds := hs } := by
  have hf : ∀ u : State, ∃ es hs, u.freeNascent j.body r = { u with entries := es, holds := hs } := by
    intro u
    unfold State.freeNascent
    repeat' split
    all_goals exact ⟨_, _, rfl⟩
  have hl : ∀ u : State, ∃ es, u.lowerJobsOf j.body = { u with entries := es } := by
    intro u
    unfold State.lowerJobsOf
    split <;> exact ⟨_, rfl⟩
  have hb : ∀ u : State, ∃ b, u.emptyBufferOf j.body = { u with buffers := b } := by
    intro u
    unfold State.emptyBufferOf
    split <;> exact ⟨_, rfl⟩
  let u := { s with queue := s.queue.drop 1, work := .idle }.pushResult j.port (j.record r g x)
  obtain ⟨b, hb⟩ := hb u
  obtain ⟨es, hl⟩ := hl (u.emptyBufferOf j.body)
  obtain ⟨es', hs, hf⟩ := hf ((u.emptyBufferOf j.body).lowerJobsOf j.body)
  refine ⟨s.queue.drop 1, .idle, u.portM, u.portS, b, es', hs, ?_⟩
  show ((u.emptyBufferOf j.body).lowerJobsOf j.body).freeNascent j.body r = _
  rw [hf, hl, hb]
  rfl

/-- What a completion does to the directory and the hold slots, when it frees no NASCENT entry: the jobs count of the
entry the job names falls (R12). -/
theorem completeJob_entries (s : State) (j : Job) (r : JobResult) (g : Option Gen) (x : Bool) (i : Nat)
    (hi : j.body.entry? = some i)
    (hn : (∀ k c, (s.entry i).body ≠ .nascent k c) ∨ j.body.isCommit = false ∨ r = .done) :
    (s.completeJob j r g x).entries = (s.lowerJobs i).entries ∧ (s.completeJob j r g x).holds = s.holds := by
  have he : ∀ u : State, (u.emptyBufferOf j.body).entries = u.entries ∧ (u.emptyBufferOf j.body).holds = u.holds := by
    intro u
    unfold State.emptyBufferOf
    split <;> exact ⟨rfl, rfl⟩
  have hl : ∀ u : State, u.entries = s.entries →
      ((u.lowerJobs i).freeNascent j.body r).entries = (s.lowerJobs i).entries ∧
        ((u.lowerJobs i).freeNascent j.body r).holds = u.holds := by
    intro u hu
    have hen : (u.lowerJobs i).entry i = { s.entry i with jobs := (s.entry i).jobs - 1 } := by
      simp [State.lowerJobs, entry_congr hu]
    have hes : (u.lowerJobs i).entries = (s.lowerJobs i).entries := by
      simp [State.lowerJobs, entry_congr hu, hu]
    simp only [State.freeNascent, hi, hen]
    split
    · next k c hb =>
      rcases hn with hn | hn | hn
      · exact absurd hb (hn k c)
      · simp [hn]; exact ⟨hes, rfl⟩
      · simp [hn]; exact ⟨hes, rfl⟩
    · exact ⟨hes, rfl⟩
  have hlo : ∀ u : State, u.lowerJobsOf j.body = u.lowerJobs i := by
    intro u
    simp [State.lowerJobsOf, hi]
  simp only [State.completeJob, hlo]
  have hu := he ({ s with queue := s.queue.drop 1, work := .idle }.pushResult j.port (j.record r g x))
  exact ⟨(hl _ hu.1).1, (hl _ hu.1).2.trans hu.2⟩

end Sys2Proof.Machine
end

