-- ==== Sys2Proof/Laws/Advance.lean ====
section
/-! SUPPORT. What the engine's advance after an array step leaves to the arbiter: the engine's next claim alone. The census
record may be told of a change. A RESTART deferred behind a SETUP job is left out. -/

namespace Sys2Proof.Machine

/-- The engine has advanced: of the arbiter only its claim may have changed, of the census the stale flag. -/
abbrev Advances (s t : State) : Prop :=
  (∃ e, t.arb = { s.arb with waitEngine := e }) ∧ (t.census = s.census ∨ ∃ c, t.census = (s.tellCensus c).census)

theorem Advances.refl (s : State) : Advances s s := ⟨⟨_, rfl⟩, Or.inl rfl⟩

/-- An advance that keeps the arbiter, followed by another. -/
theorem Advances.after {s t u : State} (ha : t.arb = s.arb) (hc : t.census = s.census) (h : Advances t u) :
    Advances s u := by
  obtain ⟨⟨e, he⟩, h⟩ := h
  refine ⟨⟨e, by rw [he, ha]⟩, ?_⟩
  rcases h with h | ⟨c, h⟩
  · exact Or.inl (h.trans hc)
  · exact Or.inr ⟨c, by rw [h, State.tellCensus, State.tellCensus, hc]⟩

/-- A change that keeps the arbiter and the census record. -/
abbrev KeepsArbiter (s t : State) : Prop := t.arb = s.arb ∧ t.census = s.census

theorem switch_keepsArbiter (s : State) (w : WriteJob) : KeepsArbiter s (s.switch w) := ⟨rfl, rfl⟩

theorem modLive_keepsArbiter (s : State) (i : Nat) (f : Live → Live) : KeepsArbiter s (s.modLive i f) := ⟨rfl, rfl⟩

theorem setDamaged_keepsArbiter (s : State) (i : Nat) : KeepsArbiter s (s.setDamaged i) := ⟨rfl, rfl⟩

theorem unlist_keepsArbiter (s : State) (i : Nat) : KeepsArbiter s (s.unlist i) := ⟨rfl, rfl⟩

theorem setupSwitch_keepsArbiter (s : State) (w : SetupJob) (c : Option CellName) :
    KeepsArbiter s (s.setupSwitch w c) := ⟨rfl, rfl⟩

theorem advances_claims (s : State) (w : Work) (e : EngineStep) : Advances s (s.claims w e) :=
  ⟨⟨some e, rfl⟩, Or.inl rfl⟩

theorem completeJob_arb_census (s : State) (j : Job) (r : JobResult) (g : Option Gen) (x : Bool) :
    (s.completeJob j r g x).arb = s.arb ∧ (s.completeJob j r g x).census = s.census := by
  obtain ⟨q, w, pm, ps, b, es, hs, h⟩ := completeJob_touches s j r g x
  rw [h]
  exact ⟨rfl, rfl⟩

theorem advances_completeJob (s : State) (j : Job) (r : JobResult) (g : Option Gen) (x : Bool) :
    Advances s (s.completeJob j r g x) :=
  Advances.after (completeJob_arb_census s j r g x).1 (completeJob_arb_census s j r g x).2 (Advances.refl _)

theorem advances_told (s : State) (c : Cls) : Advances s (s.tellCensus c) := ⟨⟨_, rfl⟩, Or.inr ⟨c, rfl⟩⟩

theorem advances_completeJob_told (s : State) (j : Job) (r : JobResult) (g : Option Gen) (x : Bool) (c : Cls) :
    Advances s ((s.completeJob j r g x).tellCensus c) :=
  Advances.after (completeJob_arb_census s j r g x).1 (completeJob_arb_census s j r g x).2 (advances_told _ c)

/-! ### COMMIT and REFRESH -/

theorem advances_writeDone (s : State) (j : Option Job) (w : WriteJob) : Advances s (s.writeDone j w) := by
  cases j
  · exact Advances.after rfl rfl (advances_told s.idle _)
  · exact advances_completeJob_told _ _ _ _ _ _

theorem advances_writeNoSpare (s : State) (j : Option Job) (w : WriteJob) : Advances s (s.writeNoSpare j w) := by
  cases j
  · exact Advances.after rfl rfl (Advances.refl _)
  · exact advances_completeJob _ _ _ _ _

theorem advances_writeBadMarks (s : State) (j : Option Job) (w : WriteJob) (cs : List (Nat × CellName)) :
    Advances s (s.writeBadMarks j w cs) := by
  cases cs
  · exact advances_writeDone _ _ _
  · exact advances_claims _ _ _

theorem advances_writeExhaustMarks (s : State) (j : Option Job) (w : WriteJob) (cs : List (Nat × CellName)) :
    Advances s (s.writeExhaustMarks j w cs) := by
  cases cs
  · exact advances_writeNoSpare _ _ _
  · exact advances_claims _ _ _

theorem advances_writeOnSpare (s : State) (j : Option Job) (w : WriteJob) : Advances s (s.writeOnSpare j w) := by
  unfold State.writeOnSpare
  split
  · next p s' h =>
    have hs : s'.arb = s.arb ∧ s'.census = s.census := by
      unfold State.takeSpare at h
      split at h
      · cases h
      · simp only [Option.some.injEq, Prod.mk.injEq] at h
        rw [← h.2]
        split <;> exact ⟨rfl, rfl⟩
    exact Advances.after hs.1 hs.2 (advances_claims _ _ _)
  · exact advances_writeExhaustMarks _ _ _ _

theorem advances_pairFails (s : State) (j : Option Job) (w : WriteJob) : Advances s (s.pairFails j w) :=
  Advances.after rfl rfl (advances_writeOnSpare _ _ _)

theorem advances_afterSwitch (s : State) (j : Option Job) (w : WriteJob) : Advances s (s.afterSwitch j w) := by
  unfold State.afterSwitch
  repeat' split
  · exact advances_writeBadMarks _ _ _ _
  · exact advances_claims _ _ _
  · exact advances_writeDone _ _ _

theorem advances_writeData (s : State) (j : Option Job) (w : WriteJob) (g : Nat) : Advances s (s.writeData j w g) := by
  unfold State.writeData
  split <;> exact advances_claims _ _ _

theorem advances_writeRead (s : State) (j : Option Job) (w : WriteJob) (st : WriteStep) (r : Outcome × Data) :
    Advances s (s.writeRead j w st r) := by
  unfold State.writeRead
  repeat' split
  all_goals first
    | exact advances_claims _ _ _
    | exact advances_pairFails _ _ _
    | exact Advances.refl _

theorem advances_writeProgrammed (s : State) (j : Option Job) (w : WriteJob) (st : WriteStep) :
    Advances s (s.writeProgrammed j w st) := by
  unfold State.writeProgrammed
  split
  all_goals first
    | exact advances_writeData _ _ _ _
    | exact Advances.refl _

theorem advances_writeMarked (s : State) (j : Option Job) (w : WriteJob) (st : WriteStep) (took : Bool) :
    Advances s (s.writeMarked j w st took) := by
  cases st
  case commitMark =>
    cases took
    · exact advances_pairFails _ _ _
    · have h := switch_keepsArbiter s w
      rw [State.writeMarked, if_pos rfl]
      exact Advances.after h.1 h.2 (advances_afterSwitch _ _ _)
  case supersede => exact advances_writeDone _ _ _
  case badMarks => exact advances_writeBadMarks _ _ _ _
  case exhaustMarks => exact advances_writeExhaustMarks _ _ _ _
  all_goals exact Advances.refl _

theorem advances_writeErased (s : State) (j : Option Job) (w : WriteJob) (st : WriteStep) (took : Bool) :
    Advances s (s.writeErased j w st took) := by
  unfold State.writeErased
  repeat' split
  all_goals first
    | exact advances_claims _ _ _
    | exact advances_pairFails _ _ _
    | exact Advances.refl _

theorem advances_startWrite (s : State) (j : Option Job) (i len : Nat) (d : List Data) :
    Advances s (s.startWrite j i len d) := by
  simp only [State.startWrite]
  split
  · exact advances_claims _ _ _
  · exact advances_writeOnSpare _ _ _

theorem advances_refreshRead (s : State) (i p : Nat) (c : CellName) (g : Nat) (got : List Data) (r : Outcome × Data) :
    Advances s (s.refreshRead i p c g got r) := by
  unfold State.refreshRead
  repeat' split
  · exact Advances.after rfl rfl (Advances.refl _)
  · exact advances_claims _ _ _
  · exact advances_startWrite _ _ _ _ _

/-! ### PATCH -/

theorem advances_patchDone (s : State) (j : Job) (w : PatchJob) (r : JobResult) : Advances s (s.patchDone j w r) := by
  have h₁ := modLive_keepsArbiter s w.entry (fun l => { l with guardMap := l.guardMap ||| w.marked })
  rw [State.patchDone]
  generalize s.modLive w.entry (fun l => { l with guardMap := l.guardMap ||| w.marked }) = t at h₁ ⊢
  have h₂ : KeepsArbiter t (if r = .damaged then t.setDamaged w.entry else t) := by
    split
    · exact setDamaged_keepsArbiter _ _
    · exact ⟨rfl, rfl⟩
  generalize (if r = .damaged then t.setDamaged w.entry else t) = u at h₂ ⊢
  refine Advances.after h₁.1 h₁.2 (Advances.after h₂.1 h₂.2 ?_)
  split
  · exact advances_completeJob_told _ _ _ _ _ _
  · exact advances_completeJob _ _ _ _ _

theorem advances_patchVerify (s : State) (j : Job) (w : PatchJob) (l : List Changed) :
    Advances s (s.patchVerify j w l) := by
  cases l
  · exact advances_patchDone _ _ _ _
  · exact advances_claims _ _ _

theorem advances_patchProgram (s : State) (j : Job) (w : PatchJob) (l : List Changed) :
    Advances s (s.patchProgram j w l) := by
  cases l
  · exact advances_patchVerify _ _ _ _
  · exact advances_claims _ _ _

theorem advances_patchForm (s : State) (j : Job) (w : PatchJob) : Advances s (s.patchForm j w) := by
  simp only [State.patchForm]
  repeat' split
  all_goals first
    | exact advances_patchDone _ _ _ _
    | exact advances_patchProgram _ _ _ _
    | exact advances_claims _ _ _

theorem advances_patchRead (s : State) (j : Job) (w : PatchJob) (st : PatchStep) (r : Outcome × Data) :
    Advances s (s.patchRead j w st r) := by
  cases st
  case read g =>
    simp only [State.patchRead]
    split
    · exact advances_patchDone _ _ _ _
    · split
      · exact advances_claims _ _ _
      · exact advances_patchForm _ _ _
  case verify c rest =>
    simp only [State.patchRead]
    repeat' split
    all_goals first
      | exact advances_patchVerify _ _ _ _
      | exact advances_patchDone _ _ _ _
  all_goals exact Advances.refl _

theorem advances_patchMarked (s : State) (j : Job) (w : PatchJob) (st : PatchStep) (took : Bool) :
    Advances s (s.patchMarked j w st took) := by
  simp only [State.patchMarked]
  repeat' split
  all_goals first
    | exact advances_patchProgram _ _ _ _
    | exact advances_patchDone _ _ _ _
    | exact Advances.refl _

theorem advances_patchProgrammed (s : State) (j : Job) (w : PatchJob) (st : PatchStep) :
    Advances s (s.patchProgrammed j w st) := by
  unfold State.patchProgrammed
  split
  · exact advances_patchProgram _ _ _ _
  · exact Advances.refl _

/-! ### RETIRE and FIX -/

theorem advances_retireDone (s : State) (j : Option Job) (w : RetireJob) : Advances s (s.retireDone j w) := by
  cases j
  · exact Advances.after rfl rfl (Advances.refl _)
  · exact Advances.after rfl rfl (advances_completeJob_told (s.freeEntry w.entry) _ _ _ _ _)

theorem advances_retireMarkPair (s : State) (j : Option Job) (w : RetireJob) : Advances s (s.retireMarkPair j w) := by
  unfold State.retireMarkPair
  split
  · exact advances_claims _ _ _
  · exact advances_retireDone _ _ _

theorem advances_retireRead (s : State) (j : Option Job) (w : RetireJob) (st : RetireStep) (r : Outcome × Data) :
    Advances s (s.retireRead j w st r) := by
  unfold State.retireRead
  repeat' split
  all_goals first
    | exact advances_claims _ _ _
    | exact Advances.refl _

theorem advances_retireMarked (s : State) (j : Option Job) (w : RetireJob) (st : RetireStep) :
    Advances s (s.retireMarked j w st) := by
  cases st
  case retireMark =>
    have h : (s.becomeRetiring w.entry).arb = s.arb ∧ (s.becomeRetiring w.entry).census = s.census := by
      simp only [State.becomeRetiring]
      split <;> exact ⟨rfl, rfl⟩
    exact Advances.after h.1 h.2 (advances_claims _ _ _)
  case badRetired => exact advances_retireMarkPair _ _ _
  case badB => exact advances_retireDone _ _ _
  all_goals first
    | exact advances_claims _ _ _
    | exact Advances.refl _

theorem advances_retireErased (s : State) (j : Option Job) (w : RetireJob) (st : RetireStep) (took : Bool) :
    Advances s (s.retireErased j w st took) := by
  cases st
  case eraseOther =>
    cases took
    · exact Advances.after rfl rfl (advances_claims (s.addBad w.pair) _ _)
    · exact advances_claims _ _ _
  case eraseRetired =>
    cases took
    · exact Advances.after rfl rfl (advances_claims (s.addBad w.pair) _ _)
    · exact advances_retireMarkPair _ _ _
  all_goals exact Advances.refl _

theorem advances_fixMarked (s : State) (j : Job) (i : Nat) : Advances s (s.fixMarked j i) := by
  have h₁ := modLive_keepsArbiter s i (fun l => { l with fixed := true })
  have h₂ := unlist_keepsArbiter (s.modLive i (fun l => { l with fixed := true })) i
  exact Advances.after h₁.1 h₁.2 (Advances.after h₂.1 h₂.2 (advances_completeJob _ _ _ _ _))

/-! ### SETUP -/

theorem completeJob_restartDeferred (s : State) (j : Job) (r : JobResult) (g : Option Gen) (x : Bool) :
    (s.completeJob j r g x).restartDeferred = s.restartDeferred := by
  obtain ⟨q, ww, pm, ps, b, es, hs, e⟩ := completeJob_touches s j r g x
  rw [e]

theorem advances_setupDone (s : State) (j : Job) (w : SetupJob) (h : s.restartDeferred = false) :
    Advances s (s.setupDone j w) := by
  have hd := (completeJob_restartDeferred s j .done (some w.gen) false).trans h
  have e : s.setupDone j w = s.completeJob j .done (some w.gen) false := by
    rw [State.setupDone, State.deferredRestart, if_neg (by rw [hd]; exact Bool.false_ne_true)]
  rw [e]
  exact advances_completeJob _ _ _ _ _

theorem advances_storageFailure (s : State) (j : Job) (w : SetupJob) (h : s.restartDeferred = false) :
    Advances s (s.storageFailure j w) := by
  have h₁ := setupSwitch_keepsArbiter s w s.setup.currentCell
  have h₂ : (s.setupSwitch w s.setup.currentCell).restartDeferred = false := h
  rw [State.storageFailure]
  generalize s.setupSwitch w s.setup.currentCell = t at h₁ h₂ ⊢
  have h₃ : KeepsArbiter t (t.setFlagBoth .setupDamaged) := ⟨rfl, rfl⟩
  have h₄ : (t.setFlagBoth .setupDamaged).restartDeferred = false := h₂
  exact Advances.after h₁.1 h₁.2 (Advances.after h₃.1 h₃.2 (advances_setupDone _ _ _ h₄))

theorem advances_setupInstall (s : State) (j : Job) (w : SetupJob) : Advances s (s.setupInstall j w) := by
  have h := setupSwitch_keepsArbiter s w (some w.idle)
  simp only [State.setupInstall]
  split <;> exact Advances.after h.1 h.2 (advances_claims _ _ _)

theorem advances_setupRead (s : State) (j : Job) (w : SetupJob) (st : SetupStep) (r : Outcome × Data)
    (h : s.restartDeferred = false) : Advances s (s.setupRead j w st r) := by
  cases st
  case classify c =>
    simp only [State.setupRead]
    split
    · exact advances_claims _ _ _
    · exact advances_claims _ _ _
    · exact advances_claims _ _ _
  case verify g =>
    simp only [State.setupRead]
    repeat' split
    · exact advances_claims _ _ _
    · exact advances_claims _ _ _
    · exact advances_storageFailure _ _ _ h
  case classifyOld c =>
    simp only [State.setupRead]
    split
    · exact advances_claims _ _ _
    · exact advances_claims _ _ _
    · exact advances_setupDone _ _ _ h
  all_goals exact Advances.refl _

theorem advances_setupProgrammed (s : State) (j : Job) (w : SetupJob) (st : SetupStep) :
    Advances s (s.setupProgrammed j w st) := by
  unfold State.setupProgrammed
  split
  all_goals first
    | exact advances_claims _ _ _
    | exact Advances.refl _

theorem advances_setupMarked (s : State) (j : Job) (w : SetupJob) (st : SetupStep) (took : Bool)
    (h : s.restartDeferred = false) : Advances s (s.setupMarked j w st took) := by
  cases st
  case commitMark =>
    cases took
    · exact advances_storageFailure _ _ _ h
    · rw [State.setupMarked, if_pos rfl]
      split
      · exact advances_claims _ _ _
      · exact advances_setupInstall _ _ _
  case fixedMark => exact advances_setupInstall _ _ _
  case supersede => exact advances_setupDone _ _ _ h
  all_goals exact Advances.refl _

theorem advances_setupErased (s : State) (j : Job) (w : SetupJob) (st : SetupStep) (took : Bool)
    (h : s.restartDeferred = false) : Advances s (s.setupErased j w st took) := by
  unfold State.setupErased
  repeat' split
  all_goals first
    | exact advances_claims _ _ _
    | exact advances_storageFailure _ _ _ h
    | exact Advances.refl _

/-! ### Recovery -/

theorem advances_itemDone (s : State) : Advances s s.itemDone := ⟨⟨_, rfl⟩, Or.inl rfl⟩

theorem advances_debrisErased (s : State) (p : Nat) (c : CellName) (st : DebrisStep) (took : Bool) :
    Advances s (s.debrisErased p c st took) := by
  have h : (s.debrisPairFails p c).arb = s.arb ∧ (s.debrisPairFails p c).census = s.census := by
    simp only [State.debrisPairFails, State.disown]
    repeat' split
    all_goals exact ⟨rfl, rfl⟩
  unfold State.debrisErased
  repeat' split
  all_goals first
    | exact advances_itemDone _
    | exact Advances.after h.1 h.2 (advances_claims _ _ _)

theorem advances_debrisMarked (s : State) (p : Nat) (c : CellName) (st : DebrisStep) :
    Advances s (s.debrisMarked p c st) := by
  unfold State.debrisMarked
  repeat' split
  all_goals first
    | exact advances_itemDone _
    | exact advances_claims _ _ _

theorem advances_markBadMarked (s : State) (p : Nat) (c : CellName) : Advances s (s.markBadMarked p c) := by
  cases c
  · simp only [State.markBadMarked, State.markBadFrom]
    split
    · exact advances_itemDone _
    · exact advances_claims _ _ _
  · exact advances_itemDone _

/-! ### The ends of steps -/

theorem advances_afterRead (s : State) (r : Outcome × Data) (h : s.restartDeferred = false) :
    Advances s (s.afterRead r) := by
  unfold State.afterRead
  split
  all_goals first
    | exact advances_writeRead _ _ _ _ _
    | exact advances_refreshRead _ _ _ _ _ _ _
    | exact advances_patchRead _ _ _ _ _
    | exact advances_retireRead _ _ _ _ _
    | exact advances_setupRead _ _ _ _ _ h
    | exact Advances.refl _

theorem advances_afterProgram (s : State) : Advances s s.afterProgram := by
  unfold State.afterProgram
  split
  all_goals first
    | exact advances_writeProgrammed _ _ _ _
    | exact advances_patchProgrammed _ _ _ _
    | exact advances_setupProgrammed _ _ _ _
    | exact Advances.refl _

theorem advances_afterMark (s : State) (took : Bool) (h : s.restartDeferred = false) : Advances s (s.afterMark took) := by
  unfold State.afterMark
  split
  all_goals first
    | exact advances_writeMarked _ _ _ _ _
    | exact advances_patchMarked _ _ _ _ _
    | exact advances_retireMarked _ _ _ _
    | exact advances_fixMarked _ _ _
    | exact advances_setupMarked _ _ _ _ _ h
    | exact advances_debrisMarked _ _ _ _
    | exact advances_itemDone _
    | exact advances_markBadMarked _ _ _

theorem advances_afterErase (s : State) (took : Bool) (h : s.restartDeferred = false) :
    Advances s (s.afterErase took) := by
  unfold State.afterErase
  split
  all_goals first
    | exact advances_writeErased _ _ _ _ _
    | exact advances_retireErased _ _ _ _ _
    | exact advances_setupErased _ _ _ _ _ h
    | exact advances_debrisErased _ _ _ _ _
    | exact Advances.refl _

/-- The end of an engine step: the engine advances, and a step boundary follows, from a state whose arbiter is that of `s`
with the array free. -/
theorem stepEnd_advances (s : State) (step : EngineStep) (us : List Upset) (hu : s.arb.user = some (.engine step))
    (hd : s.restartDeferred = false) :
    ∃ u : State, exec (stepEnd step us) s = .next u.stepBoundary ∧
      (∃ e, u.arb = { s.arb with user := none, waitEngine := e }) ∧
      (u.census = s.census ∨ ∃ c, u.census = (s.tellCensus c).census) := by
  have key : ∀ v u : State, v.arb = s.arb → v.census = s.census → Advances v.release u →
      (∃ e, u.arb = { s.arb with user := none, waitEngine := e }) ∧
        (u.census = s.census ∨ ∃ c, u.census = (s.tellCensus c).census) := by
    rintro v u ha hc ⟨⟨e, he⟩, h⟩
    refine ⟨⟨e, by rw [he, release_arb, ha]⟩, ?_⟩
    rcases h with h | ⟨c, h⟩
    · exact Or.inl (h.trans hc)
    · exact Or.inr ⟨c, by rw [h]; simp only [State.tellCensus]; rw [show v.release.census = s.census from hc]⟩
  cases step with
  | read l g e =>
    obtain ⟨x, k, es, rl, fm, fs, c, h⟩ := readEnded_touches s l g e us
    refine ⟨_, ?_, key (s.readEnded l g e us) _ (by rw [h]) (by rw [h])
      (advances_afterRead _ (s.engineReads l g us) (by rw [h]; exact hd))⟩
    simp only [exec, stepEnd, execEngineReadEnd, State.endEngineRead, hu]
  | program l g d =>
    obtain ⟨x, k, f, h⟩ := programEnded_touches s l g d us
    refine ⟨_, ?_, key (s.programEnded l g d us) _ (by rw [h]) (by rw [h]) (advances_afterProgram _)⟩
    simp only [exec, stepEnd, execGranuleProgramEnd, State.endProgram, hu]
  | mark l m =>
    obtain ⟨x, k, h⟩ := markEnded_touches s l m us
    refine ⟨_, ?_, key (s.markEnded l m us) _ (by rw [h]) (by rw [h])
      (advances_afterMark _ ((s.markEnded l m us).marksTook l m) (by rw [h]; exact hd))⟩
    simp only [exec, stepEnd, execMarkProgramEnd, State.endMark, hu]
  | erase l =>
    obtain ⟨x, k, h⟩ := eraseEnded_touches s l us
    refine ⟨_, ?_, key (s.eraseEnded l us) _ (by rw [h]) (by rw [h])
      (advances_afterErase _ ((s.eraseEnded l us).eraseTook l) (by rw [h]; exact hd))⟩
    simp only [exec, stepEnd, execCellEraseEnd, State.endErase, hu]

end Sys2Proof.Machine
end

