-- ==== Sys2Proof/Laws/Bytes.lean ====
section
/-! SUPPORT. Bytes and granules: what a granule made of bytes holds, and fields written and read back. -/

namespace Sys2Proof.Machine

/-- The digits of the number whose base-256 digits are the bytes. -/
theorem natOfBytesLE_digit (bs : Bytes) (pos : Nat) :
    natOfBytesLE bs / 256 ^ pos % 256 = (bs.getD pos 0).toNat := by
  induction bs generalizing pos with
  | nil => simp [natOfBytesLE]
  | cons b bs ih =>
    have hb : b.toNat < 256 := b.isLt
    cases pos with
    | zero => simp [natOfBytesLE]; omega
    | succ n =>
      rw [natOfBytesLE, Nat.pow_succ, Nat.mul_comm (256 ^ n) 256, ← Nat.div_div_eq_div_mul,
        show (b.toNat + 256 * natOfBytesLE bs) / 256 = natOfBytesLE bs by omega, ih]
      simp

/-- The number of so many bytes. -/
theorem natOfBytesLE_lt (bs : Bytes) : natOfBytesLE bs < 256 ^ bs.length := by
  induction bs with
  | nil => simp [natOfBytesLE]
  | cons b bs ih =>
    have hb : b.toNat < 256 := b.isLt
    rw [natOfBytesLE, List.length_cons, Nat.pow_succ]
    omega

/-- A granule made of bytes holds them from position 0 on, and FFH past them (R27, R28). -/
theorem byteAt_dataOfBytes (bs : Bytes) (pos : Nat) (h : pos < 32) :
    byteAt (dataOfBytes bs) pos = bs.getD pos 0xFF#8 := by
  apply BitVec.eq_of_toNat_eq
  have hl : ((bs ++ List.replicate (32 - bs.length) 0xFF#8).take 32).length = 32 := by
    simp; omega
  have hlt := natOfBytesLE_lt ((bs ++ List.replicate (32 - bs.length) 0xFF#8).take 32)
  rw [hl] at hlt
  simp only [byteAt, dataOfBytes, BitVec.extractLsb'_toNat, BitVec.toNat_ofNat, Nat.shiftRight_eq_div_pow]
  have h256 : (2 : Nat) ^ 256 = 256 ^ 32 := by decide
  rw [h256, Nat.mod_eq_of_lt hlt, Nat.pow_mul, show (2 : Nat) ^ 8 = 256 by decide, natOfBytesLE_digit]
  congr 1
  simp only [List.getD_eq_getElem?_getD, List.getElem?_take, h, if_true]
  by_cases hp : pos < bs.length
  · simp [List.getElem?_append_left hp, List.getElem?_eq_getElem hp]
  · rw [List.getElem?_append_right (by omega), List.getElem?_replicate]
    simp [show pos - bs.length < 32 - bs.length by omega, List.getElem?_eq_none (show bs.length ≤ pos by omega)]

/-- Two granules are the same when their bytes are. -/
theorem data_ext (d e : Data) (h : ∀ pos, pos < 32 → byteAt d pos = byteAt e pos) : d = e := by
  apply BitVec.eq_of_getLsbD_eq
  intro i hi
  have := congrArg (fun b => b.getLsbD (i % 8)) (h (i / 8) (by omega))
  simp only [byteAt, BitVec.getLsbD_extractLsb'] at this
  have h8 : i % 8 < 8 := by omega
  simpa [h8, show 8 * (i / 8) + i % 8 = i by omega] using this

/-- A granule that reads FFH from a position on has ones there. -/
theorem extractLsb'_ones (d : Data) (pos n : Nat) (hn : pos + n = 32) (h : ∀ k, pos ≤ k → k < 32 → byteAt d k = 0xFF#8) :
    d.extractLsb' (8 * pos) (8 * n) = BitVec.allOnes (8 * n) := by
  apply BitVec.eq_of_getLsbD_eq
  intro i hi
  have hb := congrArg (fun b => b.getLsbD (i % 8)) (h (pos + i / 8) (by omega) (by omega))
  have h8 : i % 8 < 8 := by omega
  simp only [byteAt, BitVec.getLsbD_extractLsb', h8, decide_true, Bool.true_and,
    show 8 * (pos + i / 8) + i % 8 = 8 * pos + i by omega] at hb
  simp only [BitVec.getLsbD_extractLsb', hi, decide_true, Bool.true_and, hb, BitVec.getLsbD_allOnes]
  have : (255#8).getLsbD (i % 8) = true := by
    have : ∀ k, k < 8 → (255#8).getLsbD k = true := by decide
    exact this _ h8
  simpa using this

/-- A two-byte field read back. -/
theorem word16_be16 (n : Nat) (h : n < 65536) : (word16 ((be16 n).getD 0 0) ((be16 n).getD 1 0)).toNat = n := by
  show (BitVec.ofNat 8 (n / 256) ++ BitVec.ofNat 8 n).toNat = n
  rw [BitVec.toNat_append, ← Nat.shiftLeft_add_eq_or_of_lt (BitVec.isLt _), Nat.shiftLeft_eq, BitVec.toNat_ofNat,
    BitVec.toNat_ofNat]
  omega

/-- A four-byte field read back. -/
theorem word32_be32 (k : Key) : word32 (k.extractLsb' 24 8) (k.extractLsb' 16 8) (k.extractLsb' 8 8) (k.extractLsb' 0 8) = k := by
  apply BitVec.eq_of_getLsbD_eq
  intro i hi
  simp only [word32, BitVec.getLsbD_append, BitVec.getLsbD_extractLsb']
  by_cases h1 : i < 8
  · simp [h1]
  by_cases h2 : i < 16
  · simp [h1, show i - 8 < 8 by omega, show 8 + (i - 8) = i by omega]
  by_cases h3 : i < 24
  · simp only [h1, show ¬ i - 8 < 8 by omega, show i - 8 - 8 < 8 by omega, show 16 + (i - 8 - 8) = i by omega, if_false,
      decide_true, Bool.true_and, if_true, decide_false]
  · simp only [h1, show ¬ i - 8 < 8 by omega, show ¬ i - 8 - 8 < 8 by omega, show i - 8 - 8 - 8 < 8 by omega,
      show 24 + (i - 8 - 8 - 8) = i by omega, if_false, decide_true, Bool.true_and, decide_false]

/-- A granule whose fields are in range is a valid header (R27). -/
theorem headerOf_valid (r : Outcome × Data) (key : Key) (entry : Nat) (cls : Cls) (gen : Gen) (length : Nat)
    (hr : r.1 = .clean ∨ r.1 = .corrected)
    (hk : word32 (byteAt r.2 0) (byteAt r.2 1) (byteAt r.2 2) (byteAt r.2 3) = key)
    (he : (word16 (byteAt r.2 4) (byteAt r.2 5)).toNat = entry) (hc : clsOfByte (byteAt r.2 6) = some cls)
    (hg : word16 (byteAt r.2 7) (byteAt r.2 8) = gen) (hl : (byteAt r.2 9).toNat = length)
    (ho : r.2.extractLsb' 80 176 = BitVec.allOnes 176)
    (hv : key ≠ 0 ∧ key ≠ BitVec.allOnes 32 ∧ entry ≤ 511 ∧ gen ≠ 0 ∧ 1 ≤ length ∧ length ≤ 224) :
    headerOf r = some ⟨key, entry, cls, gen, length⟩ := by
  subst hk he hg hl
  unfold headerOf
  simp only [hc]
  exact if_pos ⟨hr, hv.1, hv.2.1, hv.2.2.1, hv.2.2.2.1, hv.2.2.2.2.1, hv.2.2.2.2.2, ho⟩

end Sys2Proof.Machine
end

