-- ==== Sys2Proof/Laws/EngineFrames.lean ====
section
/-! SUPPORT. The engine's sequences and the scan leave the array alone between their array steps, and the queue of
waiting commands always. -/

namespace Sys2Proof.Machine

@[simp] theorem same_clearTo (s : State) (p : Phase) : Same s (s.clearTo p) := ⟨rfl, rfl, rfl⟩

/-! ### COMMIT and REFRESH -/

@[simp] theorem same_writeDone (s : State) (j : Option Job) (w : WriteJob) : Same s (s.writeDone j w) := by
  unfold State.writeDone
  cases j <;> simp [Same]

@[simp] theorem same_writeNoSpare (s : State) (j : Option Job) (w : WriteJob) : Same s (s.writeNoSpare j w) := by
  cases j <;> simp [Same, State.writeNoSpare]

@[simp] theorem same_writeClassify (s : State) (j : Option Job) (w : WriteJob) (c : Classifying) :
    Same s (s.writeClassify j w c) := ⟨rfl, rfl, rfl⟩

@[simp] theorem same_writeHeader (s : State) (j : Option Job) (w : WriteJob) : Same s (s.writeHeader j w) :=
  ⟨rfl, rfl, rfl⟩

@[simp] theorem same_writeErase (s : State) (j : Option Job) (w : WriteJob) : Same s (s.writeErase j w) :=
  ⟨rfl, rfl, rfl⟩

@[simp] theorem same_writeVerify (s : State) (j : Option Job) (w : WriteJob) (g : Nat) : Same s (s.writeVerify j w g) :=
  ⟨rfl, rfl, rfl⟩

@[simp] theorem same_writeData (s : State) (j : Option Job) (w : WriteJob) (g : Nat) : Same s (s.writeData j w g) := by
  unfold State.writeData
  split <;> exact ⟨rfl, rfl, rfl⟩

@[simp] theorem same_writeBadMarks (s : State) (j : Option Job) (w : WriteJob) (cs : List (Nat × CellName)) :
    Same s (s.writeBadMarks j w cs) := by
  unfold State.writeBadMarks
  split <;> simp [Same]

@[simp] theorem same_writeExhaustMarks (s : State) (j : Option Job) (w : WriteJob) (cs : List (Nat × CellName)) :
    Same s (s.writeExhaustMarks j w cs) := by
  unfold State.writeExhaustMarks
  split <;> simp [Same]

theorem same_takeSpare (s s' : State) (p : Nat) (h : s.takeSpare = some (p, s')) : Same s s' := by
  unfold State.takeSpare at h
  split at h
  · cases h
  · simp only [Option.some.injEq, Prod.mk.injEq] at h
    rw [← h.2]
    split <;> exact ⟨rfl, rfl, rfl⟩

@[simp] theorem same_writeOnSpare (s : State) (j : Option Job) (w : WriteJob) : Same s (s.writeOnSpare j w) := by
  unfold State.writeOnSpare
  split
  · next p s' h => simpa [Same] using same_takeSpare _ _ _ h
  · simp [Same]

@[simp] theorem same_pairFails (s : State) (j : Option Job) (w : WriteJob) : Same s (s.pairFails j w) := by
  simp [Same, State.pairFails]

@[simp] theorem same_switch (s : State) (w : WriteJob) : Same s (s.switch w) := ⟨rfl, rfl, rfl⟩

@[simp] theorem same_afterSwitch (s : State) (j : Option Job) (w : WriteJob) : Same s (s.afterSwitch j w) := by
  unfold State.afterSwitch
  repeat' split
  all_goals simp [Same]

@[simp] theorem same_writeRead (s : State) (j : Option Job) (w : WriteJob) (st : WriteStep) (r : Outcome × Data) :
    Same s (s.writeRead j w st r) := by
  unfold State.writeRead
  repeat' split
  all_goals simp [Same]

@[simp] theorem same_writeProgrammed (s : State) (j : Option Job) (w : WriteJob) (st : WriteStep) :
    Same s (s.writeProgrammed j w st) := by
  unfold State.writeProgrammed
  split <;> simp [Same]

@[simp] theorem same_writeMarked (s : State) (j : Option Job) (w : WriteJob) (st : WriteStep) (took : Bool) :
    Same s (s.writeMarked j w st took) := by
  unfold State.writeMarked
  repeat' split
  all_goals simp [Same]

@[simp] theorem same_writeErased (s : State) (j : Option Job) (w : WriteJob) (st : WriteStep) (took : Bool) :
    Same s (s.writeErased j w st took) := by
  unfold State.writeErased
  repeat' split
  all_goals simp [Same]

@[simp] theorem same_startWrite (s : State) (j : Option Job) (i len : Nat) (d : List Data) :
    Same s (s.startWrite j i len d) := by
  simp only [Same, State.startWrite]
  split <;> simp

@[simp] theorem same_refreshRead (s : State) (i p : Nat) (c : CellName) (g : Nat) (got : List Data)
    (r : Outcome × Data) : Same s (s.refreshRead i p c g got r) := by
  unfold State.refreshRead
  repeat' split
  all_goals simp [Same, State.refreshReads]

@[simp] theorem same_startRefresh (s : State) (i : Nat) : Same s (s.startRefresh i) := by
  unfold State.startRefresh
  repeat' split
  all_goals simp [Same, State.refreshReads]

/-! ### PATCH -/

@[simp] theorem same_patchDone (s : State) (j : Job) (w : PatchJob) (r : JobResult) : Same s (s.patchDone j w r) := by
  simp only [Same, State.patchDone]
  repeat' split
  all_goals simp

@[simp] theorem same_patchVerify (s : State) (j : Job) (w : PatchJob) (l : List Changed) :
    Same s (s.patchVerify j w l) := by
  unfold State.patchVerify
  split <;> simp [Same]

@[simp] theorem same_patchProgram (s : State) (j : Job) (w : PatchJob) (l : List Changed) :
    Same s (s.patchProgram j w l) := by
  unfold State.patchProgram
  split <;> simp [Same]

@[simp] theorem same_patchForm (s : State) (j : Job) (w : PatchJob) : Same s (s.patchForm j w) := by
  simp only [Same, State.patchForm]
  repeat' split
  all_goals simp

@[simp] theorem same_patchRead (s : State) (j : Job) (w : PatchJob) (st : PatchStep) (r : Outcome × Data) :
    Same s (s.patchRead j w st r) := by
  simp only [Same, State.patchRead]
  repeat' split
  all_goals simp [State.patchReads]

@[simp] theorem same_patchMarked (s : State) (j : Job) (w : PatchJob) (st : PatchStep) (took : Bool) :
    Same s (s.patchMarked j w st took) := by
  simp only [Same, State.patchMarked]
  repeat' split
  all_goals simp

@[simp] theorem same_patchProgrammed (s : State) (j : Job) (w : PatchJob) (st : PatchStep) :
    Same s (s.patchProgrammed j w st) := by
  unfold State.patchProgrammed
  split <;> simp [Same]

/-! ### RETIRE and FIX -/

@[simp] theorem same_retireDone (s : State) (j : Option Job) (w : RetireJob) : Same s (s.retireDone j w) := by
  cases j <;> simp [Same, State.retireDone]

@[simp] theorem same_becomeRetiring (s : State) (i : Nat) : Same s (s.becomeRetiring i) := by
  simp only [Same, State.becomeRetiring]
  split <;> simp

@[simp] theorem same_retireMarkPair (s : State) (j : Option Job) (w : RetireJob) : Same s (s.retireMarkPair j w) := by
  unfold State.retireMarkPair
  split <;> simp [Same, State.retireBad]

@[simp] theorem same_retireRead (s : State) (j : Option Job) (w : RetireJob) (st : RetireStep) (r : Outcome × Data) :
    Same s (s.retireRead j w st r) := by
  unfold State.retireRead
  repeat' split
  all_goals simp [Same, State.retireClassify, State.retireErase]

@[simp] theorem same_retireMarked (s : State) (j : Option Job) (w : RetireJob) (st : RetireStep) :
    Same s (s.retireMarked j w st) := by
  unfold State.retireMarked
  split <;> simp [Same, State.retireClassify, State.retireErase, State.retireBad]

@[simp] theorem same_retireErased (s : State) (j : Option Job) (w : RetireJob) (st : RetireStep) (took : Bool) :
    Same s (s.retireErased j w st took) := by
  simp only [Same, State.retireErased]
  repeat' split
  all_goals simp [State.retireErase, State.retireBad]

@[simp] theorem same_fixMarked (s : State) (j : Job) (i : Nat) : Same s (s.fixMarked j i) := by
  simp [Same, State.fixMarked]

/-! ### SETUP -/

@[simp] theorem same_setupDone (s : State) (j : Job) (w : SetupJob) : Same s (s.setupDone j w) := by
  unfold State.setupDone State.deferredRestart
  split <;> simp [Same]

@[simp] theorem same_setupSwitch (s : State) (w : SetupJob) (c : Option CellName) : Same s (s.setupSwitch w c) :=
  ⟨rfl, rfl, rfl⟩

@[simp] theorem same_storageFailure (s : State) (j : Job) (w : SetupJob) : Same s (s.storageFailure j w) := by
  simp [Same, State.storageFailure]

@[simp] theorem same_setupInstall (s : State) (j : Job) (w : SetupJob) : Same s (s.setupInstall j w) := by
  simp only [Same, State.setupInstall]
  split <;> simp [State.setupClassifyOld, State.setupSupersede]

@[simp] theorem same_setupRead (s : State) (j : Job) (w : SetupJob) (st : SetupStep) (r : Outcome × Data) :
    Same s (s.setupRead j w st r) := by
  unfold State.setupRead
  repeat' split
  all_goals simp [Same, State.setupClassify, State.setupHeader, State.setupVerify, State.setupClassifyOld,
    State.setupSupersede]

@[simp] theorem same_setupProgrammed (s : State) (j : Job) (w : SetupJob) (st : SetupStep) :
    Same s (s.setupProgrammed j w st) := by
  unfold State.setupProgrammed
  split <;> simp [Same, State.setupVerify]

@[simp] theorem same_setupMarked (s : State) (j : Job) (w : SetupJob) (st : SetupStep) (took : Bool) :
    Same s (s.setupMarked j w st took) := by
  unfold State.setupMarked
  repeat' split
  all_goals simp [Same]

@[simp] theorem same_setupErased (s : State) (j : Job) (w : SetupJob) (st : SetupStep) (took : Bool) :
    Same s (s.setupErased j w st took) := by
  unfold State.setupErased
  repeat' split
  all_goals simp [Same, State.setupHeader]

/-! ### Recovery -/

@[simp] theorem same_disown (s : State) (p : Nat) : Same s (s.disown p) := by
  unfold State.disown
  split <;> exact ⟨rfl, rfl, rfl⟩

@[simp] theorem same_debrisPairFails (s : State) (p : Nat) (c : CellName) : Same s (s.debrisPairFails p c) := by
  simp only [Same, State.debrisPairFails]
  split <;> simp

@[simp] theorem same_debrisErased (s : State) (p : Nat) (c : CellName) (st : DebrisStep) (took : Bool) :
    Same s (s.debrisErased p c st took) := by
  unfold State.debrisErased
  repeat' split
  all_goals simp [Same]

@[simp] theorem same_debrisMarked (s : State) (p : Nat) (c : CellName) (st : DebrisStep) :
    Same s (s.debrisMarked p c st) := by
  unfold State.debrisMarked
  repeat' split
  all_goals simp [Same]

@[simp] theorem same_markBadFrom (s : State) (p : Nat) (cs : List CellName) : Same s (s.markBadFrom p cs) := by
  induction cs with
  | nil => exact ⟨rfl, rfl, rfl⟩
  | cons c cs ih =>
    unfold State.markBadFrom
    split
    · exact ih
    · exact ⟨rfl, rfl, rfl⟩

@[simp] theorem same_markBadMarked (s : State) (p : Nat) (c : CellName) : Same s (s.markBadMarked p c) := by
  cases c <;> simp [Same, State.markBadMarked]

@[simp] theorem same_startItem (s : State) (i : RecoveryItem) : Same s (s.startItem i) := by
  cases i <;> simp [Same, State.startItem, State.startFinishRetire, State.retireClassify]

/-! ### The engine between its steps -/

@[simp] theorem same_startJob (s : State) (j : Job) : Same s (s.startJob j) := by
  unfold State.startJob State.startSequence
  repeat' split
  all_goals simp [Same, State.startPatch, State.patchReads, State.startRetire, State.startFix, State.startSetup,
    State.setupClassify]

@[simp] theorem same_afterRead (s : State) (r : Outcome × Data) : Same s (s.afterRead r) := by
  unfold State.afterRead
  split <;> simp [Same]

@[simp] theorem same_afterProgram (s : State) : Same s s.afterProgram := by
  unfold State.afterProgram
  split <;> simp [Same]

@[simp] theorem same_afterMark (s : State) (took : Bool) : Same s (s.afterMark took) := by
  unfold State.afterMark
  split <;> simp [Same]

@[simp] theorem same_afterErase (s : State) (took : Bool) : Same s (s.afterErase took) := by
  unfold State.afterErase
  split <;> simp [Same]

/-! ### The scan -/

@[simp] theorem same_resolveSetup (s : State) : Same s s.resolveSetup := by
  simp only [Same, State.resolveSetup]
  split <;> simp

@[simp] theorem same_nextSetup (s : State) (c : CellName) : Same s (s.nextSetup c) := by
  cases c <;> simp [Same, State.nextSetup]

@[simp] theorem same_dropPair (s : State) (p : Nat) : Same s (s.dropPair p) := ⟨rfl, rfl, rfl⟩

@[simp] theorem same_installClaim (s : State) (c : Claim) (p : Nat) : Same s (s.installClaim c p) := ⟨rfl, rfl, rfl⟩

@[simp] theorem same_takeClaim (s : State) (c : Claim) (p : Nat) : Same s (s.takeClaim c p) := by
  simp only [Same, State.takeClaim, State.meetClaim]
  repeat' split
  all_goals simp

@[simp] theorem same_takeResolved (s : State) (p : Nat) (r : Resolved) : Same s (s.takeResolved p r) := by
  simp only [Same, State.takeResolved, State.leavePool]
  repeat' split
  all_goals simp

@[simp] theorem same_foundSecond (s : State) (p : Nat) (f : CellFound) : Same s (s.foundSecond p f) := by
  simp only [Same, State.foundSecond]
  split <;> simp

@[simp] theorem same_foundCell (s : State) (p : Nat) (c : CellName) (f : CellFound) : Same s (s.foundCell p c f) := by
  cases c <;> simp [Same, State.foundCell, State.foundFirst]

@[simp] theorem same_setSetupFound (s : State) (c : CellName) (f : SetupFound) : Same s (s.setSetupFound c f) :=
  ⟨rfl, rfl, rfl⟩

@[simp] theorem same_scanAdvance (s : State) (r : Outcome × Data) : Same s (s.scanAdvance r) := by
  simp only [Same, State.scanAdvance, State.scanSetupCell, State.scanSetupContents, State.scanCell]
  repeat' split
  all_goals simp

@[simp] theorem same_dropClaim (s : State) (i : Nat) (e : Entry) : Same s (s.dropClaim i e) := by
  simp only [Same, State.dropClaim]
  repeat' split
  all_goals simp

@[simp] theorem same_dropDoubles (s : State) (seen : List Key) (es : List (Nat × Entry)) :
    Same s (s.dropDoubles seen es) := by
  induction es generalizing s seen with
  | nil => exact ⟨rfl, rfl, rfl⟩
  | cons e es ih =>
    obtain ⟨i, e⟩ := e
    unfold State.dropDoubles
    repeat' split
    all_goals simp [Same, ih]

@[simp] theorem same_withoutHome (s : State) (taken ps : List Nat) : Same s (s.withoutHome taken ps) := by
  induction ps generalizing s with
  | nil => exact ⟨rfl, rfl, rfl⟩
  | cons p ps ih =>
    unfold State.withoutHome
    split <;> simp [Same, ih]

@[simp] theorem same_enterReady (s : State) : Same s s.enterReady := by
  simp [Same, State.enterReady, State.placePairs]

@[simp] theorem pending_upset (s : State) (l : Loc) (u : Upset) : (s.upset l u).pending = s.pending := by
  cases u <;> simp only [State.upset] <;> (try split) <;> rfl

@[simp] theorem pending_upsets (s : State) (l : Loc) (us : List Upset) : (s.upsets l us).pending = s.pending := by
  unfold State.upsets
  induction us generalizing s with
  | nil => rfl
  | cons u us ih => simp [ih]

@[simp] theorem upsets_nil (s : State) (l : Loc) : s.upsets l [] = s := rfl

@[simp] theorem same_scanRead (s : State) : Same s (s.scanRead []) := by
  simp only [Same, State.scanRead]
  split <;> simp

@[simp] theorem same_scanRest (n : Nat) (s : State) : Same s (State.scanRest n s) := by
  induction n generalizing s with
  | zero => exact ⟨rfl, rfl, rfl⟩
  | succ n ih =>
    unfold State.scanRest
    split <;> simp [Same, ih]

end Sys2Proof.Machine
end

