-- ==== Sys2Proof/Laws/PerInstr.lean ====
section
/-! SUPPORT. The per-command laws: one lemma for each constructor of `Instr`. -/

namespace Sys2Proof.Laws

open Sys2Proof.Machine

/-- A command that can be sent carries at most the 240 argument bytes a frame has room for (R173). -/
def ArgumentsFit.Statement (i : Instr) : Prop :=
  i.wf = true → ∀ p a, commandOn i = some (p, a) → a.length ≤ 240

theorem ArgumentsFit.find (p : Port) (a : Bytes) : ArgumentsFit.Statement (.find p a) :=
  fun h _ _ e => by cases e; exact of_decide_eq_true h

theorem ArgumentsFit.list (p : Port) (a : Bytes) : ArgumentsFit.Statement (.list p a) :=
  fun h _ _ e => by cases e; exact of_decide_eq_true h

theorem ArgumentsFit.read (p : Port) (a : Bytes) : ArgumentsFit.Statement (.read p a) :=
  fun h _ _ e => by cases e; exact of_decide_eq_true h

theorem ArgumentsFit.readComplete (us : List Upset) : ArgumentsFit.Statement (.readComplete us) :=
  fun _ _ _ e => nomatch e

theorem ArgumentsFit.stage (p : Port) (a : Bytes) : ArgumentsFit.Statement (.stage p a) :=
  fun h _ _ e => by cases e; exact of_decide_eq_true h

theorem ArgumentsFit.discard (p : Port) (a : Bytes) : ArgumentsFit.Statement (.discard p a) :=
  fun h _ _ e => by cases e; exact of_decide_eq_true h

theorem ArgumentsFit.commit (p : Port) (a : Bytes) : ArgumentsFit.Statement (.commit p a) :=
  fun h _ _ e => by cases e; exact of_decide_eq_true h

theorem ArgumentsFit.result (p : Port) (a : Bytes) : ArgumentsFit.Statement (.result p a) :=
  fun h _ _ e => by cases e; exact of_decide_eq_true h

theorem ArgumentsFit.patch (p : Port) (a : Bytes) : ArgumentsFit.Statement (.patch p a) :=
  fun h _ _ e => by cases e; exact of_decide_eq_true h

theorem ArgumentsFit.retire (p : Port) (a : Bytes) : ArgumentsFit.Statement (.retire p a) :=
  fun h _ _ e => by cases e; exact of_decide_eq_true h

theorem ArgumentsFit.hold (p : Port) (a : Bytes) : ArgumentsFit.Statement (.hold p a) :=
  fun h _ _ e => by cases e; exact of_decide_eq_true h

theorem ArgumentsFit.renew (p : Port) (a : Bytes) : ArgumentsFit.Statement (.renew p a) :=
  fun h _ _ e => by cases e; exact of_decide_eq_true h

theorem ArgumentsFit.release (p : Port) (a : Bytes) : ArgumentsFit.Statement (.release p a) :=
  fun h _ _ e => by cases e; exact of_decide_eq_true h

theorem ArgumentsFit.fix (p : Port) (a : Bytes) : ArgumentsFit.Statement (.fix p a) :=
  fun h _ _ e => by cases e; exact of_decide_eq_true h

theorem ArgumentsFit.inhibit (p : Port) (a : Bytes) : ArgumentsFit.Statement (.inhibit p a) :=
  fun h _ _ e => by cases e; exact of_decide_eq_true h

theorem ArgumentsFit.capture (p : Port) (a : Bytes) : ArgumentsFit.Statement (.capture p a) :=
  fun h _ _ e => by cases e; exact of_decide_eq_true h

theorem ArgumentsFit.captureClear (p : Port) (a : Bytes) : ArgumentsFit.Statement (.captureClear p a) :=
  fun h _ _ e => by cases e; exact of_decide_eq_true h

theorem ArgumentsFit.refreshList (p : Port) (a : Bytes) : ArgumentsFit.Statement (.refreshList p a) :=
  fun h _ _ e => by cases e; exact of_decide_eq_true h

theorem ArgumentsFit.census (p : Port) (a : Bytes) : ArgumentsFit.Statement (.census p a) :=
  fun h _ _ e => by cases e; exact of_decide_eq_true h

theorem ArgumentsFit.censusResult (p : Port) (a : Bytes) : ArgumentsFit.Statement (.censusResult p a) :=
  fun h _ _ e => by cases e; exact of_decide_eq_true h

theorem ArgumentsFit.censusCancel (p : Port) (a : Bytes) : ArgumentsFit.Statement (.censusCancel p a) :=
  fun h _ _ e => by cases e; exact of_decide_eq_true h

theorem ArgumentsFit.setupRead (p : Port) (a : Bytes) : ArgumentsFit.Statement (.setupRead p a) :=
  fun h _ _ e => by cases e; exact of_decide_eq_true h

theorem ArgumentsFit.setupWrite (p : Port) (a : Bytes) : ArgumentsFit.Statement (.setupWrite p a) :=
  fun h _ _ e => by cases e; exact of_decide_eq_true h

theorem ArgumentsFit.status (p : Port) (a : Bytes) : ArgumentsFit.Statement (.status p a) :=
  fun h _ _ e => by cases e; exact of_decide_eq_true h

theorem ArgumentsFit.ack (p : Port) (a : Bytes) : ArgumentsFit.Statement (.ack p a) :=
  fun h _ _ e => by cases e; exact of_decide_eq_true h

theorem ArgumentsFit.eventMask (p : Port) (a : Bytes) : ArgumentsFit.Statement (.eventMask p a) :=
  fun h _ _ e => by cases e; exact of_decide_eq_true h

theorem ArgumentsFit.restart (p : Port) (a : Bytes) (r : Residue) : ArgumentsFit.Statement (.restart p a r) :=
  fun h _ _ e => by cases e; exact of_decide_eq_true (Bool.and_eq_true_iff.mp h).1

theorem ArgumentsFit.unknownCommand (p : Port) (code : Byte) (a : Bytes) : ArgumentsFit.Statement (.unknownCommand p code a) :=
  fun _ _ _ e => nomatch e

theorem ArgumentsFit.fetch (f : Fetch) : ArgumentsFit.Statement (.fetch f) :=
  fun _ _ _ e => nomatch e

theorem ArgumentsFit.badFrame (p : Port) (bs : Bytes) (mid : Bool) : ArgumentsFit.Statement (.badFrame p bs mid) :=
  fun _ _ _ e => nomatch e

theorem ArgumentsFit.ignoredFrame (p : Port) (bs : Bytes) : ArgumentsFit.Statement (.ignoredFrame p bs) :=
  fun _ _ _ e => nomatch e

theorem ArgumentsFit.powerOn (r : Residue) : ArgumentsFit.Statement (.powerOn r) :=
  fun _ _ _ e => nomatch e

theorem ArgumentsFit.resetN (r : Residue) : ArgumentsFit.Statement (.resetN r) :=
  fun _ _ _ e => nomatch e

theorem ArgumentsFit.resetHoldEnd : ArgumentsFit.Statement (.resetHoldEnd) :=
  fun _ _ _ e => nomatch e

theorem ArgumentsFit.scanEnd : ArgumentsFit.Statement (.scanEnd) :=
  fun _ _ _ e => nomatch e

theorem ArgumentsFit.leaseInterval : ArgumentsFit.Statement (.leaseInterval) :=
  fun _ _ _ e => nomatch e

theorem ArgumentsFit.holdLapsed (slot : Nat) : ArgumentsFit.Statement (.holdLapsed slot) :=
  fun _ _ _ e => nomatch e

theorem ArgumentsFit.jobStart : ArgumentsFit.Statement (.jobStart) :=
  fun _ _ _ e => nomatch e

theorem ArgumentsFit.refreshStart : ArgumentsFit.Statement (.refreshStart) :=
  fun _ _ _ e => nomatch e

theorem ArgumentsFit.recoveryStart : ArgumentsFit.Statement (.recoveryStart) :=
  fun _ _ _ e => nomatch e

theorem ArgumentsFit.engineReadEnd (us : List Upset) : ArgumentsFit.Statement (.engineReadEnd us) :=
  fun _ _ _ e => nomatch e

theorem ArgumentsFit.granuleProgramEnd (us : List Upset) : ArgumentsFit.Statement (.granuleProgramEnd us) :=
  fun _ _ _ e => nomatch e

theorem ArgumentsFit.markProgramEnd (us : List Upset) : ArgumentsFit.Statement (.markProgramEnd us) :=
  fun _ _ _ e => nomatch e

theorem ArgumentsFit.cellEraseEnd (us : List Upset) : ArgumentsFit.Statement (.cellEraseEnd us) :=
  fun _ _ _ e => nomatch e

theorem ArgumentsFit.censusReadEnd (us : List Upset) : ArgumentsFit.Statement (.censusReadEnd us) :=
  fun _ _ _ e => nomatch e

theorem ArgumentsFit.scanGranuleReadEnd (us : List Upset) : ArgumentsFit.Statement (.scanGranuleReadEnd us) :=
  fun _ _ _ e => nomatch e

end Sys2Proof.Laws
end

