-- ==== Sys2Proof/Laws/Ports.lean ====
section
/-! SUPPORT. What taking a frame does, said once: a port that takes a command runs it, one that does not answers or
ignores it. -/

namespace Sys2Proof.Machine

/-- What reaches a port that takes frames is taken. -/
theorem arrive_taken (s : State) (p : Port) (taken : State) (hp : s.phase ≠ .held) (hs : (s.port p).slot ≠ .pending) :
    s.arrive p taken = taken := by
  simp [State.arrive, hp, hs]

/-- A frame at a PENDING slot sets OVERRUN. -/
theorem arrive_pending (s : State) (p : Port) (taken : State) (hp : s.phase ≠ .held)
    (hs : (s.port p).slot = .pending) : s.arrive p taken = s.setFlag p .overrun := by
  simp [State.arrive, hp, hs]

/-- A held part takes no frame. -/
theorem arrive_held (s : State) (p : Port) (taken : State) (hp : s.phase = .held) : s.arrive p taken = s := by
  simp [State.arrive, hp]

/-- A part that takes commands is not in the way of one. -/
theorem notReady_of_takes (s : State) (p : Port) (h : s.takes p) : s.notReady = false := by
  simp [State.notReady, h.1, h.2.1]

/-- A command with its arguments acts where the port takes it. -/
theorem command_takes {α : Type} (s : State) (p : Port) (a : α) (act : α → State) (h : s.takes p) :
    s.command p (some a) act = act a := by
  have hp : s.phase ≠ .held := by rw [h.1]; decide
  simp [State.command, arrive_taken s p _ hp h.2.2, notReady_of_takes s p h]

/-- A command that meets a part that is STARTING or about to restart is answered NOT_READY. -/
theorem command_notReady {α : Type} (s : State) (p : Port) (a : α) (act : α → State) (h : s.takesNotReady p) :
    s.command p (some a) act = s.refuse p .notReady := by
  have hp : s.phase ≠ .held := by rcases h.1 with h | h <;> simp [h]
  have hn : s.notReady = true := by rcases h.1 with h | h <;> simp [State.notReady, h]
  simp [State.command, arrive_taken s p _ hp h.2, hn]

/-- An argument count that the command does not accept is answered BAD_ARG. -/
theorem command_badCount {α : Type} (s : State) (p : Port) (act : α → State) (hp : s.phase ≠ .held)
    (hs : (s.port p).slot ≠ .pending) : s.command p none act = s.refuse p .badArg := by
  simp [State.command, arrive_taken s p _ hp hs]

/-- A command at a PENDING slot sets OVERRUN. -/
theorem command_pending {α : Type} (s : State) (p : Port) (a : Option α) (act : α → State) (hp : s.phase ≠ .held)
    (hs : (s.port p).slot = .pending) : s.command p a act = s.setFlag p .overrun :=
  arrive_pending s p _ hp hs

/-- A held part takes no command. -/
theorem command_held {α : Type} (s : State) (p : Port) (a : Option α) (act : α → State) (hp : s.phase = .held) :
    s.command p a act = s :=
  arrive_held s p _ hp

/-- An answer is a write of the response slot. -/
theorem answer_eq (s : State) (p : Port) (st : Status) (d : Bytes) :
    s.answer p st d = s.modPort p (fun ps => { ps with slot := .ready st d }) :=
  rfl

/-- A refusal is an answer without data. -/
theorem refuse_eq (s : State) (p : Port) (st : Status) :
    s.refuse p st = s.modPort p (fun ps => { ps with slot := .ready st [] }) :=
  rfl

/-- A flag is set in the event byte. -/
theorem setFlag_eq (s : State) (p : Port) (e : Event) :
    s.setFlag p e = s.modPort p (fun ps => { ps with flags := ps.flags ||| e.bit }) :=
  rfl

/-- Two changes of a port are one. -/
theorem modPort_modPort (s : State) (p : Port) (f g : PortState → PortState) :
    (s.modPort p f).modPort p g = s.modPort p (fun ps => g (f ps)) := by
  cases p <;> rfl

/-- A change that changes nothing. -/
theorem modPort_id (s : State) (p : Port) (f : PortState → PortState) (h : f (s.port p) = s.port p) :
    s.modPort p f = s := by
  cases p <;> simp_all [State.modPort, State.port]

end Sys2Proof.Machine
end

