-- ==== Sys2Proof/Laws/Reports.lean ====
section
/-! SUPPORT. What a report of the integrity monitor, and leaving the refresh list, do to the entries of the directory, and
what the ends of the reads of a port and of the census leave to the arbiter. -/

namespace Sys2Proof.Machine

/-- Of an entry only the damaged and refresh_wanted flags may have changed. -/
abbrev FlagsOnly (e f : Entry) : Prop :=
  ∃ d w : Live → Bool, f = e.mapLive (fun l => { l with damaged := d l, refreshWanted := w l })

theorem FlagsOnly.refl (e : Entry) : FlagsOnly e e := by
  refine ⟨fun l => l.damaged, fun l => l.refreshWanted, ?_⟩
  obtain ⟨b, p, n⟩ := e
  cases b <;> rfl

theorem FlagsOnly.trans {e f g : Entry} (h : FlagsOnly e f) (h' : FlagsOnly f g) : FlagsOnly e g := by
  obtain ⟨d, w, rfl⟩ := h
  obtain ⟨d', w', rfl⟩ := h'
  refine ⟨fun l => d' { l with damaged := d l, refreshWanted := w l },
    fun l => w' { l with damaged := d l, refreshWanted := w l }, ?_⟩
  obtain ⟨b, p, n⟩ := e
  cases b <;> rfl

/-- A LIVE entry stays LIVE, with all but the two flags. -/
theorem FlagsOnly.live {e f : Entry} (h : FlagsOnly e f) {l : Live} {p : Option Nat} {n : Nat} (he : e = ⟨.live l, p, n⟩) :
    ∃ d w, f = ⟨.live { l with damaged := d, refreshWanted := w }, p, n⟩ := by
  obtain ⟨d, w, rfl⟩ := h
  exact ⟨d l, w l, by rw [he]; rfl⟩

/-- An entry that is not LIVE stays as it is. -/
theorem FlagsOnly.other {e f : Entry} (h : FlagsOnly e f) (he : ∀ l, e.body ≠ .live l) : f = e := by
  obtain ⟨d, w, rfl⟩ := h
  obtain ⟨b, p, n⟩ := e
  cases b <;> first | rfl | exact absurd rfl (he _)

/-- Whether a census visits an entry does not rest on its flags. -/
theorem FlagsOnly.visitable {e f : Entry} (h : FlagsOnly e f) (scope : Option Cls) :
    f.visitable scope = e.visitable scope := by
  obtain ⟨d, w, rfl⟩ := h
  obtain ⟨b, p, n⟩ := e
  cases b <;> rfl

theorem flagsOnly_modLive (s : State) (k : Nat) (f : Live → Live) (d w : Live → Bool)
    (hf : ∀ l, f l = { l with damaged := d l, refreshWanted := w l }) (i : Nat) :
    FlagsOnly (s.entry i) ((s.modLive k f).entry i) := by
  by_cases hk : i = k
  · subst hk
    exact ⟨d, w, by rw [State.modLive, entry_setEntry_same, funext hf]⟩
  · rw [State.modLive, entry_setEntry_other _ _ _ _ hk]
    exact FlagsOnly.refl _

/-- Leaving the refresh list clears refresh_wanted of the entry (R118). -/
theorem unlist_entry_same (s : State) (i : Nat) :
    (s.unlist i).entry i = (s.entry i).mapLive (fun l => { l with refreshWanted := false }) :=
  entry_setEntry_same _ _ _

theorem unlist_entry_other (s : State) (i k : Nat) (h : k ≠ i) : (s.unlist i).entry k = s.entry k :=
  entry_setEntry_other _ _ _ _ h

theorem flagsOnly_unlist (s : State) (k i : Nat) : FlagsOnly (s.entry i) ((s.unlist k).entry i) :=
  flagsOnly_modLive s k _ (fun l => l.damaged) (fun _ => false) (fun _ => rfl) i

theorem flagsOnly_setDamaged (s : State) (k i : Nat) : FlagsOnly (s.entry i) ((s.setDamaged k).entry i) :=
  (flagsOnly_modLive s k _ (fun _ => true) (fun l => l.refreshWanted) (fun _ => rfl) i).trans (flagsOnly_unlist _ _ _)

theorem flagsOnly_nominate (s : State) (k i : Nat) : FlagsOnly (s.entry i) ((s.nominate k).entry i) := by
  unfold State.nominate
  split
  · exact flagsOnly_modLive s k _ (fun l => l.damaged) (fun _ => true) (fun _ => rfl) i
  · exact FlagsOnly.refl _

/-- A report changes an entry in the damaged and refresh_wanted flags alone (Table 6-1). -/
theorem flagsOnly_report (s : State) (r : Report) (i : Nat) : FlagsOnly (s.entry i) ((s.report r).entry i) := by
  have hev : ∀ u : State, (u.reportEvent r).entry i = u.entry i := by
    intro u
    unfold State.reportEvent
    split <;> rfl
  rw [State.report, hev]
  unfold State.reportEntry
  repeat' split
  all_goals first
    | exact FlagsOnly.refl _
    | exact flagsOnly_nominate _ _ _
    | exact flagsOnly_setDamaged _ _ _

/-- A report leaves every entry but the one it names (R109). -/
theorem report_entry_other (s : State) (r : Report) (i k : Nat) (hr : r.place.entry = some i) (h : k ≠ i) :
    (s.report r).entry k = s.entry k := by
  have hev : ∀ u : State, (u.reportEvent r).entry k = u.entry k := by
    intro u
    unfold State.reportEvent
    split <;> rfl
  have hmod : ∀ (u : State) (j : Nat) (f : Live → Live), j = i → (u.modLive j f).entry k = u.entry k :=
    fun u j f e => entry_setEntry_other _ _ _ _ (fun h' => h (h'.trans e))
  have hc : ∀ (u : State) (j : Nat), u.concerned r.place = some j → j = i := by
    intro u j hj
    unfold State.concerned at hj
    rw [hr] at hj
    dsimp only at hj
    split at hj
    · exact (Option.some.inj hj).symm
    · cases hj
  have hn : ∀ (u : State) (j : Nat), j = i → (u.nominate j).entry k = u.entry k := by
    intro u j e
    unfold State.nominate
    split
    · exact hmod _ _ _ e
    · rfl
  have hd : ∀ (u : State) (j : Nat), j = i → (u.setDamaged j).entry k = u.entry k :=
    fun u j e => (hmod _ _ _ e).trans (hmod _ _ _ e)
  rw [State.report, hev]
  unfold State.reportEntry
  split
  · rfl
  · split
    · rfl
    · next hj =>
      repeat' split
      all_goals first
        | rfl
        | exact hn _ _ (hc _ _ hj)
        | exact hd _ _ (hc _ _ hj)

/-- An engine read with its report leaves every entry but the one it names. -/
theorem readEnded_entry_other (s : State) (l : Loc) (g i : Nat) (us : List Upset) (k : Nat) (h : k ≠ i) :
    (s.readEnded l g (some i) us).entry k = s.entry k := by
  refine (report_entry_other _ _ i k rfl h).trans ?_
  obtain ⟨x, m, e⟩ := upsets_touches s l us
  rw [e]
  rfl

theorem flagsOnly_readEnded (s : State) (l : Loc) (g : Nat) (e : Option Nat) (us : List Upset) (i : Nat) :
    FlagsOnly (s.entry i) ((s.readEnded l g e us).entry i) := by
  refine FlagsOnly.trans ?_ (flagsOnly_report _ _ _)
  obtain ⟨x, m, h⟩ := upsets_touches s l us
  rw [h]
  exact FlagsOnly.refl _

/-! ### The ends of the reads of a port and of the census -/

/-- The reports of a READ touch what one report touches. -/
theorem reportReads_touches (s : State) (g : ReadGrant) (rs : List (Nat × Outcome × Data)) :
    ∃ es rl fm fs c, s.reportReads g rs =
      { s with
        capture := c, entries := es, refresh := rl
        portM := { s.portM with flags := fm }
        portS := { s.portS with flags := fs } } := by
  unfold State.reportReads
  induction rs generalizing s with
  | nil => exact ⟨_, _, _, _, _, rfl⟩
  | cons r rs ih =>
    obtain ⟨a, b, c, d, h⟩ := report_touches s (reportOf g.loc r.1 (some g.entry) (portParty g.port) r.2.1)
    obtain ⟨a', b', c', d', e', h'⟩ := ih (s.report (reportOf g.loc r.1 (some g.entry) (portParty g.port) r.2.1))
    rw [List.foldl_cons, h', h]
    exact ⟨_, _, _, _, _, rfl⟩

theorem flagsOnly_reportReads (s : State) (g : ReadGrant) (rs : List (Nat × Outcome × Data)) (i : Nat) :
    FlagsOnly (s.entry i) ((s.reportReads g rs).entry i) := by
  unfold State.reportReads
  induction rs generalizing s with
  | nil => exact FlagsOnly.refl _
  | cons r rs ih =>
    rw [List.foldl_cons]
    exact (flagsOnly_report _ _ _).trans (ih _)

/-- The end of a READ: the array is free for the arbiter's grants, the census record and all waiting claims stand, and of
the entries only the two flags may have changed. -/
theorem readComplete_before (s : State) (us : List Upset) (g : ReadGrant) (hu : s.arb.user = some (.port g)) :
    ∃ u : State, exec (.readComplete us) s = .next u.grant ∧ u.arb = { s.arb with user := none } ∧
      u.census = s.census ∧ ∀ i, FlagsOnly (s.entry i) (u.entry i) := by
  obtain ⟨x, m, h⟩ := upsets_touches s g.loc us
  have h1 : ∀ i, FlagsOnly (s.entry i) ((s.upsets g.loc us).entry i) := by
    intro i
    rw [h]
    exact FlagsOnly.refl _
  have h2 : (s.upsets g.loc us).arb = s.arb ∧ (s.upsets g.loc us).census = s.census := by
    rw [h]
    exact ⟨rfl, rfl⟩
  simp only [exec, execReadComplete, State.endRead, hu]
  refine ⟨_, rfl, ?_⟩
  generalize s.upsets g.loc us = v at h1 h2 ⊢
  have h3 := fun i => flagsOnly_reportReads v g (v.grantReads g) i
  obtain ⟨a, b, c, d, e, h'⟩ := reportReads_touches v g (v.grantReads g)
  have h4 : (v.reportReads g (v.grantReads g)).arb = v.arb ∧ (v.reportReads g (v.grantReads g)).census = v.census := by
    rw [h']
    exact ⟨rfl, rfl⟩
  generalize v.reportReads g (v.grantReads g) = z at h3 h4 ⊢
  refine ⟨?_, ?_, fun i => (h1 i).trans ((h3 i).trans ?_)⟩
  · rw [← h2.1, ← h4.1]
    cases g.port <;> rfl
  · rw [← h2.2, ← h4.2]
    cases g.port <;> rfl
  · cases g.port <;> exact FlagsOnly.refl _

/-- The census takes up an entry: of the arbiter only its claim changes. -/
theorem takeUp_arb (s : State) (c : CensusRun) : ∃ w, (s.takeUp c).arb = { s.arb with waitCensus := w } := by
  unfold State.takeUp
  split
  · exact ⟨_, rfl⟩
  · refine ⟨none, ?_⟩
    cases c.port <;> rfl

/-- A counted census read: of the arbiter only the census's claim changes. -/
theorem censusRead_arb (s : State) (g : Nat) (r : Outcome × Data) :
    ∃ w, (s.censusRead g r).arb = { s.arb with waitCensus := w } := by
  unfold State.censusRead
  repeat' split
  all_goals dsimp only
  all_goals repeat' split
  all_goals first
    | exact ⟨_, rfl⟩
    | exact takeUp_arb _ _

/-- The end of a census read: the array is free for the arbiter's grants, and the engine's claim stands. -/
theorem censusReadEnd_before (s : State) (us : List Upset) (loc : Loc) (g e : Nat) (counts : Bool)
    (hu : s.arb.user = some (.census loc g e counts)) :
    ∃ u : State, exec (.censusReadEnd us) s = .next u.grantAfterCensus ∧
      ∃ w, u.arb = { s.arb with user := none, waitCensus := w } := by
  obtain ⟨x, m, h⟩ := upsets_touches s loc us
  have h2 : (s.upsets loc us).arb = s.arb := by rw [h]
  simp only [exec, execCensusReadEnd, State.endCensusRead, hu]
  refine ⟨_, rfl, ?_⟩
  generalize s.upsets loc us = v at h2 ⊢
  obtain ⟨a, b, c, d, h'⟩ := report_touches v ⟨(v.readGranule loc g).1, loc, g, some e, .census⟩
  have h3 : (v.report ⟨(v.readGranule loc g).1, loc, g, some e, .census⟩).arb = v.arb := by rw [h']
  generalize v.report ⟨(v.readGranule loc g).1, loc, g, some e, .census⟩ = z at h3 ⊢
  rw [← h2, ← h3]
  split
  · exact censusRead_arb _ _ _
  · exact ⟨z.arb.waitCensus, rfl⟩

end Sys2Proof.Machine
end

