-- ==== Sys2Proof/Laws/Scan.lean ====
section
/-! SUPPORT. The end of the scan: which claims are dropped for a key that a lower index holds, what becomes of the
recovery list, and where the unclaimed pairs are placed. -/

namespace Sys2Proof.Machine

/-- What a replacement of a pair's items leaves in the list. -/
theorem mem_replaceItems (p : Nat) (new items : List RecoveryItem) (x : RecoveryItem) :
    x ∈ replaceItems p new items ↔ x ∈ new ∨ x ∈ items ∧ x.pair ≠ p := by
  simp only [replaceItems, List.mem_append, List.mem_filter, decide_eq_true_iff]
  constructor
  · rintro ((h | h) | h)
    · exact Or.inr ⟨h.1, by omega⟩
    · exact Or.inl h
    · exact Or.inr ⟨h.1, by omega⟩
  · rintro (h | ⟨h, hn⟩)
    · exact Or.inl (Or.inr h)
    · rcases Nat.lt_or_gt_of_ne hn with h' | h'
      · exact Or.inl (Or.inl ⟨h, h'⟩)
      · exact Or.inr ⟨h, h'⟩

/-- The claims that R160 drops, of entries in rising order, where `seen` holds the keys of the LIVE entries before. -/
def droppedClaims (seen : List Key) : List (Nat × Entry) → List (Nat × Entry)
  | [] => []
  | (i, e) :: rest =>
    match e.body with
    | .live l => if seen.contains l.key then (i, e) :: droppedClaims seen rest else droppedClaims (l.key :: seen) rest
    | _ => droppedClaims seen rest

/-- Dropping the doubles is dropping those claims one after another. -/
theorem dropDoubles_eq (s : State) (seen : List Key) (es : List (Nat × Entry)) :
    s.dropDoubles seen es = (droppedClaims seen es).foldl (fun s d => s.dropClaim d.1 d.2) s := by
  induction es generalizing s seen with
  | nil => rfl
  | cons d rest ih =>
    obtain ⟨i, e⟩ := d
    unfold State.dropDoubles droppedClaims
    cases hb : e.body <;> simp only [ih]
    split <;> rfl

/-- A claim is dropped exactly when an earlier LIVE entry has its key. -/
theorem mem_droppedClaims (seen : List Key) (es : List (Nat × Entry)) (hr : es.Pairwise (fun x y => x.1 < y.1))
    (i : Nat) (e : Entry) : (i, e) ∈ droppedClaims seen es ↔
      (i, e) ∈ es ∧ ∃ l, e.body = .live l ∧
        (l.key ∈ seen ∨ ∃ j e' l', (j, e') ∈ es ∧ j < i ∧ e'.body = .live l' ∧ l'.key = l.key) := by
  induction es generalizing seen with
  | nil => simp [droppedClaims]
  | cons d rest ih =>
    obtain ⟨k, f⟩ := d
    rw [List.pairwise_cons] at hr
    have hlt : ∀ {j : Nat} {e' : Entry}, (j, e') ∈ rest → k < j := fun h => hr.1 _ h
    have other : (∀ l, f.body ≠ .live l) → (droppedClaims seen ((k, f) :: rest) = droppedClaims seen rest) := by
      intro h
      rw [droppedClaims]
      cases hb : f.body <;> first | rfl | exact absurd hb (h _)
    by_cases hf : ∃ l, f.body = .live l
    · obtain ⟨lf, hf⟩ := hf
      by_cases hseen : lf.key ∈ seen
      · have hd : droppedClaims seen ((k, f) :: rest) = (k, f) :: droppedClaims seen rest := by
          simp [droppedClaims, hf, hseen]
        rw [hd, List.mem_cons, ih _ hr.2]
        constructor
        · rintro (h | ⟨h, l, hl, hs⟩)
          · cases h
            exact ⟨List.mem_cons_self .., lf, hf, Or.inl hseen⟩
          · refine ⟨List.mem_cons_of_mem _ h, l, hl, hs.imp id ?_⟩
            rintro ⟨j, e', l', h1, h2⟩
            exact ⟨j, e', l', List.mem_cons_of_mem _ h1, h2⟩
        · rintro ⟨h, l, hl, hs⟩
          rcases List.mem_cons.1 h with h | h
          · exact Or.inl h
          · refine Or.inr ⟨h, l, hl, ?_⟩
            rcases hs with hs | ⟨j, e', l', h1, h2, h3, h4⟩
            · exact Or.inl hs
            · rcases List.mem_cons.1 h1 with h1 | h1
              · cases h1
                rw [hf] at h3
                cases h3
                exact Or.inl (h4 ▸ hseen)
              · exact Or.inr ⟨j, e', l', h1, h2, h3, h4⟩
      · have hd : droppedClaims seen ((k, f) :: rest) = droppedClaims (lf.key :: seen) rest := by
          simp [droppedClaims, hf, hseen]
        rw [hd, ih _ hr.2]
        constructor
        · rintro ⟨h, l, hl, hs⟩
          refine ⟨List.mem_cons_of_mem _ h, l, hl, ?_⟩
          rcases hs with hs | ⟨j, e', l', h1, h2⟩
          · rcases List.mem_cons.1 hs with hs | hs
            · exact Or.inr ⟨k, f, lf, List.mem_cons_self .., hlt h, hf, hs.symm⟩
            · exact Or.inl hs
          · exact Or.inr ⟨j, e', l', List.mem_cons_of_mem _ h1, h2⟩
        · rintro ⟨h, l, hl, hs⟩
          rcases List.mem_cons.1 h with h | h
          · cases h
            rw [hf] at hl
            cases hl
            rcases hs with hs | ⟨j, e', l', h1, h2, h3⟩
            · exact absurd hs hseen
            · rcases List.mem_cons.1 h1 with h1 | h1
              · cases h1
                omega
              · have := hlt h1
                omega
          · refine ⟨h, l, hl, ?_⟩
            rcases hs with hs | ⟨j, e', l', h1, h2, h3, h4⟩
            · exact Or.inl (List.mem_cons_of_mem _ hs)
            · rcases List.mem_cons.1 h1 with h1 | h1
              · cases h1
                rw [hf] at h3
                cases h3
                exact Or.inl (by rw [h4]; exact List.mem_cons_self ..)
              · exact Or.inr ⟨j, e', l', h1, h2, h3, h4⟩
    · rw [other (fun l h => hf ⟨l, h⟩), ih _ hr.2]
      constructor
      · rintro ⟨h, l, hl, hs⟩
        refine ⟨List.mem_cons_of_mem _ h, l, hl, hs.imp id ?_⟩
        rintro ⟨j, e', l', h1, h2⟩
        exact ⟨j, e', l', List.mem_cons_of_mem _ h1, h2⟩
      · rintro ⟨h, l, hl, hs⟩
        rcases List.mem_cons.1 h with h | h
        · cases h
          exact absurd ⟨l, hl⟩ hf
        · refine ⟨h, l, hl, hs.imp id ?_⟩
          rintro ⟨j, e', l', h1, h2, h3, h4⟩
          rcases List.mem_cons.1 h1 with h1 | h1
          · cases h1
            exact absurd ⟨l', h3⟩ hf
          · exact ⟨j, e', l', h1, h2, h3, h4⟩

/-- The items that take the place of those of a dropped claim's pair (R160). -/
def droppedItems (s : State) (p : Nat) : List RecoveryItem :=
  if s.isBad p then [.markBad p] else debrisItems p s.scan.found

/-- Those items are placed at their pair. -/
theorem droppedItems_pair (s : State) (p : Nat) (x : RecoveryItem) (h : x ∈ droppedItems s p) : x.pair = p := by
  unfold droppedItems at h
  split at h
  · simp only [List.mem_singleton] at h
    subst h
    rfl
  · unfold debrisItems debrisItem at h
    split at h
    · simp only [List.mem_append] at h
      rcases h with h | h
      all_goals
        split at h
        · exact absurd h (by simp)
        · simp only [List.mem_singleton] at h
          subst h
          rfl
    · cases h

/-- A dropped claim touches the directory and the recovery list alone. -/
theorem dropClaim_touches (s : State) (i : Nat) (e : Entry) :
    ∃ es r, s.dropClaim i e = { s with entries := es, recovery := r } := by
  unfold State.dropClaim
  cases e.pair <;> exact ⟨_, _, rfl⟩

/-- What is in the recovery list after a claim was dropped. -/
theorem dropClaim_recovery (s : State) (i : Nat) (e : Entry) (x : RecoveryItem) :
    x ∈ (s.dropClaim i e).recovery ↔
      x ∈ s.recovery ∧ e.pair ≠ some x.pair ∨ ∃ p, e.pair = some p ∧ x ∈ droppedItems s p := by
  unfold State.dropClaim
  cases hp : e.pair with
  | none => simp
  | some p =>
    simp only [mem_replaceItems]
    constructor
    · rintro (h | h)
      · exact Or.inr ⟨p, rfl, h⟩
      · exact Or.inl ⟨h.1, fun e => h.2 (Option.some.inj e).symm⟩
    · rintro (h | ⟨q, hq, h⟩)
      · exact Or.inr ⟨h.1, fun e => h.2 (by rw [e])⟩
      · cases hq
        exact Or.inl h

/-- What the directory holds after a claim was dropped. -/
theorem dropClaim_entries (s : State) (i : Nat) (e : Entry) :
    (s.dropClaim i e).entries = (s.setEntry i (homeEntry i)).entries := by
  unfold State.dropClaim
  cases e.pair <;> rfl

/-- Dropped claims touch the directory and the recovery list alone. -/
theorem dropClaims_touches (ds : List (Nat × Entry)) (s : State) :
    ∃ es r, ds.foldl (fun s d => s.dropClaim d.1 d.2) s = { s with entries := es, recovery := r } := by
  induction ds generalizing s with
  | nil => exact ⟨_, _, rfl⟩
  | cons d ds ih =>
    obtain ⟨es, r, h⟩ := dropClaim_touches s d.1 d.2
    obtain ⟨es', r', h'⟩ := ih (s.dropClaim d.1 d.2)
    exact ⟨es', r', by rw [List.foldl_cons, h', h]⟩

/-- What the directory holds after claims were dropped. -/
theorem dropClaims_entry (ds : List (Nat × Entry)) (s : State) (k : Nat) :
    (ds.foldl (fun s d => s.dropClaim d.1 d.2) s).entry k =
      if (∃ d ∈ ds, d.1 = k) then homeEntry k else s.entry k := by
  induction ds generalizing s with
  | nil => simp
  | cons d ds ih =>
    rw [List.foldl_cons, ih]
    have hd : (s.dropClaim d.1 d.2).entry k = (s.setEntry d.1 (homeEntry d.1)).entry k :=
      entry_congr (dropClaim_entries s d.1 d.2) k
    by_cases h : ∃ x ∈ ds, x.1 = k
    · rw [if_pos h, if_pos (by obtain ⟨x, hx, e⟩ := h; exact ⟨x, List.mem_cons_of_mem _ hx, e⟩)]
    · rw [if_neg h, hd]
      by_cases hk : d.1 = k
      · rw [if_pos ⟨d, List.mem_cons_self .., hk⟩, hk, entry_setEntry_same]
      · rw [if_neg, entry_setEntry_other _ _ _ _ (fun e => hk e.symm)]
        rintro ⟨x, hx, e⟩
        rcases List.mem_cons.1 hx with rfl | hx
        · exact hk e
        · exact h ⟨x, hx, e⟩

/-- What is in the recovery list after claims were dropped. -/
theorem dropClaims_recovery (ds : List (Nat × Entry)) (s : State) (x : RecoveryItem) :
    x ∈ (ds.foldl (fun s d => s.dropClaim d.1 d.2) s).recovery ↔
      x ∈ s.recovery ∧ (∀ d ∈ ds, d.2.pair ≠ some x.pair) ∨
        ∃ d ∈ ds, ∃ p, d.2.pair = some p ∧ x ∈ droppedItems s p := by
  induction ds generalizing s with
  | nil => simp
  | cons d ds ih =>
    obtain ⟨es, r, ht⟩ := dropClaim_touches s d.1 d.2
    have hdi : ∀ p, droppedItems (s.dropClaim d.1 d.2) p = droppedItems s p := by
      intro p
      rw [ht]
      rfl
    rw [List.foldl_cons, ih, dropClaim_recovery]
    simp only [hdi]
    constructor
    · rintro (⟨h, hd⟩ | ⟨d', hd', h⟩)
      · rcases h with h | h
        · refine Or.inl ⟨h.1, fun d' hd' => ?_⟩
          rcases List.mem_cons.1 hd' with rfl | hd'
          · exact h.2
          · exact hd d' hd'
        · exact Or.inr ⟨d, List.mem_cons_self .., h⟩
      · exact Or.inr ⟨d', List.mem_cons_of_mem _ hd', h⟩
    · rintro (⟨h, hd⟩ | ⟨d', hd', h⟩)
      · exact Or.inl ⟨Or.inl ⟨h, hd d (List.mem_cons_self ..)⟩, fun d' hd' => hd d' (List.mem_cons_of_mem _ hd')⟩
      · rcases List.mem_cons.1 hd' with rfl | hd'
        · by_cases hx : ∃ d2 ∈ ds, d2.2.pair = some x.pair
          · obtain ⟨d2, h2, hp⟩ := hx
            obtain ⟨p, hp', hi⟩ := h
            have := droppedItems_pair _ _ _ hi
            exact Or.inr ⟨d2, h2, p, by rw [hp, this], hi⟩
          · exact Or.inl ⟨Or.inr h, fun d2 h2 e => hx ⟨d2, h2, e⟩⟩
        · exact Or.inr ⟨d', hd', h⟩

/-- The directory stays in canonical form while claims are dropped. -/
theorem dropClaims_wf (ds : List (Nat × Entry)) (s : State) (h : entriesWf s.entries = true) :
    entriesWf (ds.foldl (fun s d => s.dropClaim d.1 d.2) s).entries = true := by
  induction ds generalizing s with
  | nil => exact h
  | cons d ds ih =>
    refine ih _ ?_
    rw [dropClaim_entries]
    exact sparseWf_set _ _ _ _ h

/-- What the entries are after the FREE ones whose home pair is taken have lost it (R161). -/
theorem withoutHome_entry (taken : List Nat) (ps : List Nat) (s : State) (k : Nat) :
    (s.withoutHome taken ps).entry k =
      if k ∈ ps ∧ k < 512 ∧ (s.entry k).isFree = true ∧ k ∈ taken then { s.entry k with pair := none }
      else s.entry k := by
  induction ps generalizing s with
  | nil => simp [State.withoutHome]
  | cons p ps ih =>
    rw [State.withoutHome, ih]
    by_cases hc : p < 512 ∧ (s.entry p).isFree = true ∧ p ∈ taken
    · rw [if_pos hc]
      by_cases hk : k = p
      · subst hk
        have : ((s.setEntry k { s.entry k with pair := none }).entry k).isFree = true := by
          rw [entry_setEntry_same]; exact hc.2.1
        simp only [entry_setEntry_same, List.mem_cons, true_or, true_and]
        rw [if_pos hc]
        split <;> rfl
      · simp only [entry_setEntry_other _ _ _ _ hk, List.mem_cons, hk, false_or]
    · rw [if_neg hc]
      by_cases hk : k = p
      · subst hk
        simp only [List.mem_cons, true_or, true_and]
        rw [if_neg (fun h => hc h.2), if_neg hc]
      · simp only [List.mem_cons, hk, false_or]

/-- That step of R161 touches the directory alone. -/
theorem withoutHome_touches (taken : List Nat) (ps : List Nat) (s : State) :
    ∃ es, s.withoutHome taken ps = { s with entries := es } := by
  induction ps generalizing s with
  | nil => exact ⟨_, rfl⟩
  | cons p ps ih =>
    rw [State.withoutHome]
    split
    · obtain ⟨es, h⟩ := ih (s.setEntry p { s.entry p with pair := none })
      exact ⟨es, h⟩
    · exact ih s

end Sys2Proof.Machine
end

