-- ==== Sys2Proof/Tests/Slice0.lean ====
section
/-! SUPPORT. The tests: ill-formed commands that the check refuses, single steps on small states, and for every statement
with hypotheses concrete states and operands that meet them, clause by clause (`test_met_<statement>`). -/

namespace Sys2Proof.Tests

-- One thread: kernel evaluations that wait for each other would else each hold a thread's stack.
set_option Elab.async false

open Sys2Proof.Machine

/-! ### States -/

/-- A READY part as the factory leaves it. -/
def ready : State := { State.reset with phase := .ready }

/-- A RESTART is deferred. -/
def deferred : State := { ready with restartDeferred := true }

/-- The part is held in reset. -/
def held : State := { State.reset with phase := .held }

/-- The bytes of key 5. -/
def key5 : Bytes := [0, 0, 0, 5]

/-- A record of 40 bytes of key 5. -/
def record5 : Live := ⟨5, 0, 40, 1, .a, 0, false, false, false⟩

/-- A part whose entry `i` is as given, on pair `i`. -/
def withBody (i : Nat) (b : EntryBody) (jobs : Nat) : State := { ready with entries := [(i, ⟨b, some i, jobs⟩)] }

/-- A part with the record of key 5 at entry 0. -/
def one : State := withBody 0 (.live record5) 0

/-- The response slot of a port holds a slot value. -/
def slotted (s : State) (p : Port) (sl : Slot) : State := s.modPort p (fun ps => { ps with slot := sl })

/-- A step of the engine holds the array, and nobody waits. -/
def running (s : State) (step : EngineStep) (w : Work) : State :=
  { s with arb := { Arbiter.reset with user := some (.engine step) }, work := w }

/-- One job waits. -/
def queued (s : State) (j : Job) : State := { s with queue := [j] }

/-- A class policy that permits nothing. -/
def closed : ClassPolicy := ⟨false, false, false, false, 40, 1⟩

/-- The state with every class closed. -/
def withClosed (s : State) : State :=
  { s with setup := { s.setup with contents := ⟨Vector.replicate 8 closed, 32⟩ } }

/-- The response slot of a port after a command. -/
def slotAfter (c : Instr) (s : State) (p : Port) : Option Slot :=
  match exec c s with
  | .next t => some (t.port p).slot
  | _ => none

/-- A test of the state after a command. -/
def after (c : Instr) (s : State) (test : State → Bool) : Bool :=
  match exec c s with
  | .next t => test t
  | _ => false

/-! ### Ill-formed commands are refused by the check -/

theorem test_wf_accepts : (Instr.find .m key5).wf = true ∧ (Instr.holdLapsed 7).wf = true := by decide +kernel

theorem test_wf_args : (Instr.find .m (List.replicate 241 0)).wf = false := by decide +kernel

theorem test_wf_upset_granule : (Instr.readComplete [.dataBit 8 0]).wf = false := by decide +kernel

theorem test_wf_upset_bit : (Instr.engineReadEnd [.dataBit 0 256]).wf = false := by decide +kernel

theorem test_wf_upset_check : (Instr.censusReadEnd [.checkBit 8 0]).wf = false := by decide +kernel

theorem test_wf_upset_copy : (Instr.markProgramEnd [.markCopy .commit 3]).wf = false := by decide +kernel

theorem test_wf_upset_mark : (Instr.cellEraseEnd [.markCopy (.patch 0) 0]).wf = false ∧
    (Instr.granuleProgramEnd [.markCopy (.patch 8) 0]).wf = false := by decide +kernel

theorem test_wf_residue : (Instr.powerOn ⟨[⟨8, 0, .only []⟩], []⟩).wf = false ∧
    (Instr.resetN ⟨[], [(.bad, 3)]⟩).wf = false ∧ (Instr.restart .m [] ⟨[], [(.patch 8, 0)]⟩).wf = false := by
  decide +kernel

theorem test_wf_unknown : (Instr.unknownCommand .m 0x01 []).wf = false ∧
    (Instr.unknownCommand .m 0xF0 []).wf = false ∧ (Instr.unknownCommand .s 0xF0 []).wf = true := by decide +kernel

theorem test_wf_badFrame : (Instr.badFrame .m [] true).wf = false ∧ (Instr.badFrame .m [0xF0] true).wf = false ∧
    (Instr.badFrame .m (commandFrame 0x70 []) false).wf = false ∧
    (Instr.badFrame .s (commandFrame 0x70 []) true).wf = false := by decide +kernel

theorem test_wf_ignoredFrame : (Instr.ignoredFrame .s [0x70, 0x00, 0x00]).wf = false := by decide +kernel

theorem test_wf_holdLapsed : (Instr.holdLapsed 8).wf = false := by decide +kernel

/-! ### Frames and checks -/

theorem test_transaction_find :
    commandOfTransaction .m (commandFrame 0x01 key5) false .untouched = some (.find .m key5) ∧
      commandOfTransaction .s (commandFrame 0x01 key5) true .untouched = some (.find .s key5) ∧
        ready.drivenOnM (commandFrame 0x01 []) = [0xFF, 0xFF, 0xFF] := by decide +kernel

theorem test_transaction_bad :
    commandOfTransaction .s [0x01, 0x00] false .untouched = some (.badFrame .s [0x01, 0x00] false) ∧
      commandOfTransaction .m (commandFrame 0x01 key5) true .untouched =
        some (.badFrame .m (commandFrame 0x01 key5) true) ∧
        commandOfTransaction .m [0xF0, 0x00] false .untouched = some (.fetch (.onM [0x00])) ∧
          commandOfTransaction .s [] true .untouched = none := by decide +kernel

theorem test_held_ports :
    held.drivenOnM (commandFrame 0x01 []) = [] ∧ held.drivenOnM [0xF0, 0x00] = [] ∧
      ready.drivenOnM [0xF0, 0x00, 0x00] = [0xFF, 0x03, 0x00] ∧ held.acknowledgesOnS 0x4C = false := by decide +kernel

theorem test_no_word_spells_a_command : decodeTableWord 32 0 = none ∧ ready.withFetchWord 32 0 = ready := ⟨rfl, rfl⟩

/-! ### Single steps -/

theorem test_find : slotAfter (.find .m key5) one .m =
    some (.ready .ok [0, 0, 2, 0, 0, 0, 5, 0, 40, 0, 1, 0, 0, 0, 0, 0, 0, 0xFF]) := by decide +kernel

theorem test_list : slotAfter (.list .s [0, 1, 0xFF]) one .s = some (.ready .endOfList []) := by decide +kernel

theorem test_read : slotAfter (.read .m (key5 ++ [0, 4])) one .m = some .pending := by decide +kernel

theorem test_readComplete :
    slotAfter (.readComplete []) { one with arb := { Arbiter.reset with user := some (.port ⟨.m, 0, Loc.num 0 .a, 1, 30, 4⟩) } }
      .m = some (.ready .ok [0, 1, 0, 4, 0xFF, 0xFF, 0xFF, 0xFF]) := by decide +kernel

theorem test_stage : after (.stage .m [0, 0, 2, 7, 8]) ready (fun t =>
    (t.buffers[0]).filled == 2 && (t.buffers[0]).byte 1 == 8 && (t.buffers[0]).byte 2 == 0xFF) = true := by
  decide +kernel

theorem test_discard : slotAfter (.discard .s [6]) ready .s = some (.ready .ok []) := by decide +kernel

theorem test_commit_refused : slotAfter (.commit .m (key5 ++ [0, 0, 0, 0, 0, 0])) one .m =
    some (.ready .badLength []) := by decide +kernel

theorem test_result : slotAfter (.result .m []) ready .m = some (.ready .noResult []) := by decide +kernel

theorem test_patch : slotAfter (.patch .m (key5 ++ [0, 1, 0, 0, 7])) one .m =
    some (.ready .accepted [1, 0, 0]) := by decide +kernel

theorem test_retire : slotAfter (.retire .s (key5 ++ [0, 0])) one .s = some (.ready .accepted [1, 0, 0]) := by
  decide +kernel

theorem test_hold : slotAfter (.hold .m key5) one .m = some (.ready .ok [0, 0, 50]) := by decide +kernel

theorem test_renew : slotAfter (.renew .m key5) one .m = some (.ready .notHeld []) := by decide +kernel

theorem test_release : slotAfter (.release .s key5) one .s = some (.ready .notHeld []) := by decide +kernel

theorem test_fix : slotAfter (.fix .m key5) one .m = some (.ready .accepted [1, 0, 0]) := by decide +kernel

theorem test_inhibit : slotAfter (.inhibit .m [0x81, 0x02]) ready .m = some (.ready .ok [0x81]) := by decide +kernel

theorem test_capture : slotAfter (.capture .m []) ready .m =
    some (.ready .ok ([0, 0] ++ List.replicate 28 0xFF)) := by decide +kernel

theorem test_captureClear : slotAfter (.captureClear .s []) ready .s = some (.ready .ok []) := by decide +kernel

theorem test_refreshList : slotAfter (.refreshList .m []) ready .m = some (.ready .ok [0, 0, 0, 0]) := by
  decide +kernel

theorem test_census : after (.census .m [3]) ready (fun t => (t.port .m).has .censusDone) = true := by decide +kernel

theorem test_censusResult : slotAfter (.censusResult .m []) ready .m = some (.ready .ok [0]) := by decide +kernel

theorem test_censusCancel : slotAfter (.censusCancel .m []) ready .m = some (.ready .ok []) := by decide +kernel

theorem test_setupRead : slotAfter (.setupRead .m []) ready .m =
    some (.ready .ok ((List.replicate 8 [0x0F#8, 0xE0#8, 0x32#8]).flatten ++ [0x04, 0, 0, 0])) := by decide +kernel

theorem test_setupWrite : slotAfter (.setupWrite .s (List.replicate 26 1)) ready .s = some (.ready .denied []) := by
  decide +kernel

theorem test_status : slotAfter (.status .m []) State.reset .m =
    some (.ready .ok [0, 0, 0xFF, 0, 2, 0, 0, 0, 0, 32, 0, 0, 0, 0, 0, 0, 0, 1, 0]) := by decide +kernel

theorem test_restart : after (.restart .m [] .untouched) ready (fun t => t.phase == .starting) = true := by
  decide +kernel

theorem test_powerOn : after (.powerOn .untouched) one (fun t => t.phase == .held && t.entries.isEmpty) = true := by
  decide +kernel

theorem test_jobStart :
    after .jobStart (queued one ⟨1, .m, .fix 0 5⟩) (fun t =>
      t.arb.user == some (.engine (.mark (Loc.num 0 .a) (markBit .fixed)))) = true := by decide +kernel

theorem test_markProgramEnd :
    after (.markProgramEnd [])
      (running (queued one ⟨1, .m, .fix 0 5⟩) (.mark (Loc.num 0 .a) (markBit .fixed)) (.fix ⟨1, .m, .fix 0 5⟩ 0))
      (fun t => (t.entry 0).isFixed && (t.markField (Loc.num 0 .a)).has .fixed && t.queue.isEmpty) = true := by
  decide +kernel

theorem test_cellEraseEnd_failed :
    after (.cellEraseEnd [.dataBit 0 0]) (running one (.erase (Loc.num 7 .b)) (.eraseDebris 7 .b .erase))
      (fun t => t.isBad 7 && t.work == .eraseDebris 7 .b .badFailed) = true := by decide +kernel

theorem test_scanGranuleReadEnd :
    after (.scanGranuleReadEnd []) State.reset (fun t =>
      t.scan.pos == .setupContents .a && t.phase == .starting) = true := by decide +kernel

/-! ### States that meet the hypotheses of the statements -/

theorem test_met_StepTakesFrontOfQueue :
    ({ ready with pending := [.jobStart, .scanEnd] } : State).pending = .jobStart :: [.scanEnd] ∧ ready.pending = [] :=
  ⟨rfl, rfl⟩

theorem test_met_PortCommandsLeaveArray :
    ((commandOn (.find .m key5)).isSome = true ∧ isRestart (.find .m key5) = false) ∧
      (∃ t, exec (.find .m key5) one = .next t) ∧ (∃ t, exec (.unknownCommand .s 0xF0 []) one = .next t) ∧
        (∃ t, exec (.fetch (.onM [])) one = .next t) ∧ (∃ t, exec (.badFrame .m [1] false) one = .next t) ∧
          ∃ t, exec (.ignoredFrame .m []) one = .next t :=
  ⟨⟨rfl, rfl⟩, ⟨_, rfl⟩, ⟨_, rfl⟩, ⟨_, rfl⟩, ⟨_, rfl⟩, ⟨_, rfl⟩⟩

theorem test_met_NotReadyIsAnswered :
    (commandOn (.find .m key5) = some (.m, key5) ∧ isStatus (.find .m key5) = false ∧
      countListed (.find .m key5) = true ∧ State.reset.takesNotReady .m) ∧
    (commandOn (.restart .s [] .untouched) = some (.s, []) ∧ isStatus (.restart .s [] .untouched) = false ∧
      countListed (.restart .s [] .untouched) = true ∧ deferred.takesNotReady .s) := by decide +kernel

theorem test_met_FramesThatAreNotTaken :
    (commandOn (.status .s []) = some (.s, []) ∧ ready.phase ≠ .held ∧
      ((slotted ready .s .pending).port .s).slot = .pending) ∧
    held.phase = .held ∧ (commandOn (.status .s [])).isSome = true := by decide +kernel

theorem test_met_UnlistedCountIsBadArg :
    (commandOn (.status .m [0]) = some (.m, [0]) ∧ countListed (.status .m [0]) = false ∧ ready.phase ≠ .held ∧
      (ready.port .m).slot ≠ .pending) ∧
    countListed (.stage .s [6, 0, 2, 1]) = false ∧ countListed (.stage .m [0, 0, 1, 1]) = true := by decide +kernel

theorem test_met_InvalidKeyIsBadArg :
    (commandOn (.find .m [0, 0, 0, 0]) = some (.m, [0, 0, 0, 0]) ∧ carriesKey (.find .m [0, 0, 0, 0]) = true ∧
      countListed (.find .m [0, 0, 0, 0]) = true ∧ ready.takes .m ∧ headKey [0, 0, 0, 0] = 0#32) ∧
    (carriesKey (.fix .s [0xFF, 0xFF, 0xFF, 0xFF]) = true ∧ countListed (.fix .s [0xFF, 0xFF, 0xFF, 0xFF]) = true ∧
      headKey [0xFF, 0xFF, 0xFF, 0xFF] = 0xFFFFFFFF#32) ∧
    keyValid 1 = true ∧ keyValid 0xFFFFFFFE = true := by decide +kernel

theorem test_met_UnknownAndDiscardedFrames :
    ready.phase ≠ .held ∧
    (commandCodes.contains 0x00#8 = false ∧ (Port.m = .m → (0x00 : Byte) ≠ 0xF0#8) ∧ (ready.port .m).slot ≠ .pending) ∧
    (commandCodes.contains 0xF0#8 = false ∧ (Port.s = .m → (0xF0 : Byte) ≠ 0xF0#8) ∧
      (slotted ready .s .pending).phase ≠ .held ∧ ((slotted ready .s .pending).port .s).slot = .pending) ∧
    (([0x70] : Bytes) ≠ [] ∧ (Port.m = .m → ([0x70] : Bytes).head? ≠ some 0xF0#8) ∧ frameWellFormed [0x70] = false) ∧
    (commandFrame 0x70 [] ≠ [] ∧ (commandFrame 0x70 []).head? ≠ some 0xF0#8 ∧
      frameWellFormed (commandFrame 0x70 []) = true) ∧
    (frameWellFormed (commandFrame 0x23 []) = true ∧
      (Port.s = .m → (commandFrame 0x23 []).head? ≠ some 0xF0#8) ∧
      ((slotted ready .s .pending).port .s).slot = .pending) := by decide +kernel

theorem test_met_FetchCollectsResponse :
    ready.phase ≠ .held ∧
    ((slotted ready .m (.ready .ok [])).portM.slot = .ready .ok [] ∧
      ([0, 0, 0, 0] : Bytes).length = ([] : Bytes).length + 4) ∧
    (slotted ready .s (.ready .ok (List.replicate 228 1))).portS.slot = .ready .ok (List.replicate 228 1) ∧
    (ready.port (Fetch.onM []).port).slot = .empty ∧
      ((slotted ready .s .pending).port (Fetch.onS 0 true).port).slot = .pending := by decide +kernel

/-- Port M's slot 3 and Port S's slot 4 are LAPSED. -/
def lapsed : State := { one with holds := (one.holds.set 3 (.lapsed .m 0 5)).set 4 (.lapsed .s 0 5) }

theorem test_met_AckAndEventMaskAct :
    lapsed.takes .m ∧ (0xFF#8).getLsbD 1 = true ∧ (0xFD#8).getLsbD 1 = false ∧
    (slotPort 3 = .m ∧ lapsed.holds[(3 : Fin 8)] = .lapsed .m 0 5) ∧ slotPort 4 ≠ .m ∧
    lapsed.holds[(0 : Fin 8)] = .empty := by decide +kernel

theorem test_met_QueriesAnswerTheirRecord :
    (State.reset.phase ≠ .held ∧ (State.reset.port .m).slot ≠ .pending) ∧ (deferred.port .s).slot ≠ .pending ∧
      ready.takes .s := by decide +kernel

/-- Entry 511 is RETIRING with key 5. -/
def retiring511 : State := withBody 511 (.retiring 5 7 65535) 0

theorem test_met_FindAnswersByTable :
    State.reset.takesNotReady .m ∧ (ready.takes .m ∧ keyValid (word32 0 0 0 0) = false) ∧
    (one.takes .s ∧ keyValid (word32 0 0 0 5) = true ∧ one.activeIndex (word32 0 0 0 5) = some 0) ∧
    (retiring511.takes .m ∧ retiring511.activeIndex (word32 0 0 0 5) = none ∧
      retiring511.retiringList (word32 0 0 0 5) = 511 :: []) ∧
    (ready.takes .m ∧ keyValid (word32 0xFF 0xFF 0xFF 0xFE) = true ∧
      ready.activeIndex (word32 0xFF 0xFF 0xFF 0xFE) = none ∧ ready.retiringList (word32 0xFF 0xFF 0xFF 0xFE) = []) := by
  decide +kernel

theorem test_met_ListAnswersByTable :
    State.reset.takesNotReady .m ∧
    (ready.takes .m ∧ 512 < (word16 2 1).toNat) ∧ (7 < (8 : Byte).toNat ∧ (8 : Byte) ≠ 0xFF#8) ∧
    (retiring511.takes .m ∧ (word16 1 0xFF).toNat ≤ 512 ∧ (word16 1 0xFF).toNat ≤ 511 ∧
      (retiring511.entry 511).cls? = some 7 ∧ (7 : Byte).toNat = (7 : Cls).val) ∧
    (word16 2 0).toNat ≤ 512 := by decide +kernel

/-- No entry of the empty directory is found. -/
theorem test_met_ListAnswersByTable_end (i : Nat) (f : Byte) :
    ¬(0 ≤ i ∧ i < 512 ∧ ∃ c, (ready.entry i).cls? = some c ∧ (f = 0xFF#8 ∨ f.toNat = c.val)) := by
  rintro ⟨_, _, c, h, _⟩
  cases h

/-- Nothing below an entry at the index the search begins with is found. -/
theorem test_met_ListAnswersByTable_lowest (j : Nat) (h : j < 511) : ¬((word16 1 0xFF).toNat ≤ j) :=
  Nat.not_le.mpr h

theorem test_met_DescriptionLayout :
    one.entry 0 = ⟨.live record5, some 0, 0⟩ ∧
    ({ ready with entries := [(3, ⟨.nascent 5 7, none, 1⟩)] } : State).entry 3 = ⟨.nascent 5 7, none, 1⟩ ∧
    (withBody 3 (.nascent 5 7) 1).entry 3 = ⟨.nascent 5 7, some 3, 1⟩ ∧
    retiring511.entry 511 = ⟨.retiring 5 7 65535, some 511, 0⟩ ∧
    ({ ready with entries := [(3, ⟨.retiring 5 7 1, none, 1⟩)] } : State).entry 3 = ⟨.retiring 5 7 1, none, 1⟩ := by
  decide +kernel

theorem test_met_ReadOnFreeArrayIsGranted :
    one.takes .m ∧ readArgs (key5 ++ [39, 224]) = some ⟨5, 39, 224⟩ ∧ keyValid 5 = true ∧ one.activeIndex 5 = some 0 ∧
      (one.entry 0).body = .live record5 ∧ (one.entry 0).pair = some 0 ∧ 39 < record5.length ∧ one.arrayFree := by
  decide +kernel

theorem test_met_ReadIsRefusedByTable :
    (one.takes .m ∧ readArgs (key5 ++ [224, 1]) = some ⟨5, 224, 1⟩ ∧ 223 < 224) ∧
    readArgs (key5 ++ [0, 225]) = some ⟨5, 0, 225⟩ ∧
    (retiring511.takes .m ∧ readArgs (key5 ++ [223, 224]) = some ⟨5, 223, 224⟩ ∧ retiring511.activeIndex 5 = none ∧
      retiring511.retiringList 5 ≠ []) ∧
    (ready.takes .s ∧ ready.activeIndex 5 = none ∧ ready.retiringList 5 = []) ∧
    ((withBody 0 (.nascent 5 0) 1).takes .m ∧ (withBody 0 (.nascent 5 0) 1).activeIndex 5 = some 0 ∧
      ((withBody 0 (.nascent 5 0) 1).entry 0).body = .nascent 5 0) ∧
    (readArgs (key5 ++ [40, 1]) = some ⟨5, 40, 1⟩ ∧ one.activeIndex 5 = some 0 ∧ record5.length ≤ 40) := by
  decide +kernel

/-- An erase of cell B of pair 0, suspended five times so far, holds the array. -/
def erasing : State :=
  { one with
    arb := { Arbiter.reset with user := some (.engine (.erase (Loc.num 0 .b))), suspCount := 5 }
    work := .eraseDebris 0 .b .erase }

/-- A granule program of cell B of pair 0 is in progress. -/
def programming : State :=
  running one (.program (Loc.num 0 .b) 7 0) (.idle)

theorem test_met_ReadSuspendsErase :
    erasing.takes .s ∧ readArgs (key5 ++ [0, 1]) = some ⟨5, 0, 1⟩ ∧ erasing.activeIndex 5 = some 0 ∧
      (erasing.entry 0).body = .live record5 ∧ (erasing.entry 0).pair = some 0 ∧ 0 < record5.length ∧
        erasing.engineAlone (.erase (Loc.num 0 .b)) ∧ erasing.arb.suspCount < 6 ∧ Loc.num 0 .a ≠ Loc.num 0 .b := by
  decide +kernel

/-- The part with the record of key 5 and the arbiter given. -/
def arbitrating (a : Arbiter) : State := { one with arb := a }

/-- A READ of the record of key 5 that waits. -/
def claim5 : ReadClaim := ⟨0, 0, 1, Loc.num 0 .a⟩

/-- A READ of the record of key 5 that holds the array. -/
def grant5 (p : Port) : ReadGrant := ⟨p, 0, Loc.num 0 .a, 1, 0, 1⟩

/-- A step of the engine holds the array, and READs and the census wait as given. -/
def contended (step : EngineStep) (m s : Option ReadClaim) (census : Option CensusClaim) : State :=
  { arbitrating { Arbiter.reset with user := some (.engine step), waitM := m, waitS := s, waitCensus := census } with
    census := some { CensusRun.start none .m with current := some ⟨0, 5, 0, 1, 40, Loc.num 0 .a, []⟩ } }

/-- Of a granule program, of a mark program, of a read, of a step of the record's own cell and of one that has spent its
budget. -/
theorem test_met_ReadSuspendsErase_waits :
    (programming.takes .s ∧ programming.engineAlone (.program (Loc.num 0 .b) 7 0) ∧ programming.arb.suspCount < 2 ∧
      programming.activeIndex 5 = some 0 ∧ Loc.num 0 .a ≠ (EngineStep.program (Loc.num 0 .b) 7 0).loc) ∧
    (({ programming with arb := { programming.arb with suspCount := 2 } } : State).arb.user =
        some (.engine (.program (Loc.num 0 .b) 7 0)) ∧
      2 ≤ ({ programming with arb := { programming.arb with suspCount := 2 } } : State).arb.suspCount) ∧
    ((contended (.mark (Loc.num 0 .b) 1) (some claim5) none none).takes .s ∧
      (contended (.mark (Loc.num 0 .b) 1) (some claim5) none none).arb.waiting (otherPort .s) = some claim5) ∧
    (contended (.read (Loc.num 0 .b) 1 none) none none none).takes .s ∧
    ((contended (.erase (Loc.num 0 .a)) none none none).takes .m ∧
      claim5.loc = (EngineStep.erase (Loc.num 0 .a)).loc) ∧
    (arbitrating { Arbiter.reset with user := some (.port (grant5 .m)) }).takes .s := by decide +kernel

/-- The READ of Port S that suspended an erase holds the array; of Port M a READ waits as given. -/
def suspending (granted : List Port) (count : Nat) (loc : Loc) (m s : Option ReadClaim) : State :=
  arbitrating
    { Arbiter.reset with
      user := some (.port (grant5 .s)), suspended := some ⟨.erase loc, 3, granted⟩, suspCount := count
      waitM := m, waitS := s }

theorem test_met_ReadSuspendsErase_suspended :
    (Port.s ∈ [Port.s] ∧ (suspending [.s] 6 (Loc.num 0 .b) none none).arb.waitM = none) ∧
    ((suspending [.s] 1 (Loc.num 0 .a) (some claim5) none).arb.waiting .m = some claim5 ∧
      claim5.loc = (EngineStep.erase (Loc.num 0 .a)).loc) ∧
    ((suspending [.s] 1 (Loc.num 0 .b) (some claim5) none).entry claim5.entry = ⟨.live record5, some 0, 0⟩ ∧
      claim5.offset < record5.length ∧ claim5.loc ≠ (EngineStep.erase (Loc.num 0 .b)).loc ∧ Port.m ∉ [Port.s]) ∧
    (Port.m ∈ [Port.s, .m] ∧ (suspending [.s, .m] 6 (Loc.num 0 .b) (some claim5) none).arb.waiting (otherPort .m) = none ∧
      (suspending [.s, .m] 5 (Loc.num 0 .b) (some claim5) none).arb.suspCount < 6) := by decide +kernel

theorem test_met_ReadSuspendsErase_stepEnds :
    ((contended (.erase (Loc.num 0 .b)) (some claim5) (some claim5) (some (.data 1))).arb.lastPort ≠ .m ∧
      after (.cellEraseEnd []) (contended (.erase (Loc.num 0 .b)) (some claim5) (some claim5) (some (.data 1)))
        (fun t => t.entry 0 == ⟨.live record5, some 0, 0⟩) = true) ∧
    (contended (.mark (Loc.num 0 .b) 1) none (some claim5) none).arb.waiting (otherPort .s) = none ∧
    ((contended (.read (Loc.num 7 .b) 1 none) none none (some (.data 1))).arb.waitCensus = some (.data 1) ∧
      (contended (.read (Loc.num 7 .b) 1 none) none none (some (.data 1))).restartDeferred = false) ∧
    ((contended (.program (Loc.num 7 .b) 1 0) none none (some (.header 0))).arb.waitCensus = some (.header 0) ∧
      after (.granuleProgramEnd []) (contended (.program (Loc.num 7 .b) 1 0) none none (some (.header 0)))
        (fun t => t.entry 0 == ⟨.live record5, some 0, 0⟩) = true) := by decide +kernel

/-- A READ of Port M holds the array at a step boundary; of Port S a READ waits as given. -/
def bounding (b : Boundary) (s : Option ReadClaim) (census : Option CensusClaim) (step : Option EngineStep) : State :=
  { contended (.erase (Loc.num 0 .b)) none s census with
    arb :=
      { Arbiter.reset with
        user := some (.port (grant5 .m)), boundary := some b, waitS := s, waitCensus := census, waitEngine := step } }

theorem test_met_ReadSuspendsErase_boundary :
    ((bounding ⟨[.s], true⟩ (some claim5) none none).arb.waiting .m = none ∧ Port.s ∈ [Port.s] ∧
      (bounding ⟨[.s], true⟩ (some claim5) none none).arb.waiting .s = some claim5) ∧
    ((bounding ⟨[], true⟩ (some claim5) (some (.data 2)) none).arb.waitCensus = some (.data 2) ∧ Port.s ∉ ([] : List Port)) ∧
    ((bounding ⟨[], false⟩ none none (some (.mark (Loc.num 7 .b) 1))).arb.waitEngine =
        some (.mark (Loc.num 7 .b) 1) ∧
      (bounding ⟨[], false⟩ none none (some (.mark (Loc.num 7 .b) 1))).arb.waiting .s = none) ∧
    ((bounding ⟨[], false⟩ (some claim5) none (some (.program (Loc.num 7 .b) 1 0))).arb.waiting .s = some claim5 ∧
      claim5.loc ≠ (EngineStep.program (Loc.num 7 .b) 1 0).loc ∧
        (bounding ⟨[], false⟩ (some claim5) none (some (.program (Loc.num 7 .b) 1 0))).entry 0 =
          ⟨.live record5, some 0, 0⟩) := by decide +kernel

/-- A census read holds the array, and the engine's next step waits. -/
theorem test_met_ReadSuspendsErase_census :
    let a : Arbiter :=
      { Arbiter.reset with
        user := some (.census (Loc.num 0 .a) 0 0 true), waitEngine := some (.mark (Loc.num 7 .b) 1) }
    (arbitrating a).arb.waitM = none ∧ (arbitrating a).arb.waitCensus = none ∧ (arbitrating a).arb.boundary = none ∧
      (arbitrating { a with boundary := some ⟨[], false⟩ }).arb.boundary = some ⟨[], false⟩ := by decide +kernel

theorem test_met_ReadCompleteAnswers :
    ({ one with arb := { Arbiter.reset with user := some (.port ⟨.s, 0, Loc.num 0 .a, 1, 39, 1⟩) } } : State).arb.user =
        some (.port ⟨.s, 0, Loc.num 0 .a, 1, 39, 1⟩) ∧
      Arbiter.reset.waiting .s = none := by decide +kernel

theorem test_met_ReadOutcomeByWrongBits : (0 < 256 ∧ 255 < 256 ∧ 0 ≠ 255) := by decide

/-- Buffer 0 is QUEUED, buffer 1 FILLING. -/
def buffered : State :=
  { one with buffers := (one.buffers.set 0 ⟨.queued, [], 40⟩).set 1 ⟨.filling, [], 40⟩ }

theorem test_met_StageWritesBuffer :
    (buffered.takes .m ∧ (List.replicate 224 (1 : Byte)).length = (224 : Byte).toNat ∧ ([1] : Bytes).length = (1 : Byte).toNat) ∧
    bufferPort 6 ≠ .m ∧ (bufferPort 0 = .m ∧ 223 < (224 : Byte).toNat) ∧
    ((1 : Byte).toNat ≤ 223 ∧ 224 < (1 : Byte).toNat + (224 : Byte).toNat) ∧
    ((223 : Byte).toNat ≤ 223 ∧ (223 : Byte).toNat + (1 : Byte).toNat ≤ 224 ∧
      (buffered.buffers[(0 : Fin 8)]).state = .queued ∧ (buffered.buffers[(5 : Fin 8)]).state ≠ .queued) := by
  decide +kernel

theorem test_met_DiscardAnswersByState :
    State.reset.takesNotReady .s ∧ (buffered.takes .m ∧ 8 ≤ (8 : Byte).toNat) ∧
    ((7 : Byte).toNat = (7 : Fin 8).val ∧ bufferPort 7 ≠ .m ∧ bufferPort 7 = .s) ∧
    (buffered.buffers[(1 : Fin 8)]).state = .filling ∧ (buffered.buffers[(2 : Fin 8)]).state = .empty ∧
      (buffered.buffers[(0 : Fin 8)]).state = .queued ∧ bufferPort 0 = .m := by decide +kernel

/-- A result waits on Port M. -/
def resulted : State :=
  ready.modPort .m (fun ps => { ps with results := [⟨1, .fix, some 0, some 5, .done, none, false⟩] })

theorem test_met_ResultReturnsOldest :
    resulted.takes .m ∧ (resulted.port .m).results = ⟨1, .fix, some 0, some 5, .done, none, false⟩ :: [] ∧
      resulted.takes .s ∧ (resulted.port .s).results = [] := by decide +kernel

/-- In a part that lists entry 0 alone, the jobs are counted when those of every entry are. -/
theorem counted_of (s : State) (e : Entry) (hs : s.entries = [(0, e)])
    (h0 : e.jobs = (s.queue.filter (fun j => j.body.entry? == some 0)).length)
    (h : ∀ j ∈ s.queue, j.body.entry? = some 0 ∨ j.body.entry? = none) : jobsCounted s := by
  intro i
  by_cases hi : i = 0
  · subst hi
    simpa [State.entry, hs, sparseGet] using h0
  · have hq : s.queue.filter (fun j => j.body.entry? == some i) = [] := by
      rw [List.filter_eq_nil_iff]
      intro j hj
      rcases h j hj with e | e <;> simp [e, Ne.symm hi]
    simp [State.entry, hs, sparseGet, hi, hq, homeEntry]

theorem test_met_CreateIsAccepted :
    (buffered.takes .m ∧ commitArgs ([0, 0, 0, 6, 5, 224, 0, 0, 1, 7]) = some ⟨6, 5, 224, 0, 1, 7⟩ ∧ keyValid 6 = true ∧
      clsOfByte 7 = some 7 ∧ (5 : Byte).toNat = (5 : Fin 8).val ∧ bufferPort 5 = .m ∧
        (buffered.buffers[(5 : Fin 8)]).state ≠ .queued ∧ buffered.activeIndex 6 = none ∧
          buffered.allocatable = some 1 ∧ buffered.inhibited 7 = false ∧ 224 ≤ (buffered.policy 7).maxLength.toNat ∧
            buffered.queue.length < 8 ∧ (buffered.port .m).outstanding + (buffered.port .m).results.length < 8) ∧
      jobsCounted buffered :=
  ⟨by decide +kernel, counted_of buffered _ rfl rfl nofun⟩

/-- A COMMIT from buffer 0 waits for entry 0. -/
def waiting : State :=
  { buffered with
    queue := [⟨1, .m, .commit 0 5 0 40 0⟩]
    entries := [(0, ⟨.live record5, some 0, 1⟩)]
    portM := { buffered.portM with outstanding := 1, ticket := 255 } }

theorem test_met_CommitCoalesces :
    waiting.takes .m ∧ commitArgs (key5 ++ [1, 0, 0, 1, 0, 0]) = some ⟨5, 1, 0, 1, 0, 0⟩ ∧ keyValid 5 = true ∧
      (1 : Byte).toNat = (1 : Fin 8).val ∧ bufferPort 1 = .m ∧ 1 ≤ (waiting.buffers[(1 : Fin 8)]).filled ∧
        (waiting.buffers[(1 : Fin 8)]).state ≠ .queued ∧ waiting.activeIndex 5 = some 0 ∧
          waiting.entry 0 = ⟨.live record5, some 0, 1⟩ ∧
            (⟨.live record5, some 0, 1⟩ : Entry).isFixed = false ∧ waiting.holdsActive (otherPort .m) 0 = false ∧
              (⟨.live record5, some 0, 1⟩ : Entry).cls? = some 0 ∧
                (waiting.buffers[(1 : Fin 8)]).filled ≤ (waiting.policy 0).maxLength.toNat ∧
                  waiting.inhibited 0 = false ∧ waiting.waitingFor 0 = some ⟨1, .m, .commit 0 5 0 40 0⟩ ∧
                    (JobBody.commit 0 5 0 40 0).buffer? = some 0 ∧ (0 : Fin 8) ≠ 1 ∧
                      (waiting.port .m).outstanding + (waiting.port .m).results.length < 8 := by decide +kernel

/-- A part with a record of 224 bytes of key 5. -/
def full224 : State := { buffered with entries := [(0, ⟨.live { record5 with length := 224 }, some 0, 0⟩)] }

theorem test_met_EntryJobsAreAccepted :
    (full224.takes .m ∧ keyValid 5 = true ∧ full224.activeIndex 5 = some 0 ∧ (full224.entry 0).isFixed = false ∧
      full224.holdsActive (otherPort .m) 0 = false ∧ (full224.entry 0).cls? = some 0 ∧ full224.inhibited 0 = false ∧
        full224.waitingFor 0 = none ∧ full224.queue.length < 8 ∧
          (full224.port .m).outstanding + (full224.port .m).results.length < 8) ∧
    (commitArgs (key5 ++ [1, 224, 0, 0, 1, 7]) = some ⟨5, 1, 224, 0, 1, 7⟩ ∧ (1 : Byte).toNat ≤ 1 ∧ (7 : Byte).toNat ≤ 7 ∧
      bufferPort 1 = .m ∧ (full224.buffers[(1 : Fin 8)]).state ≠ .queued ∧ 224 ≤ (full224.policy 0).maxLength.toNat) ∧
    (patchArgs (key5 ++ [223, 1, 0, 0, 7]) = some ⟨5, 223, 0, [7]⟩ ∧ 223 + ([7] : Bytes).length ≤ 224 ∧
      (full224.entry 0).live? = some { record5 with length := 224 } ∧ (full224.policy 0).patchOk = true) ∧
    (retireArgs (key5 ++ [0, 1]) = some (5, 1) ∧ (full224.policy 0).retireOk = true) ∧ keyArg key5 = some 5 := by
  decide +kernel

/-- The record of key 5 is fixed. -/
def fixed5 : State := { one with entries := [(0, ⟨.live { record5 with fixed := true }, some 0, 0⟩)] }

/-- Port M holds entry 0. -/
def holding : State := { one with holds := one.holds.set 0 (.active .m 0 5 1) }

/-- The queue holds eight SETUP jobs. -/
def queueOf8 : State := { one with queue := List.replicate 8 ⟨1, .m, .setup SetupContents.factory false⟩ }

theorem test_met_RetireAndFixAreRefusedInOrder :
    (one.takes .m ∧ keyValid 5 = true ∧ one.activeIndex 5 = some 0 ∧ (one.entry 0).cls? = some 0 ∧
      retireArgs (key5 ++ [0, 0]) = some (5, 0) ∧ keyArg key5 = some 5) ∧
    (fixed5.entry 0).isFixed = true ∧ holding.holdsActive (otherPort .s) 0 = true ∧
    ((withClosed one).policy 0).retireOk = false ∧ ({ one with inhibit := 1 } : State).inhibited 0 = true ∧
    (waiting.waitingFor 0).isSome = true ∧ 8 ≤ queueOf8.queue.length ∧
    8 ≤ ({ one with portM := { one.portM with outstanding := 8 } } : State).portM.outstanding := by decide +kernel

/-- In-range setup contents. -/
def contents : Bytes := (List.replicate 8 [0x0F#8, 0xE0#8, 0x01#8]).flatten ++ [0x20]

theorem test_met_SetupWriteAcceptance :
    setupArgs (contents ++ [1]) = some (contents, 1) ∧ contentsInRange contents = true ∧
    contentsInRange (List.replicate 25 0) = false ∧ 1 < (2 : Byte).toNat ∧ ready.takes .s ∧ ready.takes .m ∧
    ready.setup.fixed = false ∧ ({ ready with setup := { ready.setup with fixed := true } } : State).takes .m ∧
    queueOf8.waitingJobs.any (fun j => j.body.isSetup) = true ∧
    ready.waitingJobs.any (fun j => j.body.isSetup) = false ∧ ready.queue.length < 8 ∧
    ready.portM.outstanding + ready.portM.results.length < 8 := by decide +kernel

theorem test_met_RefusedJobChangesOnlySlot :
    exec (.fix .m [0, 0, 0, 0]) ready = .next (ready.answer .m .badArg []) ∧
      ∀ d, ((ready.answer .m .badArg []).port .m).slot ≠ .ready .accepted d :=
  ⟨rfl, nofun⟩

/-- No entry is FREE. -/
def noFree : State := { ready with entries := (List.range 512).map (fun i => (i, ⟨.retiring 6 7 1, some i, 0⟩)) }

/-- A PATCH waits for entry 0. -/
def patchWaits : State := { one with queue := [⟨1, .m, .patch 0 5 0 [7] 0⟩] }

theorem test_met_RefusedJobChangesOnlySlot_commit :
    (buffered.takes .m ∧ commitArgs (key5 ++ [6, 0, 0, 0, 0, 0]) = some ⟨5, 6, 0, 0, 0, 0⟩ ∧
      (6 : Byte).toNat = (6 : Fin 8).val ∧ bufferPort 6 ≠ .m) ∧
    (commitArgs ([0, 0, 0, 0, 1, 0, 0, 0, 0, 0]) = some ⟨0, 1, 0, 0, 0, 0⟩ ∧ keyValid 0 = false ∧ bufferPort 1 = .m) ∧
    (commitArgs (key5 ++ [1, 225, 0, 0, 1, 7]) = some ⟨5, 1, 225, 0, 1, 7⟩ ∧ 224 < 225) ∧
    ((buffered.buffers[(2 : Fin 8)]).filled = 0 ∧ (buffered.buffers[(0 : Fin 8)]).state = .queued) ∧
    (ready.activeIndex 5 = none ∧ ready.retiringList 5 = [] ∧ retiring511.activeIndex 5 = none ∧
      retiring511.retiringList 5 ≠ []) ∧
    (noFree.takes .m ∧ noFree.activeIndex 5 = none ∧ noFree.allocatable = none) ∧
    ((withClosed ready).allocatable = some 0 ∧ clsOfByte 7 = some 7 ∧
      ((withClosed ready).policy 7).maxLength.toNat < 41) ∧
    (fixed5.activeIndex 5 = some 0 ∧ (fixed5.entry 0).cls? = some 0 ∧ (fixed5.entry 0).isFixed = true) ∧
    (patchWaits.waitingFor 0 = some ⟨1, .m, .patch 0 5 0 [7] 0⟩ ∧ (JobBody.patch 0 5 0 [7] 0).isCommit = false) ∧
    (queueOf8.takes .m ∧ queueOf8.activeIndex 5 = some 0 ∧ queueOf8.waitingFor 0 = none ∧ 8 ≤ queueOf8.queue.length) := by
  decide +kernel

theorem test_met_RefusedJobChangesOnlySlot_entryJobs :
    (one.takes .m ∧ patchArgs (key5 ++ [224, 1, 0, 0, 7]) = some ⟨5, 224, 0, [7]⟩ ∧ 223 < 224) ∧
    (patchArgs (key5 ++ [223, 2, 0, 0, 7, 7]) = some ⟨5, 223, 0, [7, 7]⟩ ∧ 224 < 223 + ([7, 7] : Bytes).length) ∧
    (patchArgs (key5 ++ [40, 1, 0, 0, 7]) = some ⟨5, 40, 0, [7]⟩ ∧ (one.entry 0).body = .live record5 ∧
      record5.length < 40 + ([7] : Bytes).length) ∧
    (patchArgs (key5 ++ [39, 1, 0, 0, 7]) = some ⟨5, 39, 0, [7]⟩ ∧ 39 + ([7] : Bytes).length ≤ record5.length ∧
      ((withClosed one).policy 0).patchOk = false ∧ (withClosed one).takes .m ∧
        (withClosed one).activeIndex 5 = some 0) ∧
    (retireArgs (key5 ++ [0, 0]) = some (5, 0) ∧ keyArg key5 = some 5 ∧ keyValid 5 = true ∧
      ready.activeIndex 5 = none) := by decide +kernel

/-- All four slots of Port M are taken, on entries 1 to 4. -/
def slotsFull : State :=
  { one with
    holds := (((one.holds.set 0 (.active .m 1 6 1)).set 1 (.active .m 2 7 1)).set 2 (.active .m 3 8 1)).set 3
      (.lapsed .m 4 9) }

theorem test_met_HoldActsByTable :
    (one.takes .m ∧ keyArg key5 = some 5 ∧ keyValid 5 = true ∧ one.activeIndex 5 = some 0 ∧
      (one.entry 0).cls? = some 0) ∧
    (retiring511.takes .m ∧ retiring511.activeIndex 5 = none ∧ retiring511.retiringList 5 ≠ []) ∧
    (ready.takes .m ∧ ready.activeIndex 5 = none ∧ ready.retiringList 5 = []) ∧
    ((slotsOf .m).find? (fun x => (holding.holds[x]).activeOn 0) = some 0 ∧ holding.takes .m ∧
      holding.holds[(0 : Fin 8)] = .active .m 0 5 1) ∧
    ((slotsOf .s).find? (fun x => (holding.holds[x]).activeOn 0) = none ∧ holding.takes .s ∧
      holding.holdsActive (otherPort .s) 0 = true) ∧
    ((slotsOf .m).find? (fun x => (lapsed.holds[x]).lapsedOn 0) = some 3 ∧ lapsed.takes .m ∧
      (slotsOf .m).find? (fun x => (lapsed.holds[x]).activeOn 0) = none ∧ lapsed.holdsActive (otherPort .m) 0 = false) ∧
    ((slotsOf .s).find? (fun x => one.holds[x] == .empty) = some 4 ∧
      (slotsOf .s).find? (fun x => (one.holds[x]).lapsedOn 0) = none) ∧
    ((slotsOf .m).find? (fun x => slotsFull.holds[x] == .empty) = none ∧
      (slotsOf .m).find? (fun x => (slotsFull.holds[x]).lapsedOn 0) = none ∧
      (slotsOf .m).find? (fun x => (slotsFull.holds[x]).activeOn 0) = none ∧ slotsFull.takes .m) := by decide +kernel

theorem test_met_RenewAndReleaseBySlot :
    (one.takes .m ∧ keyArg key5 = some 5 ∧ keyValid 5 = true ∧ one.slotForKey .m 5 = none) ∧
    (holding.takes .m ∧ holding.slotForKey .m 5 = some 0 ∧ holding.holds[(0 : Fin 8)] = .active .m 0 5 1 ∧
      (holding.entry 0).cls? = some 0) ∧
    (lapsed.takes .s ∧ lapsed.slotForKey .s 5 = some 4 ∧ lapsed.holds[(4 : Fin 8)] = .lapsed .s 0 5) := by
  decide +kernel

/-- ACTIVE slots with leases 2, 1 and 0. -/
def leased : State :=
  { one with holds := ((one.holds.set 0 (.active .m 0 5 2)).set 4 (.active .s 1 6 1)).set 1 (.active .m 2 7 0) }

theorem test_met_LeasesCountDownAndLapse :
    leased.phase = .ready ∧ (leased.holds[(0 : Fin 8)] = .active .m 0 5 2 ∧ 2 ≤ (2 : Byte).toNat) ∧
    (leased.holds[(4 : Fin 8)] = .active .s 1 6 1 ∧ (1 : Byte).toNat ≤ 1) ∧ leased.holds[(7 : Fin 8)] = .empty ∧
    leased.holds[(1 : Fin 8)] = .active .m 2 7 0 ∧ State.reset.phase ≠ .ready := by decide +kernel

/-- Port S has no slot that lapses. -/
theorem test_met_LeasesCountDownAndLapse_none :
    ¬∃ (slot : Fin 8) (i : Nat) (k : Key) (lease : Byte), holding.holds[slot] = .active .s i k lease ∧ lease.toNat ≤ 1 := by
  have hn : ∀ i : Fin 8, i ≠ 0 → (holding.holds[i]).entry? = none := by decide +kernel
  rintro ⟨slot, i, k, lease, h, _⟩
  by_cases h0 : slot = 0
  · subst h0
    have : holding.holds[(0 : Fin 8)] = .active .m 0 5 1 := rfl
    rw [this] at h
    cases h
  · have := hn slot h0
    rw [h] at this
    cases this

theorem test_met_InhibitSetsAndClears :
    ready.takes .m ∧ (0x80#8 &&& 0x80#8 ≠ 0) ∧ (0x7F#8 &&& 0x80#8 = 0) := by decide +kernel

theorem test_met_CaptureClearEmptiesRecord : deferred.takesNotReady .m ∧ ready.takes .s := by decide +kernel

/-- A report of a read of granule `g` of the record of key 5. -/
def reportOn (o : Outcome) (g : Nat) (party : Party) : Report := ⟨o, Loc.num 0 .a, g, some 0, party⟩

theorem test_met_ReportEntersCapture :
    (reportOn .corrected 1 .scan).outcome = .corrected ∧ (reportOn .uncorrectable 1 .scan).outcome = .uncorrectable ∧
      (reportOn .unguarded 1 .engine).outcome = .unguarded := ⟨rfl, rfl, rfl⟩

theorem test_met_ReportActsOnEntryAndPorts :
    ((reportOn .corrected 1 .portM).place.entry = some 0 ∧ one.entry 0 = ⟨.live record5, some 0, 0⟩ ∧
      (reportOn .corrected 1 .portM).place.loc = Loc.num 0 record5.cell ∧ record5.fixed = false ∧
        record5.damaged = false ∧ record5.refreshWanted = false ∧ (one.policy record5.cls).refreshOk = true) ∧
    ((reportOn .uncorrectable 0 .engine).place.party ≠ .scan ∧ (reportOn .uncorrectable 0 .engine).place.granule = 0 ∧
      one.refresh.list.length < 16) ∧
    16 ≤ ({ one with refresh := ⟨List.range' 1 16, false⟩ } : State).refresh.list.length ∧
    ((reportOn .uncorrectable 1 .census).place.party ≠ .scan ∧ 1 ≤ (reportOn .uncorrectable 1 .census).place.granule) ∧
    (reportOn .uncorrectable 1 .scan).place.party = .scan := by decide +kernel

/-- A census of class 0 is RUNNING. -/
def counting : State := { one with census := some (CensusRun.start (some 0) .m) }

theorem test_met_CensusStartsAndCancels :
    (counting.takes .s ∧ scopeOfByte 7 = some (some 7) ∧ counting.census = some (CensusRun.start (some 0) .m) ∧
      (CensusRun.start (some 0) .m).state = .running) ∧
    (one.takes .m ∧ one.arrayFree ∧ one.nextVisit (some 7) 0 = none) ∧
    (scopeOfByte 0xFF = some none ∧ one.nextVisit none 0 = some 0 ∧ (one.entry 0).body = .live record5 ∧
      (one.entry 0).pair = some 0) := by decide +kernel

theorem test_met_CensusStartsAndCancels_none (r : CensusRun) (h : one.census = some r) : r.state ≠ .running :=
  nomatch h

/-- The census's header read of the record of key 5 holds the array. -/
def countingRead : State :=
  let e : CensusEntry := ⟨0, 5, 0, 1, 40, Loc.num 0 .a, []⟩
  { one with
    census := some { CensusRun.start none .m with current := some e }
    arb := { Arbiter.reset with user := some (.census (Loc.num 0 .a) 0 0 true) } }

theorem test_met_CensusHeaderReadEnters :
    countingRead.arb = { Arbiter.reset with user := some (.census (Loc.num 0 .a) 0 0 true), lastPort := .s } ∧
      countingRead.census =
        some { CensusRun.start none .m with current := some ⟨0, 5, 0, 1, 40, Loc.num 0 .a, []⟩ } ∧ 1 ≤ 40 := by
  decide +kernel

/-- Data granule `g` of the record of key 5 is read by the census; entry 1 has the body given. -/
def countingData (g : Nat) (next : EntryBody) : State :=
  { countingRead with
    entries := [(0, ⟨.live record5, some 0, 0⟩), (1, ⟨next, some 1, 0⟩)]
    arb := { Arbiter.reset with user := some (.census (Loc.num 0 .a) g 0 true), lastPort := .m } }

theorem test_met_CensusHeaderReadEnters_data :
    (1 < 1 + (40 - 1) / 32 ∧ (countingData 1 (.nascent 6 0)).arb.lastPort = .m) ∧
    (2 = 1 + (40 - 1) / 32 ∧ (countingData 2 (.live { record5 with key := 6 })).nextVisit none 1 = some 1 ∧
      (countingData 2 (.live { record5 with key := 6 })).entry 1 = ⟨.live { record5 with key := 6 }, some 1, 0⟩) ∧
    (countingData 2 (.nascent 6 0)).nextVisit none 1 = none := by decide +kernel

/-- The header read of entry 3, which is FREE by now, would be granted at the end of a READ of Port S. -/
theorem test_met_CensusHeaderReadEnters_gone :
    let a : Arbiter := { Arbiter.reset with user := some (.port (grant5 .s)), waitCensus := some (.header 3) }
    ({ countingRead with arb := a } : State).arb = { a with lastPort := .s } ∧
      (({ countingRead with arb := a } : State).entry 3).body = .free ∧
        ({ countingRead with arb := a } : State).nextVisit none 0 = some 0 := by decide +kernel

/-- A SETUP job that writes setup cell B. -/
def setupJob : SetupJob := ⟨SetupContents.factory, false, 2, .b, false⟩

/-- The SETUP job as it stands in the queue. -/
def setupQueued : Job := ⟨1, .m, .setup SetupContents.factory false⟩

/-- A SETUP job runs its commit mark. -/
def setupRunning : State :=
  running (queued ready setupQueued) (.mark setupJob.loc (markBit .commit)) (.setup setupQueued setupJob .commitMark)

theorem test_met_RestartByPortAndWork :
    State.reset.takesNotReady .m ∧ deferred.takesNotReady .s ∧ ready.takes .s ∧
    (setupRunning.takes .m ∧ setupRunning.work = .setup setupQueued setupJob .commitMark) ∧
    (ready.takes .m ∧ ready.work = .idle ∧ ready.arb.suspended = none ∧ ready.arb.user = none) ∧
    (erasing.takes .m ∧ erasing.work = .eraseDebris 0 .b .erase ∧ erasing.arb.suspended = none ∧
      (EngineStep.erase (Loc.num 0 .b)).loc ≠ Loc.num 0 .a ∧ Residue.untouched.wf = true) := by decide +kernel

/-- The erase of an erased cell, abandoned, leaves its granules erased whatever moved. -/
theorem test_restart_abandons_erase :
    after (.restart .m [] ⟨[⟨1, BitVec.allOnes 256, .allBut [3]⟩, ⟨2, 5, .only [0, 2]⟩], []⟩) erasing (fun t =>
      t.readGranule (Loc.num 0 .b) 1 == erasedRead && t.readGranule (Loc.num 0 .b) 2 == erasedRead) = true := by
  decide +kernel

theorem test_met_ResetHoldsThenStarts :
    (Residue.untouched.wf = true ∧ (⟨[⟨7, 1, .only [0]⟩], [(.patch 7, 2)]⟩ : Residue).wf = true) ∧
    (erasing.arb.suspended = none ∧ (EngineStep.erase (Loc.num 0 .b)).loc ≠ Loc.num 0 .a) ∧
    (programming.takes .m ∧ programming.work = .idle ∧ programming.arb.suspended = none ∧
      programming.arb.user = some (.engine (.program (Loc.num 0 .b) 7 0))) ∧
    held.phase = .held := by decide +kernel

/-- The scan reads the header of cell A of pair 543. -/
def scanning : State := { State.reset with scan := { Scan.start with pos := .cell 543 .a } }

/-- The same with a header that does not read erased. -/
def scanningWritten : State := scanning.setGranule (Loc.num 543 .a) 0 (Granule.programmed 0)

theorem test_met_ScanReadGoesOn :
    (scanning.phase = .starting ∧ scanning.scan.pos = .cell 543 .a ∧ scanning.scan.now.granule = 0 ∧
      readsErased (scanning.readGranule (Loc.num 543 .a) 0) = true) ∧
    (scanningWritten.phase = .starting ∧ scanningWritten.scan.pos = .cell 543 .a ∧
      scanningWritten.scan.now.granule = 0 ∧
        readsErased (scanningWritten.readGranule (Loc.num 543 .a) 0) = false) := by decide +kernel

/-- The header of a record of key 5 of entry 511. -/
def header (gen : Gen) : Header := ⟨5, 511, 7, gen, 40⟩

/-- A cell with that header, classified as given. -/
def cellOf (c : Classification) (gen : Gen) : CellFound := ⟨c, some (header gen), 0⟩

/-- The scan reads the header of cell B of a pair whose cell A is as given, with entry 511 claimed as given; cell B has
generation 2 and the marks given. -/
def scanB (a : CellFound) (marks : BitVec 12) (claimed : List (Nat × Entry)) : State :=
  { State.reset with
    scan := { Scan.start with pos := .cell 543 .b, first := some a }, entries := claimed }.setGranule (Loc.num 543 .b) 0
      (Granule.programmed (headerData 5 511 7 2 40)) |>.programMarks (Loc.num 543 .b) marks

/-- What the scan finds of cell B. -/
def foundB (s : State) : CellFound :=
  let r := s.readGranule (Loc.num 543 .b) 0
  ⟨classify (s.markField (Loc.num 543 .b)) (headerOf r).isSome false, headerOf r, (s.markField (Loc.num 543 .b)).voted⟩

/-- Entry 511 is LIVE on pair 3 with the generation given. -/
def live511 (gen : Gen) : List (Nat × Entry) := [(511, ⟨.live ⟨5, 7, 40, gen, .a, 0, false, false, false⟩, some 3, 0⟩)]

/-- A commit mark and, with it, another. -/
def commitAnd (m : Mark) : BitVec 12 := markBit .commit ||| markBit m

theorem test_met_ScanReadGoesOn_pair :
    ((scanB (cellOf .retired 1) 0 []).phase = .starting ∧ (scanB (cellOf .retired 1) 0 []).scan.pos = .cell 543 .b ∧
      (scanB (cellOf .retired 1) 0 []).scan.first = some (cellOf .retired 1) ∧
        (scanB (cellOf .retired 1) 0 []).scan.now.granule = 0 ∧
          (scanB (cellOf .retired 1) 0 []).readGranule (Loc.num 543 .b) 0 ≠ erasedRead) ∧
    (foundB (scanB (cellOf .retired 1) 0 [])).cls = .written ∧
    (foundB (scanB (cellOf .retired 1) (markBit .bad) [])).cls = .bad ∧
    (foundB (scanB (cellOf .written 1) (commitAnd .retire) [])).cls = .retired ∧
    ((foundB (scanB (cellOf .retired 1) (commitAnd .retire) [])).header = some (header 2) ∧ keepsSecond 1 2 = true ∧
      keepsSecond 3 2 = false) ∧
    (foundB (scanB (cellOf .committed 1) (markBit .commit) [])).cls = .committed ∧
    (foundB (scanB (cellOf .committed 1) (commitAnd .supersede) [])).cls = .superseded ∧
    (foundB (scanB (cellOf .committed 1) (markBit .retire) [])).cls = .debris ∧
    (foundB (scanB (cellOf .debris 1) 0 [])).cls = .written ∧
    (foundB (scanB (cellOf .bad 1) (markBit .bad) [])).cls = .bad ∧
    (foundB (scanB (cellOf .bad 1) (markBit .commit) [])).cls = .committed := by decide +kernel

theorem test_met_ScanReadGoesOn_claim :
    ((scanB (cellOf .debris 1) (markBit .commit) []).entry 511).body = .free ∧
    (((scanB (cellOf .debris 1) (markBit .commit) (live511 1)).entry 511).pair = some 3 ∧
      ((scanB (cellOf .debris 1) (markBit .commit) (live511 1)).entry 511).gen? = some 1 ∧
        (foundB (scanB (cellOf .debris 1) (markBit .commit) (live511 1))).header = some (header 2) ∧
          keepsSecond 1 (header 2).gen = true) ∧
    (((scanB (cellOf .debris 1) (markBit .commit) (live511 3)).entry 511).gen? = some 3 ∧
      keepsSecond 3 (header 2).gen = false) := by decide +kernel

/-- The scan reads the last granule of cell B of pair 543, all of it erased so far. -/
def scanLast (a : CellFound) : State :=
  { State.reset with scan := { Scan.start with pos := .cell 543 .b, now := ⟨7, MarkField.erased, true⟩, first := some a } }

theorem test_met_ScanReadGoesOn_erased :
    (scanLast (cellOf .committed 1)).scan.now.granule = 7 ∧
    classify (scanLast (cellOf .committed 1)).scan.now.marks false
      ((scanLast (cellOf .committed 1)).scan.now.erased &&
        readsErased ((scanLast (cellOf .committed 1)).readGranule (Loc.num 543 .b) 7)) = .erased := by decide +kernel

/-- The scan reads granule 1 of a COMMITTED setup cell B of generation 2, with what was found of cell A. -/
def scanSetupB (a : Option SetupFound) : State :=
  { State.reset with
    scan := { Scan.start with pos := .setupContents .b, setupA := a, setupB := some ⟨.committed, some 2, 0, none⟩ } }

/-- The same with a granule 1 that reads UNCORRECTABLE. -/
def scanSetupBad (a : Option SetupFound) : State :=
  (scanSetupB a).setGranule (Loc.setup .b) 1 { Granule.programmed 0 with data := 3 }

theorem test_met_ScanReadGoesOn_setup :
    ((scanSetupB none).phase = .starting ∧ (scanSetupB none).scan.pos = .setupContents .b ∧
      (scanSetupB none).scan.setupB = some ⟨.committed, some 2, 0, none⟩ ∧ (scanSetupB none).scan.setupA = none ∧
        ((scanSetupB none).readGranule (Loc.setup .b) 1).1 ≠ .uncorrectable) ∧
    (scanSetupB (some ⟨.written, some 1, 0, none⟩)).scan.setupA = some ⟨.written, some 1, 0, none⟩ ∧
    ((scanSetupB (some ⟨.committed, some 1, 0, some 0⟩)).scan.setupA = some ⟨.committed, some 1, 0, some 0⟩ ∧
      keepsSecond 1 2 = true ∧ keepsSecond 3 2 = false) ∧
    ((scanSetupBad none).readGranule (Loc.setup .b) 1).1 = .uncorrectable := by decide +kernel

/-- All pairs are read. Entries 0 and 1 have key 5, on pairs 5 and 6; pair 6 had a cell B that was not ERASED. -/
def scanned (bad : List Nat) : State :=
  { State.reset with
    scan := { Scan.start with pos := .done, found := [(5, .committed, .erased), (6, .committed, .debris)] }
    entries := [(0, ⟨.live record5, some 5, 0⟩), (1, ⟨.live record5, some 6, 0⟩)]
    bad := bad }

theorem test_met_ScanEndEntersReady :
    State.reset.phase = .starting ∧
    ((scanned []).phase = .starting ∧ (scanned []).scan.pos = .done ∧ entriesWf (scanned []).entries = true) ∧
    (((scanned []).entry 1).body = .live record5 ∧ 0 < 1 ∧ ((scanned []).entry 0).body = .live record5 ∧
      ((scanned []).entry 1).pair = some 6 ∧ (scanned []).isBad 6 = false ∧
        (scanned []).scan.found.find? (fun f => f.1 == 6) = some (6, .committed, .debris)) ∧
    ((scanned [6]).isBad 6 = true ∧ ((scanned [6]).entry 6).body = .free) := by decide +kernel

/-- The FREE entries are on their home pairs. -/
theorem test_met_ScanEndEntersReady_free (i : Nat) (h : ((scanned []).entry i).body = .free) :
    (scanned []).entry i = ⟨.free, some i, 0⟩ := by
  by_cases h0 : i = 0
  · subst h0
    cases h
  · by_cases h1 : i = 1
    · subst h1
      cases h
    · simp [State.entry, scanned, sparseGet, h0, h1, homeEntry]

theorem test_met_SuccessorRule :
    ((1#16 : Gen) ≠ 0 ∧ (0xFFFF#16 : Gen) ≠ 0) ∧ ((0xFFFF#16 : Gen) = 0xFFFF#16 ∧ (1#16 : Gen) = 1#16) ∧
    (2#16 : Gen).toNat = (1#16 : Gen).toNat + 1 ∧
    ((3#16 : Gen).toNat ≠ (1#16 : Gen).toNat + 1 ∧ (1#16 : Gen).toNat ≠ (3#16 : Gen).toNat + 1) := by decide +kernel

/-- One job at the head of the queue of a part with the record of key 5. -/
def withJob (s : State) (b : JobBody) : State := queued s ⟨1, .m, b⟩

theorem test_met_JobStartsItsFirstStep :
    (one.engineFree ∧ one.recovery = [] ∧ (withJob one (.fix 0 5)).queue = ⟨1, .m, .fix 0 5⟩ :: [] ∧
      one.entry 0 = ⟨.live record5, some 0, 0⟩ ∧ one.isBad 0 = false) ∧
    firstFailing ((withJob one (.commit 0 5 0 224 1)).startChecks (.commit 0 5 0 224 1)) = none ∧
    (firstFailing ((withBody 0 (.nascent 5 7) 1).startChecks (.commit 0 5 7 1 0)) = none ∧
      (withBody 0 (.nascent 5 7) 1).entry 0 = ⟨.nascent 5 7, some 0, 1⟩) ∧
    (({ one with bad := [0] } : State).isBad 0 = true ∧ one.pool = 512 :: List.range' 513 31 ∧
      firstFailing (({ one with bad := [0] } : State).startChecks (.commit 0 5 0 1 0)) = none) ∧
    ((({ ready with entries := [(0, ⟨.nascent 5 7, none, 1⟩)], pool := [] } : State).entry 0).pair = none ∧
      (({ ready with entries := [(0, ⟨.nascent 5 7, none, 1⟩)], pool := [] } : State).entry 0).key? = some 5 ∧
        firstFailing (({ ready with entries := [(0, ⟨.nascent 5 7, none, 1⟩)], pool := [] } : State).startChecks
          (.commit 0 5 0 1 0)) = none) ∧
    firstFailing (one.startChecks (.patch 0 5 39 [0] 0)) = none ∧ firstFailing (one.startChecks (.retire 0 5 1)) = none ∧
    firstFailing (one.startChecks (.fix 0 5)) = none ∧
    (firstFailing (one.startChecks (.setup SetupContents.factory true)) = none ∧ one.setup.currentCell = none) ∧
    ({ one with setup := { one.setup with currentCell := some .a } } : State).setup.currentCell =
      some (otherCell .b) := by decide +kernel

/-- A first COMMIT whose class has been inhibited since. -/
def inhibitedCreate : State :=
  { withJob (withBody 0 (.nascent 5 7) 1) (.commit 0 5 7 1 0) with inhibit := 0x80 }

theorem test_met_FailedStartCheckCompletes :
    (inhibitedCreate.engineFree ∧ inhibitedCreate.recovery = [] ∧
      inhibitedCreate.queue = ⟨1, .m, .commit 0 5 7 1 0⟩ :: [] ∧
        firstFailing (inhibitedCreate.startChecks (.commit 0 5 7 1 0)) = some .inhibited) ∧
    ((JobBody.commit 0 5 7 1 0).buffer? = some 7 ∧ (JobBody.commit 0 5 7 1 0).entry? = some 0 ∧
      (JobBody.commit 0 5 7 1 0).isCommit = true ∧ inhibitedCreate.entry 0 = ⟨.nascent 5 7, some 0, 1⟩ ∧
        inhibitedCreate.isBad 0 = false) ∧
    one.entry 0 = ⟨.live record5, some 0, 0⟩ := by decide +kernel

/-- Entry 0 is at the head of the refresh list. -/
def listed : State :=
  { one with
    entries := [(0, ⟨.live { record5 with refreshWanted := true }, some 0, 0⟩)]
    refresh := ⟨[0], false⟩ }

theorem test_met_RefreshHeadIsTakenOrDropped :
    (listed.engineFree ∧ listed.recovery = [] ∧ listed.queue = [] ∧ listed.refresh.list = 0 :: [] ∧
      listed.entry 0 = ⟨.live { record5 with refreshWanted := true }, some 0, 0⟩ ∧
        (listed.policy record5.cls).refreshOk = true) ∧
    ((withClosed listed).engineFree ∧ ((withClosed listed).policy record5.cls).refreshOk = false) ∧
    (({ listed with refresh := ⟨[3, 0], true⟩ } : State).refresh.list = 3 :: [0] ∧ 3 ∉ [0] ∧
      (listed.entry 3).body = .free) := by decide +kernel

/-- Entry 511 alone is wanted after entry 3, a FREE one, was dropped from a list that overflowed. -/
theorem test_met_RefreshHeadIsTakenOrDropped_sweep (k : Nat) :
    let s : State :=
      { withBody 511 (.live { record5 with refreshWanted := true }) 0 with refresh := ⟨[3], true⟩ }
    k ∈ [511] ↔ k < 512 ∧ ∃ l, (s.entry k).body = .live l ∧ l.refreshWanted = true := by
  simp only [List.mem_singleton]
  constructor
  · rintro rfl
    exact ⟨by decide, _, rfl, rfl⟩
  · rintro ⟨_, l, hl, _⟩
    by_cases h : k = 511
    · exact h
    · simp [State.entry, withBody, sparseGet, h, homeEntry] at hl

/-- A REFRESH of entry 0 reads data granule `g` of its record. -/
def refreshing (g : Nat) : State :=
  { running listed (.read (Loc.num 0 .a) g (some 0)) (.refreshRead 0 0 .a g []) with entries := listed.entries }

theorem test_met_RefreshHeadIsTakenOrDropped_reads :
    ((refreshing 1).engineAlone (.read (Loc.num 0 .a) 1 (some 0)) ∧ (refreshing 1).work = .refreshRead 0 0 .a 1 [] ∧
      (refreshing 1).entry 0 = ⟨.live { record5 with refreshWanted := true }, some 0, 0⟩) ∧
    (((refreshing 1).engineReads (Loc.num 0 .a) 1 [.dataBit 1 0, .dataBit 1 1]).1 = .uncorrectable ∧
      ((refreshing 1).engineReads (Loc.num 0 .a) 1 [.dataBit 1 0]).1 = .corrected) ∧
    (1 < 1 + (record5.length - 1) / 32 ∧ 1 + (record5.length - 1) / 32 ≤ 2 ∧
      ((refreshing 2).engineReads (Loc.num 0 .a) 2 []).1 = .clean) ∧
    ((refreshing 2).isBad 0 = false ∧ ({ refreshing 2 with bad := [0] } : State).isBad 0 = true ∧
      (refreshing 2).pool = 512 :: List.range' 513 31) := by decide +kernel

/-- A recovery item waits. -/
def recovering (i : RecoveryItem) : State := { ready with recovery := [i] }

theorem test_met_RecoveryItemStarts :
    ((recovering (.eraseDebris 543 .b)).engineFree ∧
      (recovering (.eraseDebris 543 .b)).recovery = .eraseDebris 543 .b :: []) ∧
    (recovering (.supersede 0 .a)).engineFree ∧ (recovering (.finishRetire 511 0 .b)).engineFree ∧
    ((recovering (.markBad 0)).engineFree ∧ ((recovering (.markBad 0)).markField (Loc.num 0 .a)).has .bad = false) ∧
    ((((recovering (.markBad 0)).programMarks (Loc.num 0 .a) (markBit .bad)).markField (Loc.num 0 .a)).has .bad = true ∧
      ((recovering (.markBad 0)).markField (Loc.num 0 .b)).has .bad = false) ∧
    ((((recovering (.markBad 0)).programMarks (Loc.num 0 .b) (markBit .bad)).markField (Loc.num 0 .b)).has .bad =
      true) := by decide +kernel

/-- Two copies of the commit mark change of themselves. -/
def markLost : List Upset := [.markCopy .commit 0, .markCopy .commit 1]

/-- A mark program of a recovery item holds the array. -/
def recoveryMark (i : RecoveryItem) (w : Work) (l : Loc) (m : BitVec 12) : State :=
  { running (recovering i) (.mark l m) w with recovery := [i] }

theorem test_met_RecoveryItemStarts_marks :
    ((recoveryMark (.supersede 0 .a) (.supersede 0 .a) (Loc.num 0 .a) (markBit .supersede)).engineAlone
        (.mark (Loc.num 0 .a) (markBit .supersede)) ∧
      (recoveryMark (.supersede 0 .a) (.supersede 0 .a) (Loc.num 0 .a) (markBit .supersede)).recovery =
        .supersede 0 .a :: []) ∧
    ((recoveryMark (.markBad 0) (.markBad 0 .a) (Loc.num 0 .a) (markBit .bad)).work = .markBad 0 .a ∧
      (((recoveryMark (.markBad 0) (.markBad 0 .a) (Loc.num 0 .a) (markBit .bad)).markEnded (Loc.num 0 .a) (markBit .bad)
        [.markCopy .bad 0, .markCopy .bad 1]).markField (Loc.num 0 .b)).has .bad = false) ∧
    ((((recoveryMark (.markBad 0) (.markBad 0 .a) (Loc.num 0 .a) (markBit .bad)).programMarks (Loc.num 0 .b)
      (markBit .bad)).markEnded (Loc.num 0 .a) (markBit .bad) []).markField (Loc.num 0 .b)).has .bad = true ∧
    (recoveryMark (.markBad 0) (.markBad 0 .b) (Loc.num 0 .b) (markBit .bad)).work = .markBad 0 .b := by decide +kernel

/-- A step of the ERASE_DEBRIS item on cell B of pair 7, with the record of key 5 on pair 0. -/
def debris (step : DebrisStep) (est : EngineStep) : State :=
  { running one est (.eraseDebris 7 .b step) with recovery := [.eraseDebris 7 .b] }

theorem test_met_RecoveryItemStarts_debris :
    ((debris .erase (.erase (Loc.num 7 .b))).recovery = .eraseDebris 7 .b :: [] ∧
      (debris .erase (.erase (Loc.num 7 .b))).engineAlone (.erase (Loc.num 7 .b)) ∧
        (debris .erase (.erase (Loc.num 7 .b))).work = .eraseDebris 7 .b .erase) ∧
    ((debris .erase (.erase (Loc.num 7 .b))).eraseEnded (Loc.num 7 .b) []).cellErased (Loc.num 7 .b) ∧
    ¬((debris .erase (.erase (Loc.num 7 .b))).eraseEnded (Loc.num 7 .b) [.dataBit 7 255]).cellErased (Loc.num 7 .b) ∧
    (debris .badFailed (.mark (Loc.num 7 .b) (markBit .bad))).engineAlone (.mark (Loc.num 7 .b) (markBit .bad)) ∧
    (debris .badOther (.mark (Loc.num 7 .a) (markBit .bad))).engineAlone (.mark (Loc.num 7 .a) (markBit .bad)) ∧
    (debris .erase (.erase (Loc.num 7 .b))).entry 7 = ⟨.free, some 7, 0⟩ := by decide +kernel

/-- Cell A of pair 0 is the current cell of a LIVE entry, cell A of pair 7 is not, and entry 7 alone has pair 7. -/
theorem test_met_RecoveryItemStarts_current :
    (∃ i, i < 512 ∧ ∃ l n, one.entry i = ⟨.live l, some 0, n⟩ ∧ l.cell = otherCell .b) ∧
    (¬∃ i, i < 512 ∧ ∃ l n, one.entry i = ⟨.live l, some 7, n⟩ ∧ l.cell = otherCell .b) ∧
    ∀ k, k ≠ 7 → (one.entry k).pair ≠ some 7 := by
  refine ⟨⟨0, by decide, record5, 0, rfl, rfl⟩, ?_, fun k hk => ?_⟩
  · rintro ⟨i, _, l, n, h, _⟩
    by_cases hi : i = 0
    · subst hi
      cases h
    · simp [State.entry, one, withBody, sparseGet, hi, homeEntry] at h
  · by_cases h0 : k = 0
    · subst h0
      decide
    · simp [State.entry, one, withBody, sparseGet, h0, homeEntry, hk]

/-- A COMMIT of one byte on cell B of pair 0, with an old record on cell A. -/
def writing : WriteJob :=
  { entry := 0, key := 5, cls := 0, newGen := 2, length := 1, payload := payloadOf [7], old := some (0, .a),
    stranded := false, pair := 0, cell := .b, spare := false, failed := [] }

/-- The COMMIT as it stands in the queue. -/
def writingJob : Job := ⟨1, .m, .commit 0 5 0 1 0⟩

/-- The last verify read of the COMMIT holds the array, and the granule holds what was programmed. -/
def verifying : State :=
  (running (queued one writingJob) (.read writing.loc 1 (some 0)) (.write (some writingJob) writing (.verify 1))).setGranule
    writing.loc 1 (Granule.programmed (writing.content 1))

theorem test_met_VerifyDecidesCommitMark :
    (verifying.engineAlone (.read writing.loc 1 (some writing.entry)) ∧
      verifying.work = .write (some writingJob) writing (.verify 1) ∧ writing.following 1 = none ∧
        verifying.readGranule writing.loc 1 = (.clean, writing.content 1)) ∧
    ((verifying.setGranule writing.loc 1 Granule.erased).readGranule writing.loc 1 ≠ (.clean, writing.content 1) ∧
      verifying.pool = 512 :: List.range' 513 31) ∧
    (List.range' 513 4).length ≤ ready.setup.contents.spareThreshold.toNat := by decide +kernel

theorem test_met_ArrayStepsChangeTheirPlace :
    (7 < 8 ∧ programming.arb.user = some (.engine (.program (Loc.num 0 .b) 7 0))) ∧
    (running one (.mark (Loc.setup .b) 0xFFF) .idle).arb.user = some (.engine (.mark (Loc.setup .b) 0xFFF)) ∧
    erasing.arb.user = some (.engine (.erase (Loc.num 0 .b))) := by decide +kernel

/-- The commit mark of the COMMIT holds the array. -/
def switching : State :=
  running (queued one writingJob) (.mark writing.loc (markBit .commit)) (.write (some writingJob) writing .commitMark)

/-- The same COMMIT on a spare, after cell B of pair 0 failed. -/
def onSpare (stranded : Bool) : WriteJob :=
  { writing with pair := 512, cell := .a, spare := true, failed := [(0, .b)], stranded := stranded }

/-- A first COMMIT on the pair its entry holds. -/
def firstWrite : WriteJob := { writing with newGen := 1, cell := .a, old := none }

/-- A step of a COMMIT as given, of the record of key 5 at the entry given. -/
def writeAt (e : Entry) (w : WriteJob) (step : WriteStep) (est : EngineStep) : State :=
  { running (queued one writingJob) est (.write (some writingJob) w step) with entries := [(0, e)] }

/-- Entry 0 as it stands while its COMMIT runs. -/
def liveEntry : Entry := ⟨.live record5, some 0, 1⟩

/-- Entry 0 while its first COMMIT runs. -/
def nascentEntry : Entry := ⟨.nascent 5 0, some 0, 1⟩

/-- A step of a REFRESH as given. -/
def refreshAt (w : WriteJob) (step : WriteStep) (est : EngineStep) : State :=
  { running one est (.write none w step) with entries := [(0, liveEntry)] }

theorem test_met_CommitMarkSwitchesDirectory :
    (switching.engineAlone (.mark writing.loc (markBit .commit)) ∧
      switching.work = .write (some writingJob) writing .commitMark ∧ writing.spare = false ∧
        switching.entry writing.entry = ⟨.live record5, some writing.pair, 0⟩ ∧
          writing.old = some (writing.pair, record5.cell)) ∧
    (switching.markEnded writing.loc (markBit .commit) [.markCopy .commit 2]).marksStand writing.loc (markBit .commit) ∧
    ((writeAt nascentEntry firstWrite .commitMark (.mark firstWrite.loc (markBit .commit))).engineAlone
        (.mark firstWrite.loc (markBit .commit)) ∧
      (writeAt nascentEntry firstWrite .commitMark (.mark firstWrite.loc (markBit .commit))).entry firstWrite.entry =
        ⟨.nascent 5 0, some firstWrite.pair, 1⟩ ∧
      writingJob.body = .commit firstWrite.entry firstWrite.key 0 1 0 ∧ firstWrite.failed = []) ∧
    ((writeAt liveEntry (onSpare false) .commitMark (.mark (onSpare false).loc (markBit .commit))).engineAlone
        (.mark (onSpare false).loc (markBit .commit)) ∧
      (writeAt liveEntry (onSpare false) .commitMark (.mark (onSpare false).loc (markBit .commit))).entry 0 =
        ⟨.live record5, some 0, 1⟩ ∧
      (onSpare false).old = some (0, record5.cell) ∧ (onSpare false).failed = (0, .b) :: [] ∧
        (onSpare true).stranded = true) := by decide +kernel

/-- A first COMMIT on a spare, with the cells given failed before. -/
def firstOnSpare (failed : List (Nat × CellName)) : WriteJob :=
  { onSpare false with newGen := 1, old := none, failed := failed }

theorem test_met_CommitMarkSwitchesDirectory_spare :
    ((writeAt nascentEntry (firstOnSpare [(0, .a)]) .commitMark (.mark (Loc.num 512 .a) (markBit .commit))).engineAlone
        (.mark (firstOnSpare [(0, .a)]).loc (markBit .commit)) ∧
      (writeAt nascentEntry (firstOnSpare [(0, .a)]) .commitMark (.mark (Loc.num 512 .a) (markBit .commit))).work =
        .write (some writingJob) (firstOnSpare [(0, .a)]) .commitMark ∧
      nascentEntry = ⟨.nascent 5 0, some 0, 1⟩ ∧ (firstOnSpare [(0, .a)]).old = none ∧
        ((firstOnSpare [(0, .a)]).failed.map (fun f => [(f.1, CellName.a), (f.1, .b)])).flatten =
          (0, .a) :: [(0, .b)]) ∧
    ((writeAt ⟨.nascent 5 0, none, 1⟩ (firstOnSpare []) .commitMark (.mark (Loc.num 512 .a) (markBit .commit))).queue =
        writingJob :: [] ∧
      writingJob.body = .commit (firstOnSpare []).entry (firstOnSpare []).key 0 1 0 ∧
        (firstOnSpare []).stranded = false) ∧
    ((writeAt liveEntry (onSpare true) .commitMark (.mark (onSpare true).loc (markBit .commit))).markEnded
      (onSpare true).loc (markBit .commit) []).marksStand (onSpare true).loc (markBit .commit) := by decide +kernel

theorem test_met_WriteSequenceRuns_header :
    (keyValid 0xFFFFFFFE = true ∧ 511 ≤ 511 ∧ (0xFFFF : Gen) ≠ 0 ∧ 1 ≤ 224 ∧ 224 ≤ 224) ∧
    ((writeAt liveEntry writing (.classify ⟨0, ⟨0, 0, 0⟩, true⟩) (.read writing.loc 0 (some 0))).engineAlone
        (.read writing.loc 0 (some 0)) ∧
      (writeAt liveEntry writing (.classify ⟨0, ⟨0, 0, 0⟩, true⟩) (.read writing.loc 0 (some 0))).engineReads
        writing.loc 0 [] = erasedRead) ∧
    (writeAt liveEntry writing (.classify ⟨0, ⟨0, 0, 0⟩, true⟩) (.read writing.loc 0 (some 0))).engineReads
      writing.loc 0 [.dataBit 0 0] ≠ erasedRead ∧
    (writeAt liveEntry (onSpare false) (.classify ⟨6, ⟨0, 0, 0⟩, true⟩) (.read (onSpare false).loc 6 none)).engineAlone
      (.read (onSpare false).loc 6 none) ∧
    ((writeAt liveEntry writing (.classify ⟨7, ⟨0, 0, 0⟩, true⟩) (.read writing.loc 7 (some 0))).engineReads
        writing.loc 7 [] = erasedRead ∧
      (writeAt liveEntry writing (.classify ⟨7, ⟨0, 0, 0⟩, true⟩) (.read writing.loc 7 (some 0))).engineReads
        writing.loc 7 [.dataBit 7 0] ≠ erasedRead) := by decide +kernel

theorem test_met_WriteSequenceRuns_steps :
    ((writeAt liveEntry writing .erase (.erase writing.loc)).engineAlone (.erase writing.loc) ∧
      ((writeAt liveEntry writing .erase (.erase writing.loc)).eraseEnded writing.loc []).cellErased writing.loc ∧
        ¬((writeAt liveEntry writing .erase (.erase writing.loc)).eraseEnded writing.loc [.dataBit 0 0]).cellErased
          writing.loc) ∧
    (writeAt liveEntry writing .header (.program writing.loc 0 writing.header)).engineAlone
      (.program writing.loc 0 writing.header) ∧
    (writeAt liveEntry writing (.data 1) (.program writing.loc 1 (writing.granule 1))).engineAlone
      (.program writing.loc 1 (writing.granule 1)) ∧
    (writing.following 0 = some 1 ∧ writing.following 1 = none ∧
      verifying.engineReads writing.loc 1 [] = (.clean, writing.content 1) ∧
        verifying.engineReads writing.loc 1 [.dataBit 1 0] ≠ (.clean, writing.content 1)) ∧
    ((verifying.setGranule writing.loc 0 (Granule.programmed writing.header)).engineReads writing.loc 0 [] =
      (.clean, writing.content 0)) ∧
    ¬(switching.markEnded writing.loc (markBit .commit) markLost).marksStand writing.loc (markBit .commit) ∧
    ((({ one with pool := [] } : State).pool = []) ∧
      (([(0, CellName.b)] : List (Nat × CellName)).map (fun f =>
        if (one.entry 0).isLive = true ∧ (one.entry 0).pair = some f.1 then [f]
          else [(f.1, .a), (f.1, .b)])).flatten = (0, .b) :: []) := by decide +kernel

/-- The supersede mark of the COMMIT holds the array. -/
def superseding : State := writeAt liveEntry writing .supersede (.mark (Loc.num 0 .a) (markBit .supersede))

/-- A census of class 0 is RUNNING. -/
def supersedingCounted : State := { superseding with census := some (CensusRun.start (some 0) .s) }

theorem test_met_WriteSequenceRuns_ends :
    (superseding.engineAlone (.mark (Loc.num 0 .a) (markBit .supersede)) ∧
      superseding.work = .write (some writingJob) writing .supersede ∧ superseding.queue = writingJob :: [] ∧
        writingJob.body = .commit writing.entry 5 0 1 0 ∧ (superseding.entry writing.entry).body = .live record5 ∧
          supersedingCounted.census = some (CensusRun.start (some 0) .s)) ∧
    (writeAt liveEntry (onSpare true) (.badMarks [(0, .b)]) (.mark (Loc.num 0 .a) (markBit .bad))).engineAlone
      (.mark (Loc.num 0 .a) (markBit .bad)) ∧
    (writeAt liveEntry (onSpare true) (.exhaustMarks [(0, .b)]) (.mark (Loc.num 512 .a) (markBit .bad))).engineAlone
      (.mark (Loc.num 512 .a) (markBit .bad)) ∧
    (writeAt liveEntry (onSpare true) (.badMarks []) (.mark (Loc.num 0 .b) (markBit .bad))).engineAlone
      (.mark (Loc.num 0 .b) (markBit .bad)) ∧
    ((refreshAt writing .supersede (.mark (Loc.num 0 .a) (markBit .supersede))).engineAlone
        (.mark (Loc.num 0 .a) (markBit .supersede)) ∧
      (refreshAt writing .supersede (.mark (Loc.num 0 .a) (markBit .supersede))).work =
        .write none writing .supersede) ∧
    ((writeAt liveEntry writing (.exhaustMarks []) (.mark writing.loc (markBit .bad))).entry 0 =
        ⟨.live record5, some 0, 1⟩ ∧
      (writeAt nascentEntry firstWrite (.exhaustMarks []) (.mark firstWrite.loc (markBit .bad))).entry 0 =
        ⟨.nascent 5 0, some 0, 1⟩ ∧
      ({ writeAt nascentEntry firstWrite (.exhaustMarks []) (.mark firstWrite.loc (markBit .bad)) with
        bad := [0] } : State).isBad 0 = true ∧ one.isBad 0 = false) ∧
    (refreshAt writing (.exhaustMarks []) (.mark writing.loc (markBit .bad))).work =
      .write none writing (.exhaustMarks []) := by decide +kernel

/-- A PATCH of the first byte of the record, about to read its granule. -/
def patching (data : Bytes) : PatchJob :=
  { entry := 0, pair := 0, cell := .a, offset := 0, data := data, reads := [], changed := [], marking := 0, marked := 0,
    programmed := false }

/-- The PATCH as it stands in the queue. -/
def patchJob (data : Bytes) : Job := ⟨1, .m, .patch 0 5 0 data 0⟩

/-- The read of the PATCH's target granule, which holds `g`, is in progress. -/
def patchReading (data : Bytes) (g : Granule) : State :=
  (running (queued one (patchJob data)) (.read (Loc.num 0 .a) 1 (some 0))
    (.patch (patchJob data) (patching data) (.read 1))).setGranule (Loc.num 0 .a) 1 g

/-- A granule whose first byte is 0FH. -/
def low : Data := dataOfBytes [0x0F]

theorem test_met_PatchActsByContent :
    ((patchReading [7] Granule.erased).engineAlone (.read (patching [7]).loc 1 (some (patching [7]).entry)) ∧
      (patchReading [7] Granule.erased).work = .patch (patchJob [7]) (patching [7]) (.read 1) ∧
        (patchReading [7] Granule.erased).queue = patchJob [7] :: [] ∧
          (patchReading [7] Granule.erased).entry 0 = ⟨.live record5, some 0, 0⟩) ∧
    ((patchReading [7] Granule.erased).engineReads (patching [7]).loc 1 [.dataBit 1 0, .dataBit 1 1]).1 =
      .uncorrectable ∧
    (patchedGranule low 1 0 [0x1F] &&& ~~~low ≠ 0 ∧
      (patchReading [0x1F] (Granule.programmed low)).engineReads (patching [7]).loc 1 [] = (.clean, low)) ∧
    patchedGranule low 1 0 [0x0F] = low ∧
    (patchedGranule erasedData 1 0 [7] ≠ erasedData ∧ patchedGranule erasedData 1 0 [7] &&& ~~~erasedData = 0 ∧
      (patchReading [7] Granule.erased).engineReads (patching [7]).loc 1 [] = erasedRead) ∧
    (patchedGranule low 1 0 [7] ≠ low ∧ patchedGranule low 1 0 [7] &&& ~~~low = 0 ∧ low ≠ BitVec.allOnes 256) ∧
    (((patchReading [7] (Granule.programmed low)).programMarks (Loc.num 0 .a) (markBit (.patch 1))).engineReads
      (patching [7]).loc 1 []).1 = .unguarded ∧
    ((patchReading [7] (Granule.programmed low)).engineReads (patching [7]).loc 1 [.dataBit 1 9]) = (.corrected, low) := by
  decide +kernel

/-- A PATCH of bytes 31 and 32: of the last byte of granule 1 and the first of granule 2. -/
def patchingTwo : PatchJob := { patching [7, 7] with offset := 31 }

/-- A granule whose last byte is 0FH. -/
def lowEnd : Data := dataOfBytes (List.replicate 31 0xFF ++ [0x0F])

/-- A step of that PATCH, with granule 1 programmed and granule 2 erased. -/
def patchTwoAt (w : PatchJob) (step : PatchStep) (est : EngineStep) : State :=
  (running (queued one (patchJob [7, 7])) est (.patch (patchJob [7, 7]) w step)).setGranule (Loc.num 0 .a) 1
    (Granule.programmed lowEnd)

/-- The PATCH after its reads: granule 1 is marked first, both are programmed, only granule 2 for the first time. -/
def patchedTwo : PatchJob :=
  { patchingTwo with
    reads := [(1, .clean, lowEnd), (2, erasedRead)]
    changed :=
      [⟨1, patchedGranule lowEnd 1 31 [7, 7], false⟩, ⟨2, patchedGranule erasedData 2 31 [7, 7], true⟩]
    marking := 1, programmed := true }

theorem test_met_PatchActsByContent_two :
    ((patchTwoAt patchingTwo (.read 1) (.read (Loc.num 0 .a) 1 (some 0))).engineAlone
        (.read patchingTwo.loc 1 (some 0)) ∧
      1 + patchingTwo.offset / 32 ≤ 1 ∧ 1 < 1 + (patchingTwo.offset + patchingTwo.data.length - 1) / 32) ∧
    ((patchTwoAt { patchingTwo with reads := [(1, .clean, lowEnd)] } (.read 2) (.read (Loc.num 0 .a) 2 (some 0))).engineAlone
        (.read patchingTwo.loc 2 (some 0)) ∧
      1 + (patchingTwo.offset + patchingTwo.data.length - 1) / 32 ≤ 2 ∧
      (patchTwoAt { patchingTwo with reads := [(1, .clean, lowEnd)] } (.read 2) (.read (Loc.num 0 .a) 2 (some 0))).engineReads
        patchingTwo.loc 2 [] = erasedRead ∧
      (patchedTwo.reads.all fun x => patchedGranule x.2.2 x.1 31 [7, 7] &&& ~~~x.2.2 == 0) = true ∧
      ((patchedTwo.reads.filter (fun x => decide (patchedGranule x.2.2 x.1 31 [7, 7] ≠ x.2.2))).map
        (fun x => (⟨x.1, patchedGranule x.2.2 x.1 31 [7, 7], decide (x.2 = erasedRead)⟩ : Changed))) =
          patchedTwo.changed ∧
      patchedTwo.reads.all (fun x => decide (1 ≤ x.1 ∧ x.1 ≤ 7)) = true) := by decide +kernel

theorem test_met_PatchActsByContent_mark :
    ((patchTwoAt patchedTwo .mark (.mark (Loc.num 0 .a) 0x020)).engineAlone (.mark patchedTwo.loc 0x020) ∧
      ((patchedTwo.marking.setWidth 12 : BitVec 12) <<< 5) = 0x020) ∧
    ((patchTwoAt patchedTwo .mark (.mark (Loc.num 0 .a) 0x020)).markEnded patchedTwo.loc 0x020 []).marksStand
      patchedTwo.loc 0x020 ∧
    ¬((patchTwoAt patchedTwo .mark (.mark (Loc.num 0 .a) 0x020)).markEnded patchedTwo.loc 0x020
      [.markCopy (.patch 1) 0, .markCopy (.patch 1) 1]).marksStand patchedTwo.loc 0x020 := by decide +kernel

/-- The programs of both granules, and the verify read of each: a first program that reads CLEAN with what was programmed
and one that does not, a later one with a data bit wrong. -/
theorem test_met_PatchActsByContent_programs :
    (patchTwoAt patchedTwo (.program (patchedTwo.changed.drop 1)) (.program (Loc.num 0 .a) 1 0)).engineAlone
      (.program patchedTwo.loc 1 0) ∧
    (patchTwoAt patchedTwo (.program []) (.program (Loc.num 0 .a) 2 0)).work =
      .patch (patchJob [7, 7]) patchedTwo (.program []) ∧
    (patchedTwo.changed = ⟨1, patchedGranule lowEnd 1 31 [7, 7], false⟩ :: patchedTwo.changed.drop 1) := by
  decide +kernel

theorem test_met_PatchActsByContent_verify :
    let first : Changed := ⟨2, patchedGranule erasedData 2 31 [7, 7], true⟩
    let s := (patchTwoAt patchedTwo (.verify first []) (.read (Loc.num 0 .a) 2 (some 0))).setGranule (Loc.num 0 .a) 2
      (Granule.programmed first.new)
    let later := (patchTwoAt patchedTwo (.verify ⟨1, lowEnd, false⟩ [first]) (.read (Loc.num 0 .a) 1 (some 0))).programMarks
      (Loc.num 0 .a) 0x020
    (s.engineAlone (.read patchedTwo.loc 2 (some 0)) ∧ s.engineReads patchedTwo.loc 2 [] = (.clean, first.new) ∧
      s.engineReads patchedTwo.loc 2 [.dataBit 2 0] ≠ (.clean, first.new)) ∧
    (later.engineReads patchedTwo.loc 1 []).2 = lowEnd ∧ (later.engineReads patchedTwo.loc 1 [.dataBit 1 0]).2 ≠ lowEnd := by
  decide +kernel

/-- The retire mark of a RETIRE of entry 0 holds the array. -/
def retireMarking : State :=
  running (queued one ⟨1, .m, .retire 0 5 0⟩) (.mark (Loc.num 0 .a) (markBit .retire))
    (.retire (some ⟨1, .m, .retire 0 5 0⟩) ⟨0, 0, .a, false⟩ .retireMark)

/-- A step of a RETIRE of entry 0, or of a FINISH_RETIRE item of it. -/
def retireAt (job : Option Job) (markPair : Bool) (step : RetireStep) (est : EngineStep) : State :=
  { running (withBody 0 (.retiring 5 0 1) 1) est (.retire job ⟨0, 0, .a, markPair⟩ step) with
    queue := job.toList
    recovery := if job = none then [.finishRetire 0 0 .a] else [] }

/-- The RETIRE as it stands in the queue. -/
def retireJob : Job := ⟨1, .m, .retire 0 5 0⟩

theorem test_met_RetireAndFixSequencesRun :
    (retireMarking.engineAlone (.mark (⟨0, 0, .a, false⟩ : RetireJob).retired (markBit .retire)) ∧
      retireMarking.work = .retire (some retireJob) ⟨0, 0, .a, false⟩ .retireMark ∧
        retireMarking.entry 0 = ⟨.live record5, some 0, 0⟩) ∧
    ((retireAt (some retireJob) false (.classify ⟨0, ⟨0, 0, 0⟩, true⟩) (.read (Loc.num 0 .b) 0 (some 0))).engineAlone
        (.read (⟨0, 0, .a, false⟩ : RetireJob).other 0 (some 0)) ∧
      (retireAt none false (.classify ⟨7, ⟨0, 0, 0⟩, true⟩) (.read (Loc.num 0 .b) 7 (some 0))).engineReads
        (Loc.num 0 .b) 7 [] = erasedRead) := by decide +kernel

theorem test_met_RetireAndFixSequencesRun_erases :
    ((retireAt (some retireJob) false .eraseOther (.erase (Loc.num 0 .b))).engineAlone
        (.erase (⟨0, 0, .a, false⟩ : RetireJob).other) ∧
      ((retireAt (some retireJob) false .eraseOther (.erase (Loc.num 0 .b))).eraseEnded (Loc.num 0 .b) []).cellErased
        (Loc.num 0 .b) ∧
      ¬((retireAt (some retireJob) false .eraseOther (.erase (Loc.num 0 .b))).eraseEnded (Loc.num 0 .b)
        [.checkBit 7 0]).cellErased (Loc.num 0 .b)) ∧
    ((retireAt (some retireJob) true .eraseRetired (.erase (Loc.num 0 .a))).engineAlone
        (.erase (⟨0, 0, .a, true⟩ : RetireJob).retired) ∧
      ((retireAt (some retireJob) true .eraseRetired (.erase (Loc.num 0 .a))).eraseEnded (Loc.num 0 .a) []).cellErased
        (Loc.num 0 .a)) := by decide +kernel

theorem test_met_RetireAndFixSequencesRun_badMarks :
    (retireAt none true .badOther (.mark (Loc.num 0 .b) (markBit .bad))).engineAlone
      (.mark (Loc.num 0 .b) (markBit .bad)) ∧
    (retireAt none true .badA (.mark (Loc.num 0 .a) (markBit .bad))).engineAlone (.mark (Loc.num 0 .a) (markBit .bad)) ∧
    ((retireAt (some retireJob) true .badB (.mark (Loc.num 0 .b) (markBit .bad))).queue = retireJob :: [] ∧
      retireJob.body = .retire 0 5 0 ∧
        ((retireAt (some retireJob) true .badB (.mark (Loc.num 0 .b) (markBit .bad))).entry 0).cls? = some 0 ∧
          ((retireAt (some retireJob) true .badB (.mark (Loc.num 0 .b) (markBit .bad))).entry 0).pair = some 0) := by
  decide +kernel

/-- The fixed mark of a FIX of entry 0 holds the array. -/
def fixing : State :=
  running (queued one ⟨1, .m, .fix 0 5⟩) (.mark (Loc.num 0 .a) (markBit .fixed)) (.fix ⟨1, .m, .fix 0 5⟩ 0)

theorem test_met_RetireAndFixSequencesRun_fix :
    fixing.engineAlone (.mark (Loc.num 0 .a) (markBit .fixed)) ∧ fixing.work = .fix ⟨1, .m, .fix 0 5⟩ 0 ∧
      fixing.queue = ⟨1, .m, .fix 0 5⟩ :: [] ∧ fixing.entry 0 = ⟨.live record5, some 0, 0⟩ := by decide +kernel

/-- A step of the SETUP job. -/
def setupAt (step : SetupStep) (est : EngineStep) : State :=
  running (queued ready setupQueued) est (.setup setupQueued setupJob step)

theorem test_met_SetupSwitchInstallsRecord :
    (setupRunning.engineAlone (.mark setupJob.loc (markBit .commit)) ∧
      setupRunning.work = .setup setupQueued setupJob .commitMark ∧ setupJob.fix = false ∧ setupJob.wasNone = false ∧
        (setupRunning.markEnded setupJob.loc (markBit .commit) []).marksStand setupJob.loc (markBit .commit) ∧
          ¬(setupRunning.markEnded setupJob.loc (markBit .commit) markLost).marksStand setupJob.loc (markBit .commit)) ∧
    (⟨SetupContents.factory, true, 1, .a, true⟩ : SetupJob).wasNone = true ∧
    ((setupAt .supersede (.mark setupJob.oldLoc (markBit .supersede))).engineAlone
        (.mark setupJob.oldLoc (markBit .supersede)) ∧
      setupQueued.body.isSetup = true ∧ (queued ready setupQueued).queue = setupQueued :: [] ∧
        ready.restartDeferred = false ∧ (queued deferred setupQueued).restartDeferred = true) := by decide +kernel

theorem test_met_SetupSwitchInstallsRecord_steps :
    ((setupAt (.classify ⟨0, ⟨0, 0, 0⟩, true⟩) (.read setupJob.loc 0 none)).engineAlone (.read setupJob.loc 0 none) ∧
      (setupAt (.classify ⟨0, ⟨0, 0, 0⟩, true⟩) (.read setupJob.loc 0 none)).engineReads setupJob.loc 0 [] =
        erasedRead) ∧
    ((setupAt .erase (.erase setupJob.loc)).engineAlone (.erase setupJob.loc) ∧
      ((setupAt .erase (.erase setupJob.loc)).eraseEnded setupJob.loc []).cellErased setupJob.loc ∧
        ¬((setupAt .erase (.erase setupJob.loc)).eraseEnded setupJob.loc [.dataBit 0 0]).cellErased setupJob.loc) ∧
    (setupAt .header (.program setupJob.loc 0 0)).engineAlone (.program setupJob.loc 0 0) ∧
    (setupAt .data (.program setupJob.loc 1 0)).engineAlone (.program setupJob.loc 1 0) ∧
    ((setupAt (.verify 1) (.read setupJob.loc 1 none)).engineAlone (.read setupJob.loc 1 none) ∧
      ((setupAt (.verify 1) (.read setupJob.loc 1 none)).setGranule setupJob.loc 1
          (Granule.programmed (dataOfBytes (bytesOfContents setupJob.contents)))).engineReads setupJob.loc 1 [] =
        (.clean, dataOfBytes (bytesOfContents setupJob.contents)) ∧
      (setupAt (.verify 0) (.read setupJob.loc 0 none)).engineReads setupJob.loc 0 [] ≠
        (.clean, setupHeaderData setupJob.gen)) ∧
    (setupAt .fixedMark (.mark setupJob.loc (markBit .fixed))).engineAlone (.mark setupJob.loc (markBit .fixed)) := by
  decide +kernel

/-- A SETUP job that found no current setup cell. -/
def firstSetup : SetupJob := ⟨SetupContents.factory, false, 1, .a, true⟩

/-- The old cell is classified at granule `g`. -/
def oldSetupAt (g : Nat) (erased : Bool) : State :=
  running (queued ready setupQueued) (.read (Loc.setup .b) g none)
    (.setup setupQueued firstSetup (.classifyOld ⟨g, ⟨0, 0, 0⟩, erased⟩))

/-- The same with a setup header in the old cell, and the marks given. -/
def oldSetupWritten (marks : BitVec 12) : State :=
  ((oldSetupAt 0 true).setGranule (Loc.setup .b) 0 (Granule.programmed (setupHeaderData 1))).programMarks (Loc.setup .b) marks

theorem test_met_SetupSwitchInstallsRecord_old :
    ((oldSetupAt 0 true).engineAlone (.read firstSetup.oldLoc 0 none) ∧
      (oldSetupAt 0 true).engineReads firstSetup.oldLoc 0 [] = erasedRead) ∧
    ((setupHeaderOf ((oldSetupWritten (markBit .commit)).engineReads firstSetup.oldLoc 0 [])).isSome = true ∧
      (oldSetupWritten (markBit .commit)).engineReads firstSetup.oldLoc 0 [] ≠ erasedRead ∧
        ((oldSetupWritten (markBit .commit)).markField firstSetup.oldLoc) = ⟨1, 1, 1⟩ ∧
          (⟨1, 1, 1⟩ : MarkField).has .commit = true ∧ (⟨1, 1, 1⟩ : MarkField).has .supersede = false) ∧
    ((oldSetupWritten 0).markField firstSetup.oldLoc).has .commit = false ∧
    (oldSetupAt 6 true).engineAlone (.read firstSetup.oldLoc 6 none) ∧
    (oldSetupAt 7 true).engineAlone (.read firstSetup.oldLoc 7 none) := by decide +kernel

theorem test_met_StepKeepsCanonicalMemory :
    Memory.wf { one with pending := [.hold .m key5] } = true ∧
      ∃ t, step { one with pending := [.hold .m key5] } = .next t := ⟨by decide +kernel, _, rfl⟩

theorem test_met_StepKeepsBounds :
    queueOf8.capture.bounded = true ∧ queueOf8.refresh.bounded = true ∧ queueLaw queueOf8 ∧
      ∃ t, step { queueOf8 with pending := [.jobStart] } = .next t :=
  ⟨by decide +kernel, by decide +kernel,
    ⟨by decide +kernel, by decide +kernel, counted_of queueOf8 _ rfl rfl (by decide), fun h => absurd rfl h⟩, _, rfl⟩

theorem test_met_StepKeepsRunningJobAtHead :
    runningJobHeads setupRunning = true ∧ ∃ t, step { setupRunning with pending := [.markProgramEnd []] } = .next t :=
  ⟨by decide +kernel, _, rfl⟩

theorem test_met_StepKeepsHoldLaw : holdLaw holding.holds ∧
    ∃ t, step { holding with pending := [.leaseInterval] } = .next t := by
  refine ⟨⟨by decide +kernel, fun i j hij e hi hj => ?_⟩, _, rfl⟩
  have h : ∀ i : Fin 8, i ≠ 0 → (holding.holds[i]).entry? = none := by decide +kernel
  by_cases h0 : i = 0
  · subst h0
    rw [h j (Ne.symm hij)] at hj
    cases hj
  · rw [h i h0] at hi
    cases hi

end Sys2Proof.Tests
end

section
/-! The record directory (Chapter 1): the key map, FIND, LIST, the entry description, the refusal of invalid
keys, and the acceptance of a create. First the facts about the shared searches and arguments, then the statements. -/

namespace Sys2Proof.Machine

/-! ### Searches over the entry indices -/

/-- A number is an entry index when it is below 512. -/
@[simp] theorem mem_entryIndices (i : Nat) : i ∈ entryIndices ↔ i < 512 := by
  simp [entryIndices]

/-- A search over the directory gives the lowest index that passes the test. -/
theorem find?_entryIndices_eq_some (test : Nat → Bool) (i : Nat) :
    entryIndices.find? test = some i ↔ i < 512 ∧ test i = true ∧ ∀ j, j < i → test j = false := by
  rw [entryIndices, List.find?_range'_eq_some]
  simp [and_left_comm]

/-- A search over the directory gives nothing when no index passes the test. -/
theorem find?_entryIndices_eq_none (test : Nat → Bool) :
    entryIndices.find? test = none ↔ ∀ i, i < 512 → test i = false := by
  simp [List.find?_eq_none]

/-- The entry indices rise. -/
theorem entryIndices_pairwise_lt : entryIndices.Pairwise (· < ·) := List.pairwise_lt_range'

/-! ### The key map (R5) -/

/-- The active index is the lowest NASCENT or LIVE entry with the key. -/
theorem activeIndex_eq_some (s : State) (k : Key) (i : Nat) : s.activeIndex k = some i ↔
    i < 512 ∧ (s.entry i).isActive = true ∧ (s.entry i).key? = some k ∧
      ∀ j, j < i → ¬((s.entry j).isActive = true ∧ (s.entry j).key? = some k) := by
  rw [State.activeIndex, find?_entryIndices_eq_some]
  simp [and_assoc]

/-- The retiring list holds the RETIRING entries with the key. -/
theorem mem_retiringList (s : State) (k : Key) (i : Nat) : i ∈ s.retiringList k ↔
    i < 512 ∧ (s.entry i).isRetiring = true ∧ (s.entry i).key? = some k := by
  simp [State.retiringList]

/-- The retiring list is in ascending index order. -/
theorem retiringList_pairwise_lt (s : State) (k : Key) : (s.retiringList k).Pairwise (· < ·) :=
  entryIndices_pairwise_lt.filter _

/-- Settles O14, from the shape of the two searches. -/
theorem keyMapFollowsEntries : Obligations.KeyMapFollowsEntries := by
  intro s k
  exact ⟨activeIndex_eq_some s k, mem_retiringList s k, retiringList_pairwise_lt s k⟩

/-! ### Keys and arguments -/

/-- A key is valid unless it is one of the two of R4. -/
theorem keyValid_iff (k : Key) : keyValid k = true ↔ k ≠ 0#32 ∧ k ≠ 0xFFFFFFFF#32 := by
  simp [keyValid]

/-- The valid keys are 1 to FFFFFFFEH. -/
theorem keyValid_iff_range (k : Key) : keyValid k = true ↔ 1 ≤ k.toNat ∧ k.toNat ≤ 0xFFFFFFFE := by
  rw [keyValid_iff]
  bv_omega

/-- The two keys of R4 are not valid. -/
theorem keyValid_eq_false {k : Key} (h : k = 0#32 ∨ k = 0xFFFFFFFF#32) : keyValid k = false := by
  rcases h with rfl | rfl <;> rfl

/-- Four argument bytes are a key. -/
theorem keyArg_of_length {a : Bytes} (h : a.length = 4) : keyArg a = some (headKey a) := by
  match a, h with
  | [_, _, _, _], _ => rfl

/-- Six argument bytes of a READ begin with its key. -/
theorem readArgs_of_length {a : Bytes} (h : a.length = 6) : ∃ r, readArgs a = some r ∧ r.key = headKey a := by
  match a, h with
  | [_, _, _, _, _, _], _ => exact ⟨_, rfl, rfl⟩

/-- Six argument bytes of a RETIRE begin with its key. -/
theorem retireArgs_of_length {a : Bytes} (h : a.length = 6) : ∃ g, retireArgs a = some (headKey a, g) := by
  match a, h with
  | [_, _, _, _, _, _], _ => exact ⟨_, rfl⟩

/-- Ten argument bytes of a COMMIT begin with its key. -/
theorem commitArgs_of_length {a : Bytes} (h : a.length = 10) : ∃ r, commitArgs a = some r ∧ r.key = headKey a := by
  match a, h with
  | [_, _, _, _, _, _, _, _, _, _], _ => exact ⟨_, rfl, rfl⟩

/-- The argument bytes of a PATCH whose count byte agrees with them begin with its key. -/
theorem patchArgs_of_count {a : Bytes} (hlow : 9 ≤ a.length) (hhigh : a.length ≤ 232)
    (hcount : a.length = 8 + (a.getD 5 0).toNat) : ∃ r, patchArgs a = some r ∧ r.key = headKey a := by
  match a, hlow, hhigh, hcount with
  | k0 :: k1 :: k2 :: k3 :: o :: n :: g1 :: g0 :: data, hlow, hhigh, hcount =>
    have hfit : data.length = n.toNat ∧ 1 ≤ n.toNat ∧ n.toNat ≤ 224 := by
      simp only [List.length_cons, List.getD_cons_succ, List.getD_cons_zero] at hlow hhigh hcount
      omega
    exact ⟨⟨word32 k0 k1 k2 k3, o.toNat, word16 g1 g0, data⟩, by simp [patchArgs, hfit], rfl⟩

/-! ### Commands whose key is invalid (R4) -/

/-- A command that looks at its key before anything else answers BAD_ARG to an invalid one. -/
theorem command_invalidKey {α : Type} (s : State) (p : Port) {args : Option α} {x : α} (ha : args = some x)
    (key : α → Key) (act : α → State) (h : s.takes p) (hk : keyValid (key x) = false) :
    s.command p args (fun y => if keyValid (key y) then act y else s.refuse p .badArg) = s.refuse p .badArg := by
  rw [ha, command_takes s p x _ h, if_neg (by simp [hk])]

/-- READ answers BAD_ARG to an invalid key. -/
theorem takeRead_invalidKey (s : State) (p : Port) {args : Bytes} {a : ReadArgs} (ha : readArgs args = some a)
    (h : s.takes p) (hk : keyValid a.key = false) : s.takeRead p args = s.refuse p .badArg := by
  rw [State.takeRead, ha, command_takes s p a _ h]
  simp [ReadArgs.inRange, hk]

/-- COMMIT answers BAD_ARG to an invalid key, whichever buffer it names. -/
theorem takeCommit_invalidKey (s : State) (p : Port) {args : Bytes} {a : CommitArgs} (ha : commitArgs args = some a)
    (h : s.takes p) (hk : keyValid a.key = false) : s.takeCommit p args = s.refuse p .badArg := by
  rw [State.takeCommit, ha, command_takes s p a _ h]
  cases ownBuffer p a.buffer with
  | none => rfl
  | some b => simp [commitArgChecks, firstFailing, hk, State.unless]

/-- PATCH answers BAD_ARG to an invalid key. -/
theorem takePatch_invalidKey (s : State) (p : Port) {args : Bytes} {a : PatchArgs} (ha : patchArgs args = some a)
    (h : s.takes p) (hk : keyValid a.key = false) : s.takePatch p args = s.refuse p .badArg := by
  rw [State.takePatch, ha, command_takes s p a _ h]
  simp [firstFailing, hk, State.unless]

/-- Settles O7: a split over the nine commands that carry a key; six of them look at the key alone, READ, COMMIT and
PATCH have it among the checks of their arguments. -/
theorem invalidKeyIsBadArg : Obligations.InvalidKeyIsBadArg := by
  refine ⟨keyValid_iff_range, fun c p a s hc hkey hcount h hbad => ?_⟩
  have hk := keyValid_eq_false hbad
  cases c
  case find | hold | renew | release | fix =>
    cases hc
    exact congrArg Host.Outcome.next (command_invalidKey s p (keyArg_of_length (eq_of_beq hcount)) id _ h hk)
  case retire =>
    cases hc
    obtain ⟨g, ha⟩ := retireArgs_of_length (eq_of_beq hcount)
    exact congrArg Host.Outcome.next (command_invalidKey s p ha Prod.fst _ h hk)
  case read =>
    cases hc
    obtain ⟨r, ha, hr⟩ := readArgs_of_length (eq_of_beq hcount)
    exact congrArg Host.Outcome.next (takeRead_invalidKey s p ha h (hr ▸ hk))
  case commit =>
    cases hc
    obtain ⟨r, ha, hr⟩ := commitArgs_of_length (eq_of_beq hcount)
    exact congrArg Host.Outcome.next (takeCommit_invalidKey s p ha h (hr ▸ hk))
  case patch =>
    cases hc
    obtain ⟨hlow, hhigh, hn⟩ := of_decide_eq_true hcount
    obtain ⟨r, ha, hr⟩ := patchArgs_of_count hlow hhigh hn
    exact congrArg Host.Outcome.next (takePatch_invalidKey s p ha h (hr ▸ hk))
  all_goals cases hkey

/-! ### FIND (R18) -/

/-- FIND answers the description of the entry it finds. -/
theorem takeFind_found (s : State) (p : Port) {args : Bytes} {k : Key} {i : Nat} (ha : keyArg args = some k)
    (h : s.takes p) (hk : keyValid k = true) (hi : s.found k = some i) :
    s.takeFind p args = s.answer p .ok (s.describe i) := by
  simp [State.takeFind, ha, command_takes s p k _ h, hk, hi]

/-- FIND answers NOT_FOUND when it finds none. -/
theorem takeFind_notFound (s : State) (p : Port) {args : Bytes} {k : Key} (ha : keyArg args = some k) (h : s.takes p)
    (hk : keyValid k = true) (hnone : s.found k = none) : s.takeFind p args = s.refuse p .notFound := by
  simp [State.takeFind, ha, command_takes s p k _ h, hk, hnone]

/-- FIND takes the active entry where there is one. -/
theorem found_of_active (s : State) (k : Key) {i : Nat} (h : s.activeIndex k = some i) : s.found k = some i := by
  simp [State.found, h]

/-- Without an active entry FIND looks at the head of the retiring list. -/
theorem found_of_inactive (s : State) (k : Key) (h : s.activeIndex k = none) :
    s.found k = (s.retiringList k).head? := by
  simp [State.found, h]

/-- Settles O12, line by line of Table 1-6. -/
theorem findAnswersByTable : Obligations.FindAnswersByTable := by
  intro s p a b c d answers
  have ha : keyArg [a, b, c, d] = some (word32 a b c d) := rfl
  refine ⟨fun h => ?_, fun h hk => ?_, fun h hk => ?_⟩
  · exact congrArg Host.Outcome.next (command_notReady s p _ _ h)
  · exact congrArg Host.Outcome.next (command_invalidKey s p ha id _ h hk)
  · refine ⟨fun i hi => ?_, fun i rest hi hr => ?_, fun hi hr => ?_⟩
    · exact congrArg Host.Outcome.next (takeFind_found s p ha h hk (found_of_active s _ hi))
    · have hfound : s.found (word32 a b c d) = some i := by rw [found_of_inactive s _ hi, hr, List.head?_cons]
      exact congrArg Host.Outcome.next (takeFind_found s p ha h hk hfound)
    · have hfound : s.found (word32 a b c d) = none := by rw [found_of_inactive s _ hi, hr, List.head?_nil]
      exact congrArg Host.Outcome.next (takeFind_notFound s p ha h hk hfound)

/-! ### LIST (R20) -/

/-- A class number is read from a byte that is its value. -/
theorem clsOfByte_eq_some (b : Byte) (c : Cls) : clsOfByte b = some c ↔ b.toNat = c.val := by
  unfold clsOfByte
  split
  · simp [Fin.ext_iff]
  · next h => simpa using fun hb : b.toNat = c.val => h (hb ▸ c.isLt)

/-- A byte above 7 names no class. -/
theorem clsOfByte_eq_none (b : Byte) : clsOfByte b = none ↔ 7 < b.toNat := by
  by_cases h : b.toNat < 8
  · simp [clsOfByte, h, Nat.le_of_lt_succ h]
  · simp [clsOfByte, h, Nat.lt_of_succ_le (Nat.not_lt.mp h)]

/-- A filter byte is out of range when it is neither 0 to 7 nor FFH. -/
theorem scopeOfByte_eq_none (b : Byte) : scopeOfByte b = none ↔ 7 < b.toNat ∧ b ≠ 0xFF#8 := by
  by_cases h : b = 0xFF#8
  · simp [scopeOfByte, h]
  · simp [scopeOfByte, h, clsOfByte_eq_none]

/-- The classes a filter byte lets through: all for FFH, else the one it names. -/
theorem inScope_scopeOfByte {b : Byte} {scope : Option Cls} (h : scopeOfByte b = some scope) (c : Cls) :
    inScope scope c = true ↔ b = 0xFF#8 ∨ b.toNat = c.val := by
  by_cases hb : b = 0xFF#8
  · have : scope = none := by simpa [scopeOfByte, hb] using h.symm
    simp [this, inScope, hb]
  · obtain ⟨c', hc', rfl⟩ : ∃ c', clsOfByte b = some c' ∧ some c' = scope := by simpa [scopeOfByte, hb] using h
    rw [clsOfByte_eq_some] at hc'
    simp only [inScope, beq_iff_eq, Fin.ext_iff, hb, hc', false_or]
    exact eq_comm

/-- An entry matches a filter when it has a class, so is not FREE, and the filter lets the class through. -/
theorem matches_iff (e : Entry) (filter : Option Cls) :
    e.matches filter = true ↔ ∃ c, e.cls? = some c ∧ inScope filter c = true := by
  cases h : e.cls? <;> simp [Entry.matches, h]

/-- LIST with its arguments in range answers the description of the entry listed. -/
theorem takeList_listed (s : State) (p : Port) {args : Bytes} {start i : Nat} {f : Byte} {filter : Option Cls}
    (ha : listArgs args = some (start, f)) (h : s.takes p) (hs : start ≤ 512) (hf : scopeOfByte f = some filter)
    (hi : s.listed start filter = some i) : s.takeList p args = s.answer p .ok (s.describe i) := by
  simp [State.takeList, ha, command_takes s p _ _ h, hf, hs, hi]

/-- LIST with its arguments in range answers END when no entry is listed. -/
theorem takeList_end (s : State) (p : Port) {args : Bytes} {start : Nat} {f : Byte} {filter : Option Cls}
    (ha : listArgs args = some (start, f)) (h : s.takes p) (hs : start ≤ 512) (hf : scopeOfByte f = some filter)
    (hnone : s.listed start filter = none) : s.takeList p args = s.refuse p .endOfList := by
  simp [State.takeList, ha, command_takes s p _ _ h, hf, hs, hnone]

/-- LIST with an argument out of range answers BAD_ARG. -/
theorem takeList_badArg (s : State) (p : Port) {args : Bytes} {start : Nat} {f : Byte}
    (ha : listArgs args = some (start, f)) (h : s.takes p) (hbad : 512 < start ∨ scopeOfByte f = none) :
    s.takeList p args = s.refuse p .badArg := by
  rw [State.takeList, ha, command_takes s p _ _ h]
  rcases hbad with hs | hf
  · cases scopeOfByte f <;> simp [Nat.not_le.mpr hs]
  · simp [hf]

/-- Settles O13: the test of the search is the `found` of the statement, and the search gives its lowest index. -/
theorem listAnswersByTable : Obligations.ListAnswersByTable := by
  intro s p h l f start answers found
  have ha : listArgs [h, l, f] = some (start, f) := rfl
  refine ⟨fun hp => ?_, fun hp hbad => ?_, fun hp hs hf => ?_⟩
  · exact congrArg Host.Outcome.next (command_notReady s p _ _ hp)
  · exact congrArg Host.Outcome.next (takeList_badArg s p ha hp (hbad.imp_right (scopeOfByte_eq_none f).mpr))
  · obtain ⟨filter, hfilter⟩ : ∃ filter, scopeOfByte f = some filter := by
      rw [← Option.ne_none_iff_exists', Ne, scopeOfByte_eq_none]
      rintro ⟨hlow, hne⟩
      exact hf.elim (Nat.not_le.mpr hlow) hne
    have htest : ∀ i, i < 512 → ((decide (start ≤ i) && (s.entry i).matches filter) = true ↔ found i) := by
      intro i hi
      simp only [found, hi, true_and, Bool.and_eq_true, decide_eq_true_eq, matches_iff, inScope_scopeOfByte hfilter]
    refine ⟨fun i hi hlow => ?_, fun hnone => ?_⟩
    · have hi512 : i < 512 := hi.2.1
      have hlisted : s.listed start filter = some i := by
        refine (find?_entryIndices_eq_some _ i).mpr ⟨hi512, (htest i hi512).mpr hi, fun j hj => ?_⟩
        rw [Bool.eq_false_iff, Ne, htest j (Nat.lt_trans hj hi512)]
        exact hlow j hj
      exact congrArg Host.Outcome.next (takeList_listed s p ha hp hs hfilter hlisted)
    · have hlisted : s.listed start filter = none := by
        refine (find?_entryIndices_eq_none _).mpr fun i hi => ?_
        rw [Bool.eq_false_iff, Ne, htest i hi]
        exact hnone i
      exact congrArg Host.Outcome.next (takeList_end s p ha hp hs hfilter hlisted)

/-! ### The entry description (R19) -/

/-- The hold slots of a port, by number. -/
theorem mem_slotsOf (p : Port) (j : Fin 8) : j ∈ slotsOf p ↔ slotPort j = p := by
  cases p <;> revert j <;> decide

/-- A port holds an entry when one of its slots is ACTIVE on it. -/
theorem holdsActive_iff (s : State) (p : Port) (i : Nat) :
    s.holdsActive p i = true ↔ ∃ j : Fin 8, slotPort j = p ∧ (s.holds[j]).activeOn i = true := by
  simp [State.holdsActive, mem_slotsOf]

/-- Slots 0 to 3 are Port M's. -/
theorem slotPort_eq_m (j : Fin 8) : slotPort j = .m ↔ j.val < 4 := by
  simp [slotPort]

/-- Slots 4 to 7 are Port S's. -/
theorem slotPort_eq_s (j : Fin 8) : slotPort j = .s ↔ 4 ≤ j.val := by
  simp [slotPort]

/-- The last byte of a description: the port that has an ACTIVE slot on the entry, FFH for none. -/
def State.holderByte (s : State) (i : Nat) : Byte :=
  match s.holder i with
  | some p => portCode p
  | none => absentByte

/-- The holder byte, read from the slots. -/
theorem holderByte_eq (s : State) (i : Nat) :
    s.holderByte i =
      if ∃ j : Fin 8, j.val < 4 ∧ (s.holds[j]).activeOn i = true then 0
      else if ∃ j : Fin 8, 4 ≤ j.val ∧ (s.holds[j]).activeOn i = true then 1 else 0xFF := by
  simp only [← slotPort_eq_m, ← slotPort_eq_s, ← holdsActive_iff, State.holderByte, State.holder]
  cases s.holdsActive .m i <;> cases s.holdsActive .s i <;> rfl

/-- Every description has 18 bytes. -/
theorem length_describe (s : State) (i : Nat) : (s.describe i).length = 18 := by
  have hkey : ∀ k : Option Key, (keyBytes k).length = 4 := fun k => by cases k <;> rfl
  have hgen : ∀ g : Option Gen, (genBytes g).length = 2 := fun g => by cases g <;> rfl
  have hpair : ∀ q : Option Nat, (pairBytes q).length = 2 := fun q => by cases q <;> rfl
  simp [State.describe, be16, hkey, hgen, hpair]

/-- A LIVE entry with a pair is stranded when the pair is in the BAD set. -/
theorem stranded_of_live (s : State) (i : Nat) {l : Live} {q n : Nat} (h : s.entry i = ⟨.live l, some q, n⟩) :
    s.stranded i = s.isBad q := by
  simp [State.stranded, h, Entry.isLive, Entry.live?]

/-- The description of a LIVE entry with a pair. -/
theorem describe_live (s : State) (i : Nat) {l : Live} {q n : Nat} (h : s.entry i = ⟨.live l, some q, n⟩) :
    s.describe i =
      be16 i ++ ([2] : Bytes) ++ be32 l.key ++ ([BitVec.ofNat 8 l.cls.val, BitVec.ofNat 8 l.length] : Bytes) ++
        be16 l.gen.toNat ++ be16 q ++
        ([cellCode l.cell, l.guardMap.setWidth 8,
          flagByte l.fixed ||| (flagByte l.damaged <<< 1) ||| (flagByte l.refreshWanted <<< 2) |||
            (flagByte (s.isBad q) <<< 3), BitVec.ofNat 8 n, s.holderByte i] : Bytes) := by
  rw [State.describe, stranded_of_live s i h, h]
  rfl

/-- The description of a NASCENT entry. -/
theorem describe_nascent (s : State) (i : Nat) {k : Key} {c : Cls} {q : Option Nat} {n : Nat}
    (h : s.entry i = ⟨.nascent k c, q, n⟩) :
    s.describe i =
      be16 i ++ ([1] : Bytes) ++ be32 k ++ ([BitVec.ofNat 8 c.val, 0, 0, 0] : Bytes) ++ pairBytes q ++
        ([0xFF, 0xFF, 0, BitVec.ofNat 8 n, s.holderByte i] : Bytes) := by
  rw [State.describe, h]
  cases q <;> rfl

/-- The description of a RETIRING entry. -/
theorem describe_retiring (s : State) (i : Nat) {k : Key} {c : Cls} {g : Gen} {q : Option Nat} {n : Nat}
    (h : s.entry i = ⟨.retiring k c g, q, n⟩) :
    s.describe i =
      be16 i ++ ([3] : Bytes) ++ be32 k ++ ([BitVec.ofNat 8 c.val, 0] : Bytes) ++ be16 g.toNat ++ pairBytes q ++
        ([0xFF, 0xFF, 0, BitVec.ofNat 8 n, s.holderByte i] : Bytes) := by
  rw [State.describe, h]
  cases q <;> rfl

/-- Settles O15: the length, and the layout in each state an entry can have but FREE. -/
theorem descriptionLayout : Obligations.DescriptionLayout := by
  intro s i holder pairOf
  have hholder : s.holderByte i = holder := holderByte_eq s i
  have hpair : ∀ q, pairBytes q = pairOf q := fun q => by cases q <;> rfl
  refine ⟨length_describe s i, fun l q n h => ?_, fun k c q n h => ?_, fun k c g q n h => ?_⟩
  · rw [describe_live s i h, hholder]
  · rw [describe_nascent s i h, hholder, hpair]
  · rw [describe_retiring s i h, hholder, hpair]

/-! ### Allocation and the acceptance of a create (R8, R15, R55) -/

/-- Allocation chooses the lowest FREE entry whose jobs count is 0. -/
theorem allocatable_eq_some (s : State) (i : Nat) : s.allocatable = some i ↔
    i < 512 ∧ (s.entry i).body = .free ∧ (s.entry i).jobs = 0 ∧
      ∀ j, j < i → ¬((s.entry j).body = .free ∧ (s.entry j).jobs = 0) := by
  rw [State.allocatable, find?_entryIndices_eq_some]
  simp [Entry.isFree, and_assoc]

/-- No ordered check fails when none of the conditions holds. -/
theorem firstFailing_eq_none {α : Type} (checks : List (Bool × α)) :
    firstFailing checks = none ↔ ∀ x ∈ checks, x.1 = false := by
  induction checks with
  | nil => simp [firstFailing]
  | cons x rest ih =>
    obtain ⟨fails, st⟩ := x
    cases fails <;> simp [firstFailing, ih]

/-- The buffer a number names on its own port. -/
theorem ownBuffer_of_port {p : Port} {n : Byte} {b : Fin 8} (hn : n.toNat = b.val) (hp : bufferPort b = p) :
    ownBuffer p n = some b := by
  have hlt : n.toNat < 8 := hn ▸ b.isLt
  have hb : (⟨n.toNat, hlt⟩ : Fin 8) = b := Fin.ext hn
  simp [ownBuffer, hlt, hb, hp]

/-- A job that has not started is in the queue. -/
theorem mem_queue_of_mem_waitingJobs {s : State} {j : Job} (h : j ∈ s.waitingJobs) : j ∈ s.queue := by
  unfold State.waitingJobs at h
  split at h
  · exact List.mem_of_mem_drop h
  · exact h

/-- No job waits for an entry that no queued job names. -/
theorem waitingFor_eq_none (s : State) (i : Nat) (hc : jobsCounted s) (h0 : (s.entry i).jobs = 0) :
    s.waitingFor i = none := by
  have hnone : s.queue.filter (fun j => j.body.entry? == some i) = [] := List.eq_nil_of_length_eq_zero (hc i ▸ h0)
  exact List.find?_eq_none.mpr fun j hj => List.filter_eq_nil_iff.mp hnone j (mem_queue_of_mem_waitingJobs hj)

/-- A COMMIT that passes all its checks is accepted for the target it resolves to. -/
theorem takeCommit_accepts (s : State) (p : Port) {args : Bytes} {a : CommitArgs} {b : Fin 8} {t : Target}
    (h : s.takes p) (ha : commitArgs args = some a) (hb : ownBuffer p a.buffer = some b)
    (hargs : firstFailing (commitArgChecks a (s.buffers[b])) = none) (ht : s.commitTarget a = .ok t)
    (hchecks : firstFailing
      (s.targetChecks p t (permitsWrite p) (commitLength a (s.buffers[b])) ++ s.commitCapacity p t.entry) = none) :
    s.takeCommit p args = s.acceptCommit p t a b := by
  rw [State.takeCommit, ha, command_takes s p a _ h]
  simp only [hb, hargs, ht, hchecks, State.unless]

/-- Check 1 of a COMMIT passes for a create with arguments in range and a buffer that is ready. -/
theorem commitArgChecks_create {a : CommitArgs} {buf : Buffer} {c : Cls} (hk : keyValid a.key = true)
    (hcreate : a.create = 1) (hc : clsOfByte a.cls = some c) (hlen : a.length ≤ 224)
    (hfilled : 1 ≤ a.length ∨ 1 ≤ buf.filled) (hbuf : buf.state ≠ .queued) :
    firstFailing (commitArgChecks a buf) = none := by
  have hcls : a.cls.toNat ≤ 7 := by
    have := (clsOfByte_eq_some a.cls c).mp hc
    omega
  have hlength : a.length = 0 → buf.filled ≠ 0 := by omega
  simpa [firstFailing_eq_none, commitArgChecks, hk, hcreate, hcls, hlen, hbuf] using hlength

/-- Check 2 of a create on a key without an active index allocates. -/
theorem commitTarget_create {s : State} {a : CommitArgs} {i : Nat} {c : Cls} (hcreate : a.create = 1)
    (hactive : s.activeIndex a.key = none) (hi : s.allocatable = some i) (hc : clsOfByte a.cls = some c) :
    s.commitTarget a = .ok (.fresh i c) := by
  simp [State.commitTarget, hcreate, hactive, hi, hc]

/-- Checks 3 to 8 of a create: the class lets the port write the length and is not inhibited, nothing waits for the
entry, and the queue and the port have room. -/
theorem createChecks_pass {s : State} {p : Port} {i : Nat} {c : Cls} {length : Nat}
    (hwrite : p = .m ∨ (s.policy c).sWriteOk = true) (hinhibit : s.inhibited c = false)
    (hlen : length ≤ (s.policy c).maxLength.toNat) (hqueue : s.queue.length < 8)
    (hport : (s.port p).outstanding + (s.port p).results.length < 8) (hwait : s.waitingFor i = none) :
    firstFailing (s.targetChecks p (.fresh i c) (permitsWrite p) length ++ s.commitCapacity p i) = none := by
  have hpermits : permitsWrite p (s.policy c) = true := by simpa [permitsWrite] using hwrite
  simp [firstFailing_eq_none, State.targetChecks, State.entryChecks, State.commitCapacity, State.queueFull,
    State.portFull, hpermits, hinhibit, hlen, hqueue, hport, hwait]

/-- The entries after a create is accepted: the one allocated is NASCENT with jobs 1 on the pair it held, the others
are as they were (R8). -/
theorem entry_acceptCommit_fresh (s : State) (p : Port) (i : Nat) (c : Cls) (a : CommitArgs) (b : Fin 8) (j : Nat) :
    (s.acceptCommit p (.fresh i c) a b).entry j =
      if j = i then ⟨.nascent a.key c, (s.entry i).pair, 1⟩ else s.entry j := by
  have hentries : (s.acceptCommit p (.fresh i c) a b).entries = (s.allocate i a.key c).entries := rfl
  rw [entry_congr hentries, State.allocate]
  split
  · next h => rw [h, entry_setEntry_same]
  · next h => exact entry_setEntry_other s i j _ h

/-- What the acceptance of a create leaves beside the entries (R51, R55). -/
theorem acceptCommit_fresh_eq (s : State) (p : Port) (i : Nat) (c : Cls) (a : CommitArgs) (b : Fin 8) :
    s.acceptCommit p (.fresh i c) a b =
      { s.modPort p (fun ps =>
          { ps with
            slot := .ready .accepted ((s.port p).ticket :: be16 i)
            ticket := nextTicket ps.ticket
            outstanding := ps.outstanding + 1 }) with
        entries := (s.allocate i a.key c).entries
        queue := s.queue ++
          [⟨(s.port p).ticket, p, .commit i a.key b (commitLength a (s.buffers[b])) a.expected⟩]
        buffers := s.buffers.set b { s.buffers[b] with state := .queued }
        census := (s.tellCensus c).census } := by
  cases p <;> rfl

/-- Settles O24: the checks of a COMMIT pass one after another, and what its acceptance leaves is read off. -/
theorem createIsAccepted : Obligations.CreateIsAccepted := by
  refine ⟨allocatable_eq_some, ?_⟩
  intro s p args a b i c htakes ha hk hcreate hc hb hp hlen hfilled hbuf hactive hi hwrite hinhibit hmax hqueue hport
    hcounted
  obtain ⟨-, -, hjobs, -⟩ := (allocatable_eq_some s i).mp hi
  have haccept : s.takeCommit p args = s.acceptCommit p (.fresh i c) a b :=
    takeCommit_accepts s p htakes ha (ownBuffer_of_port hb hp) (commitArgChecks_create hk hcreate hc hlen hfilled hbuf)
      (commitTarget_create hcreate hactive hi hc)
      (createChecks_pass hwrite hinhibit hmax hqueue hport (waitingFor_eq_none s i hcounted hjobs))
  have hentry := entry_acceptCommit_fresh s p i c a b
  refine ⟨s.acceptCommit p (.fresh i c) a b, congrArg Host.Outcome.next haccept, ?_, fun j hj => ?_, ?_⟩
  · rw [hentry, if_pos rfl]
  · rw [hentry, if_neg hj]
  · rw [acceptCommit_fresh_eq]
    exact ⟨rfl, by simp, tellCensus_told s c, rfl⟩

end Sys2Proof.Machine
end

section
/-! The canonical form of the array and the directory: which operations keep it, said once for each operation that writes
an entry, and that every step keeps it. -/

namespace Sys2Proof.Machine

/-- The canonical form of the entries is kept. -/
abbrev KeepsEntriesWf (s t : State) : Prop := entriesWf s.entries = true → entriesWf t.entries = true

/-- The canonical form of the memory is kept. -/
abbrev KeepsMemoryWf (s t : State) : Prop := Memory.wf s = true → Memory.wf t = true

/-- What leaves the array alone and keeps the form of the entries keeps the form of the memory. -/
theorem keepsMemoryWf_of_same {s t : State} (hs : Same s t) (he : KeepsEntriesWf s t) : KeepsMemoryWf s t := by
  intro h
  obtain ⟨hg, hm, -⟩ := hs
  rw [memoryWf_iff] at h ⊢
  rw [hg, hm]
  exact ⟨h.1, h.2.1, he h.2.2⟩

/-- A write of an entry keeps the canonical form. -/
@[simp] theorem entriesWf_sparseSet (m : Sparse Entry) (i : Nat) (e : Entry) (h : entriesWf m = true) :
    entriesWf (sparseSet homeEntry m i e) = true :=
  sparseWf_set homeEntry m i e h

/-! ### Operations that leave the entries alone -/

@[simp] theorem answer_entries (s : State) (p : Port) (st : Status) (d : Bytes) :
    (s.answer p st d).entries = s.entries := rfl

@[simp] theorem reportEvent_entries (s : State) (r : Report) : (s.reportEvent r).entries = s.entries := by
  unfold State.reportEvent
  split <;> rfl

@[simp] theorem takeUp_entries (s : State) (c : CensusRun) : (s.takeUp c).entries = s.entries := by
  obtain ⟨a, cn, pm, ps, h⟩ := takeUp_touches s c
  rw [h]

/-- A counted census read touches no entry. -/
@[simp] theorem censusRead_entries (s : State) (g : Nat) (r : Outcome × Data) :
    (s.censusRead g r).entries = s.entries := by
  unfold State.censusRead
  split
  · rfl
  · split
    · rfl
    · dsimp only
      generalize (if g = 0 then _ else _ : CensusRun) = c
      generalize (if g = 0 then _ else _ : CensusEntry) = e
      split <;> simp

theorem ArbiterOnly.entries {s t : State} (h : ArbiterOnly s t) : t.entries = s.entries := by
  obtain ⟨a, cn, pm, ps, f, rfl⟩ := h
  rfl

@[simp] theorem suspendFor_entries (s : State) : s.suspendFor.entries = s.entries := (arbiterOnly_suspendFor s).entries

@[simp] theorem grant_entries (s : State) : s.grant.entries = s.entries := (arbiterOnly_grants _ _ s).entries

@[simp] theorem grantAfterCensus_entries (s : State) : s.grantAfterCensus.entries = s.entries :=
  (arbiterOnly_grants _ _ s).entries

@[simp] theorem stepBoundary_entries (s : State) : s.stepBoundary.entries = s.entries :=
  (arbiterOnly_stepBoundary s).entries

@[simp] theorem upsets_entries (s : State) (l : Loc) (us : List Upset) : (s.upsets l us).entries = s.entries := by
  obtain ⟨g, m, h⟩ := upsets_touches s l us
  rw [h]

/-! ### The directory and the monitor -/

@[simp] theorem keepsEntriesWf_modLive (s : State) (i : Nat) (f : Live → Live) : KeepsEntriesWf s (s.modLive i f) := by
  intro h
  simp [State.modLive, h]

@[simp] theorem keepsEntriesWf_unlist (s : State) (i : Nat) : KeepsEntriesWf s (s.unlist i) :=
  keepsEntriesWf_modLive s i _

@[simp] theorem keepsEntriesWf_setDamaged (s : State) (i : Nat) : KeepsEntriesWf s (s.setDamaged i) := by
  intro h
  simp [State.setDamaged, h]

@[simp] theorem keepsEntriesWf_nominate (s : State) (i : Nat) : KeepsEntriesWf s (s.nominate i) := by
  intro h
  unfold State.nominate
  split <;> simp [h]

@[simp] theorem keepsEntriesWf_report (s : State) (r : Report) : KeepsEntriesWf s (s.report r) := by
  intro h
  unfold State.report State.reportEntry
  repeat' split
  all_goals simp [h]

@[simp] theorem keepsEntriesWf_raiseJobs (s : State) (i : Nat) : KeepsEntriesWf s (s.raiseJobs i) := by
  intro h
  simp [State.raiseJobs, h]

@[simp] theorem keepsEntriesWf_freeEntry (s : State) (i : Nat) : KeepsEntriesWf s (s.freeEntry i) := by
  intro h
  simp [State.freeEntry, h]

/-! ### Jobs -/

@[simp] theorem emptyBufferOf_entries (s : State) (b : JobBody) : (s.emptyBufferOf b).entries = s.entries := by
  unfold State.emptyBufferOf
  split <;> rfl

@[simp] theorem keepsEntriesWf_lowerJobsOf (s : State) (b : JobBody) : KeepsEntriesWf s (s.lowerJobsOf b) := by
  intro h
  unfold State.lowerJobsOf
  split <;> simp [State.lowerJobs, h]

@[simp] theorem keepsEntriesWf_freeNascent (s : State) (b : JobBody) (r : JobResult) :
    KeepsEntriesWf s (s.freeNascent b r) := by
  intro h
  unfold State.freeNascent
  repeat' split
  all_goals simp [h]

@[simp] theorem keepsEntriesWf_completeJob (s : State) (j : Job) (r : JobResult) (g : Option Gen) (x : Bool) :
    KeepsEntriesWf s (s.completeJob j r g x) := by
  intro h
  simp [State.completeJob, State.pushResult, h]

@[simp] theorem enqueue_entries (s : State) (p : Port) (b : JobBody) : (s.enqueue p b).entries = s.entries := rfl

@[simp] theorem keepsEntriesWf_acceptCommit (s : State) (p : Port) (t : Target) (a : CommitArgs) (b : Fin 8) :
    KeepsEntriesWf s (s.acceptCommit p t a b) := by
  intro h
  cases t with
  | existing i =>
    simp only [State.acceptCommit]
    split <;> simp [State.coalesce, State.pushResult, h]
  | fresh i c => simp [State.acceptCommit, State.allocate, h]

/-! ### COMMIT and REFRESH -/

@[simp] theorem keepsEntriesWf_writeDone (s : State) (j : Option Job) (w : WriteJob) :
    KeepsEntriesWf s (s.writeDone j w) := by
  intro h
  cases j <;> simp [State.writeDone, h]

@[simp] theorem keepsEntriesWf_writeNoSpare (s : State) (j : Option Job) (w : WriteJob) :
    KeepsEntriesWf s (s.writeNoSpare j w) := by
  intro h
  cases j <;> simp [State.writeNoSpare, h]

@[simp] theorem writeClassify_entries (s : State) (j : Option Job) (w : WriteJob) (c : Classifying) :
    (s.writeClassify j w c).entries = s.entries := rfl

@[simp] theorem writeData_entries (s : State) (j : Option Job) (w : WriteJob) (g : Nat) :
    (s.writeData j w g).entries = s.entries := by
  unfold State.writeData
  split <;> rfl

@[simp] theorem keepsEntriesWf_writeBadMarks (s : State) (j : Option Job) (w : WriteJob) (cs : List (Nat × CellName)) :
    KeepsEntriesWf s (s.writeBadMarks j w cs) := by
  intro h
  unfold State.writeBadMarks
  split <;> simp [h]

@[simp] theorem keepsEntriesWf_writeExhaustMarks (s : State) (j : Option Job) (w : WriteJob)
    (cs : List (Nat × CellName)) : KeepsEntriesWf s (s.writeExhaustMarks j w cs) := by
  intro h
  unfold State.writeExhaustMarks
  split <;> simp [h]

theorem takeSpare_entries {s t : State} {p : Nat} (h : s.takeSpare = some (p, t)) : t.entries = s.entries := by
  unfold State.takeSpare at h
  split at h
  · cases h
  · obtain ⟨-, rfl⟩ := Prod.mk.inj (Option.some.inj h)
    split <;> rfl

@[simp] theorem keepsEntriesWf_writeOnSpare (s : State) (j : Option Job) (w : WriteJob) :
    KeepsEntriesWf s (s.writeOnSpare j w) := by
  intro h
  unfold State.writeOnSpare
  split
  · next p t ht => simp [takeSpare_entries ht, h]
  · simp [h]

@[simp] theorem keepsEntriesWf_pairFails (s : State) (j : Option Job) (w : WriteJob) :
    KeepsEntriesWf s (s.pairFails j w) := by
  intro h
  simp [State.pairFails, h]

@[simp] theorem keepsEntriesWf_switch (s : State) (w : WriteJob) : KeepsEntriesWf s (s.switch w) := by
  intro h
  simp [State.switch, h]

@[simp] theorem keepsEntriesWf_afterSwitch (s : State) (j : Option Job) (w : WriteJob) :
    KeepsEntriesWf s (s.afterSwitch j w) := by
  intro h
  unfold State.afterSwitch
  repeat' split
  all_goals simp [h]

@[simp] theorem keepsEntriesWf_writeRead (s : State) (j : Option Job) (w : WriteJob) (st : WriteStep)
    (r : Outcome × Data) : KeepsEntriesWf s (s.writeRead j w st r) := by
  intro h
  unfold State.writeRead
  repeat' split
  all_goals simp [State.writeHeader, State.writeErase, State.writeVerify, h]

@[simp] theorem keepsEntriesWf_writeProgrammed (s : State) (j : Option Job) (w : WriteJob) (st : WriteStep) :
    KeepsEntriesWf s (s.writeProgrammed j w st) := by
  intro h
  unfold State.writeProgrammed
  split <;> simp [h]

@[simp] theorem keepsEntriesWf_writeMarked (s : State) (j : Option Job) (w : WriteJob) (st : WriteStep) (took : Bool) :
    KeepsEntriesWf s (s.writeMarked j w st took) := by
  intro h
  unfold State.writeMarked
  repeat' split
  all_goals simp [h]

@[simp] theorem keepsEntriesWf_writeErased (s : State) (j : Option Job) (w : WriteJob) (st : WriteStep) (took : Bool) :
    KeepsEntriesWf s (s.writeErased j w st took) := by
  intro h
  unfold State.writeErased
  repeat' split
  all_goals simp [State.writeHeader, h]

@[simp] theorem keepsEntriesWf_startWrite (s : State) (j : Option Job) (i len : Nat) (d : List Data) :
    KeepsEntriesWf s (s.startWrite j i len d) := by
  intro h
  simp only [State.startWrite]
  split <;> simp [h]

@[simp] theorem keepsEntriesWf_refreshRead (s : State) (i p : Nat) (c : CellName) (g : Nat) (got : List Data)
    (r : Outcome × Data) : KeepsEntriesWf s (s.refreshRead i p c g got r) := by
  intro h
  unfold State.refreshRead
  repeat' split
  all_goals simp [State.refreshReads, h]

@[simp] theorem keepsEntriesWf_startRefresh (s : State) (i : Nat) : KeepsEntriesWf s (s.startRefresh i) := by
  intro h
  unfold State.startRefresh
  repeat' split
  all_goals simp [State.refreshReads, h]

/-! ### PATCH -/

@[simp] theorem keepsEntriesWf_patchDone (s : State) (j : Job) (w : PatchJob) (r : JobResult) :
    KeepsEntriesWf s (s.patchDone j w r) := by
  intro h
  have hm := keepsEntriesWf_modLive s w.entry (fun l => { l with guardMap := l.guardMap ||| w.marked }) h
  unfold State.patchDone
  repeat' split
  all_goals simp [hm]

@[simp] theorem keepsEntriesWf_patchVerify (s : State) (j : Job) (w : PatchJob) (left : List Changed) :
    KeepsEntriesWf s (s.patchVerify j w left) := by
  intro h
  unfold State.patchVerify
  split <;> simp [h]

@[simp] theorem keepsEntriesWf_patchProgram (s : State) (j : Job) (w : PatchJob) (left : List Changed) :
    KeepsEntriesWf s (s.patchProgram j w left) := by
  intro h
  unfold State.patchProgram
  split <;> simp [h]

@[simp] theorem keepsEntriesWf_patchForm (s : State) (j : Job) (w : PatchJob) :
    KeepsEntriesWf s (s.patchForm j w) := by
  intro h
  simp only [State.patchForm]
  repeat' split
  all_goals simp [h]

@[simp] theorem keepsEntriesWf_patchRead (s : State) (j : Job) (w : PatchJob) (st : PatchStep) (r : Outcome × Data) :
    KeepsEntriesWf s (s.patchRead j w st r) := by
  intro h
  simp only [State.patchRead]
  repeat' split
  all_goals simp [State.patchReads, h]

@[simp] theorem keepsEntriesWf_patchMarked (s : State) (j : Job) (w : PatchJob) (st : PatchStep) (took : Bool) :
    KeepsEntriesWf s (s.patchMarked j w st took) := by
  intro h
  simp only [State.patchMarked]
  repeat' split
  all_goals simp [h]

@[simp] theorem keepsEntriesWf_patchProgrammed (s : State) (j : Job) (w : PatchJob) (st : PatchStep) :
    KeepsEntriesWf s (s.patchProgrammed j w st) := by
  intro h
  unfold State.patchProgrammed
  split <;> simp [h]

/-! ### RETIRE and FIX -/

@[simp] theorem keepsEntriesWf_retireDone (s : State) (j : Option Job) (w : RetireJob) :
    KeepsEntriesWf s (s.retireDone j w) := by
  intro h
  cases j <;> simp [State.retireDone, h]

@[simp] theorem keepsEntriesWf_becomeRetiring (s : State) (i : Nat) : KeepsEntriesWf s (s.becomeRetiring i) := by
  intro h
  simp only [State.becomeRetiring]
  split <;> simp [h]

@[simp] theorem keepsEntriesWf_retireMarkPair (s : State) (j : Option Job) (w : RetireJob) :
    KeepsEntriesWf s (s.retireMarkPair j w) := by
  intro h
  unfold State.retireMarkPair
  split <;> simp [State.retireBad, h]

@[simp] theorem keepsEntriesWf_retireRead (s : State) (j : Option Job) (w : RetireJob) (st : RetireStep)
    (r : Outcome × Data) : KeepsEntriesWf s (s.retireRead j w st r) := by
  intro h
  unfold State.retireRead
  repeat' split
  all_goals simp [State.retireClassify, State.retireErase, h]

@[simp] theorem keepsEntriesWf_retireMarked (s : State) (j : Option Job) (w : RetireJob) (st : RetireStep) :
    KeepsEntriesWf s (s.retireMarked j w st) := by
  intro h
  unfold State.retireMarked
  split <;> simp [State.retireClassify, State.retireErase, State.retireBad, h]

@[simp] theorem keepsEntriesWf_retireErased (s : State) (j : Option Job) (w : RetireJob) (st : RetireStep)
    (took : Bool) : KeepsEntriesWf s (s.retireErased j w st took) := by
  intro h
  simp only [State.retireErased]
  repeat' split
  all_goals simp [State.retireErase, State.retireBad, h]

@[simp] theorem keepsEntriesWf_fixMarked (s : State) (j : Job) (i : Nat) : KeepsEntriesWf s (s.fixMarked j i) := by
  intro h
  have hm := keepsEntriesWf_modLive s i (fun l => { l with fixed := true }) h
  simp [State.fixMarked, hm]

/-! ### SETUP -/

/-- A reset leaves no entry listed, and so in canonical form. -/
@[simp] theorem entriesWf_clearTo (s : State) (p : Phase) : entriesWf (s.clearTo p).entries = true := rfl

@[simp] theorem keepsEntriesWf_setupDone (s : State) (j : Job) (w : SetupJob) : KeepsEntriesWf s (s.setupDone j w) := by
  intro h
  unfold State.setupDone State.deferredRestart
  split <;> simp [h]

@[simp] theorem setupSwitch_entries (s : State) (w : SetupJob) (c : Option CellName) :
    (s.setupSwitch w c).entries = s.entries := rfl

@[simp] theorem keepsEntriesWf_storageFailure (s : State) (j : Job) (w : SetupJob) :
    KeepsEntriesWf s (s.storageFailure j w) := by
  intro h
  simp [State.storageFailure, h]

@[simp] theorem setupInstall_entries (s : State) (j : Job) (w : SetupJob) :
    (s.setupInstall j w).entries = s.entries := by
  unfold State.setupInstall
  split <;> rfl

@[simp] theorem keepsEntriesWf_setupRead (s : State) (j : Job) (w : SetupJob) (st : SetupStep) (r : Outcome × Data) :
    KeepsEntriesWf s (s.setupRead j w st r) := by
  intro h
  unfold State.setupRead
  repeat' split
  all_goals simp [State.setupClassify, State.setupHeader, State.setupVerify, State.setupClassifyOld,
    State.setupSupersede, h]

@[simp] theorem setupProgrammed_entries (s : State) (j : Job) (w : SetupJob) (st : SetupStep) :
    (s.setupProgrammed j w st).entries = s.entries := by
  unfold State.setupProgrammed
  split <;> rfl

@[simp] theorem keepsEntriesWf_setupMarked (s : State) (j : Job) (w : SetupJob) (st : SetupStep) (took : Bool) :
    KeepsEntriesWf s (s.setupMarked j w st took) := by
  intro h
  unfold State.setupMarked
  repeat' split
  all_goals simp [h]

@[simp] theorem keepsEntriesWf_setupErased (s : State) (j : Job) (w : SetupJob) (st : SetupStep) (took : Bool) :
    KeepsEntriesWf s (s.setupErased j w st took) := by
  intro h
  unfold State.setupErased
  repeat' split
  all_goals simp [State.setupHeader, h]

/-! ### Recovery -/

@[simp] theorem keepsEntriesWf_disown (s : State) (p : Nat) : KeepsEntriesWf s (s.disown p) := by
  intro h
  unfold State.disown
  split <;> simp [h]

@[simp] theorem keepsEntriesWf_debrisPairFails (s : State) (p : Nat) (c : CellName) :
    KeepsEntriesWf s (s.debrisPairFails p c) := by
  intro h
  simp only [State.debrisPairFails]
  split <;> simp [h]

@[simp] theorem keepsEntriesWf_debrisErased (s : State) (p : Nat) (c : CellName) (st : DebrisStep) (took : Bool) :
    KeepsEntriesWf s (s.debrisErased p c st took) := by
  intro h
  unfold State.debrisErased
  repeat' split
  all_goals simp [h]

@[simp] theorem debrisMarked_entries (s : State) (p : Nat) (c : CellName) (st : DebrisStep) :
    (s.debrisMarked p c st).entries = s.entries := by
  unfold State.debrisMarked
  repeat' split
  all_goals rfl

@[simp] theorem markBadFrom_entries (s : State) (p : Nat) (cs : List CellName) :
    (s.markBadFrom p cs).entries = s.entries := by
  induction cs with
  | nil => rfl
  | cons c cs ih =>
    unfold State.markBadFrom
    split
    · exact ih
    · rfl

@[simp] theorem markBadMarked_entries (s : State) (p : Nat) (c : CellName) :
    (s.markBadMarked p c).entries = s.entries := by
  cases c <;> simp [State.markBadMarked]

@[simp] theorem startItem_entries (s : State) (i : RecoveryItem) : (s.startItem i).entries = s.entries := by
  cases i <;> simp [State.startItem, State.startFinishRetire, State.retireClassify]

/-! ### The engine between its steps -/

@[simp] theorem keepsEntriesWf_startJob (s : State) (j : Job) : KeepsEntriesWf s (s.startJob j) := by
  intro h
  unfold State.startJob State.startSequence
  repeat' split
  all_goals simp [State.startPatch, State.patchReads, State.startRetire, State.startFix, State.startSetup,
    State.setupClassify, h]

@[simp] theorem keepsEntriesWf_afterRead (s : State) (r : Outcome × Data) : KeepsEntriesWf s (s.afterRead r) := by
  intro h
  unfold State.afterRead
  split <;> simp [h]

@[simp] theorem keepsEntriesWf_afterProgram (s : State) : KeepsEntriesWf s s.afterProgram := by
  intro h
  unfold State.afterProgram
  split <;> simp [h]

@[simp] theorem keepsEntriesWf_afterMark (s : State) (took : Bool) : KeepsEntriesWf s (s.afterMark took) := by
  intro h
  unfold State.afterMark
  split <;> simp [h]

@[simp] theorem keepsEntriesWf_afterErase (s : State) (took : Bool) : KeepsEntriesWf s (s.afterErase took) := by
  intro h
  unfold State.afterErase
  split <;> simp [h]

/-! ### The scan -/

@[simp] theorem nextSetup_entries (s : State) (c : CellName) : (s.nextSetup c).entries = s.entries := by
  cases c with
  | a => rfl
  | b =>
    simp only [State.nextSetup, State.resolveSetup]
    split <;> rfl

@[simp] theorem setSetupFound_entries (s : State) (c : CellName) (f : SetupFound) :
    (s.setSetupFound c f).entries = s.entries := rfl

@[simp] theorem dropPair_entries (s : State) (p : Nat) : (s.dropPair p).entries = s.entries := rfl

@[simp] theorem keepsEntriesWf_installClaim (s : State) (c : Claim) (p : Nat) :
    KeepsEntriesWf s (s.installClaim c p) := by
  intro h
  simp [State.installClaim, State.leavePool, h]

@[simp] theorem keepsEntriesWf_takeClaim (s : State) (c : Claim) (p : Nat) : KeepsEntriesWf s (s.takeClaim c p) := by
  intro h
  simp only [State.takeClaim, State.meetClaim]
  repeat' split
  all_goals simp [h]

@[simp] theorem keepsEntriesWf_takeResolved (s : State) (p : Nat) (r : Resolved) :
    KeepsEntriesWf s (s.takeResolved p r) := by
  intro h
  simp only [State.takeResolved, State.leavePool]
  repeat' split
  all_goals simp [h]

@[simp] theorem keepsEntriesWf_foundCell (s : State) (p : Nat) (c : CellName) (f : CellFound) :
    KeepsEntriesWf s (s.foundCell p c f) := by
  intro h
  cases c with
  | a => exact h
  | b =>
    simp only [State.foundCell, State.foundSecond]
    split <;> simp [h]

@[simp] theorem keepsEntriesWf_scanAdvance (s : State) (r : Outcome × Data) : KeepsEntriesWf s (s.scanAdvance r) := by
  intro h
  simp only [State.scanAdvance, State.scanSetupCell, State.scanSetupContents, State.scanCell]
  repeat' split
  all_goals simp [h]

@[simp] theorem keepsEntriesWf_dropClaim (s : State) (i : Nat) (e : Entry) : KeepsEntriesWf s (s.dropClaim i e) := by
  intro h
  simp only [State.dropClaim]
  repeat' split
  all_goals simp [h]

@[simp] theorem keepsEntriesWf_dropDoubles (s : State) (seen : List Key) (es : List (Nat × Entry)) :
    KeepsEntriesWf s (s.dropDoubles seen es) := by
  induction es generalizing s seen with
  | nil => exact id
  | cons e es ih =>
    obtain ⟨i, e⟩ := e
    intro h
    unfold State.dropDoubles
    repeat' split
    · exact ih _ _ (keepsEntriesWf_dropClaim s i e h)
    · exact ih _ _ h
    · exact ih _ _ h

@[simp] theorem keepsEntriesWf_withoutHome (s : State) (taken ps : List Nat) :
    KeepsEntriesWf s (s.withoutHome taken ps) := by
  induction ps generalizing s with
  | nil => exact id
  | cons p ps ih =>
    intro h
    unfold State.withoutHome
    split
    · exact ih _ (entriesWf_sparseSet _ _ _ h)
    · exact ih _ h

@[simp] theorem keepsEntriesWf_enterReady (s : State) : KeepsEntriesWf s s.enterReady := by
  intro h
  simp [State.enterReady, State.placePairs, h]

/-! ### What the commands keep -/

/-- A frame keeps the form when the command it carries does. -/
theorem keepsMemoryWf_arrive (s : State) (p : Port) {t : State} (h : KeepsMemoryWf s t) :
    KeepsMemoryWf s (s.arrive p t) := by
  unfold State.arrive
  repeat' split
  · exact id
  · exact id
  · exact h

/-- A command keeps the form when its action does. -/
theorem keepsMemoryWf_command {α : Type} (s : State) (p : Port) (args : Option α) {act : α → State}
    (h : ∀ a, KeepsMemoryWf s (act a)) : KeepsMemoryWf s (s.command p args act) := by
  refine keepsMemoryWf_arrive s p ?_
  repeat' split
  · exact id
  · exact id
  · exact h _

theorem keepsMemoryWf_ite {s t u : State} {c : Prop} [Decidable c] (ht : KeepsMemoryWf s t) (hu : KeepsMemoryWf s u) :
    KeepsMemoryWf s (if c then t else u) := by
  split
  · exact ht
  · exact hu

theorem keepsMemoryWf_unless (s : State) (p : Port) (f : Option Status) {t : State} (h : KeepsMemoryWf s t) :
    KeepsMemoryWf s (s.unless p f t) := by
  unfold State.unless
  split
  · exact id
  · exact h

theorem keepsMemoryWf_grant (s : State) : KeepsMemoryWf s s.grant :=
  keepsMemoryWf_of_same (same_grant s) fun h => by simpa using h

theorem keepsMemoryWf_takeUp (s : State) (c : CensusRun) : KeepsMemoryWf s (s.takeUp c) :=
  keepsMemoryWf_of_same (same_takeUp s c) fun h => by simpa using h

theorem keepsMemoryWf_claimRead (s : State) (p : Port) (c : ReadClaim) : KeepsMemoryWf s (s.claimRead p c) :=
  keepsMemoryWf_of_same (same_claimRead s p c) fun h => by simpa [State.claimRead] using h

theorem keepsMemoryWf_takeRead (s : State) (p : Port) (args : Bytes) : KeepsMemoryWf s (s.takeRead p args) := by
  refine keepsMemoryWf_command s p _ fun a => ?_
  repeat' split
  · exact keepsMemoryWf_claimRead (s.modPort p _) p _
  · exact id
  · exact id

theorem keepsMemoryWf_takeEntryJob (s : State) (p : Port) (i : Nat) (permitted : ClassPolicy → Bool) (b : JobBody) :
    KeepsMemoryWf s (s.takeEntryJob p i permitted b) :=
  keepsMemoryWf_unless s p _ (memoryWf_setEntry s i _)

theorem keepsMemoryWf_takeCommit (s : State) (p : Port) (args : Bytes) : KeepsMemoryWf s (s.takeCommit p args) := by
  refine keepsMemoryWf_command s p _ fun a => ?_
  split
  · exact id
  · refine keepsMemoryWf_unless s p _ ?_
    split
    · exact id
    · exact keepsMemoryWf_unless s p _ <|
        keepsMemoryWf_of_same (same_acceptCommit s p _ a _) (keepsEntriesWf_acceptCommit s p _ a _)

theorem keepsMemoryWf_takePatch (s : State) (p : Port) (args : Bytes) : KeepsMemoryWf s (s.takePatch p args) := by
  refine keepsMemoryWf_command s p _ fun a => keepsMemoryWf_unless s p _ ?_
  repeat' split
  · exact id
  · exact id
  · exact keepsMemoryWf_takeEntryJob _ _ _ _ _

theorem keepsMemoryWf_takeRetire (s : State) (p : Port) (args : Bytes) : KeepsMemoryWf s (s.takeRetire p args) := by
  refine keepsMemoryWf_command s p _ fun a => ?_
  repeat' split
  · exact id
  · exact keepsMemoryWf_takeEntryJob _ _ _ _ _
  · exact id

theorem keepsMemoryWf_takeFix (s : State) (p : Port) (args : Bytes) : KeepsMemoryWf s (s.takeFix p args) := by
  refine keepsMemoryWf_command s p _ fun k => ?_
  repeat' split
  · exact id
  · exact keepsMemoryWf_takeEntryJob _ _ _ _ _
  · exact id

theorem keepsMemoryWf_takeCensus (s : State) (p : Port) (args : Bytes) : KeepsMemoryWf s (s.takeCensus p args) := by
  refine keepsMemoryWf_command s p _ fun b => ?_
  repeat' split
  · exact id
  · exact id
  · exact fun h => keepsMemoryWf_grant _ (keepsMemoryWf_takeUp _ _ h)

/-- Every reset keeps the form: the abandoned step does, and no entry is listed afterwards. -/
theorem keepsMemoryWf_clearTo_abandon (s : State) (r : Residue) (p : Phase) :
    KeepsMemoryWf s ((s.abandon r).clearTo p) := by
  intro h
  have ha : Memory.wf (s.abandon r) = true := by
    unfold State.abandon
    split
    · exact memoryWf_abandonStep _ _ _ h
    · exact memoryWf_abandonStep _ _ _ h
    · exact h
  exact keepsMemoryWf_of_same (same_clearTo _ p) (fun _ => entriesWf_clearTo _ p) ha

theorem keepsMemoryWf_takeRestart (s : State) (p : Port) (args : Bytes) (r : Residue) :
    KeepsMemoryWf s (s.takeRestart p args r) := by
  refine keepsMemoryWf_command s p _ fun _ => ?_
  cases p with
  | s => exact id
  | m =>
    exact keepsMemoryWf_ite id (keepsMemoryWf_clearTo_abandon s r .starting)

/-! ### What the events keep -/

theorem keepsMemoryWf_report (s : State) (r : Report) : KeepsMemoryWf s (s.report r) :=
  keepsMemoryWf_of_same (same_report s r) (keepsEntriesWf_report s r)

theorem keepsMemoryWf_stepBoundary (s : State) : KeepsMemoryWf s s.stepBoundary :=
  keepsMemoryWf_of_same (same_stepBoundary s) fun h => by simpa using h

theorem keepsMemoryWf_reportReads (s : State) (g : ReadGrant) (rs : List (Nat × Outcome × Data)) :
    KeepsMemoryWf s (s.reportReads g rs) :=
  memoryWf_foldl _ (fun _ _ => keepsMemoryWf_report _ _) rs s

theorem keepsMemoryWf_endRead (s : State) (us : List Upset) : KeepsMemoryWf s (s.endRead us) := by
  unfold State.endRead
  split
  · exact fun h => keepsMemoryWf_grant _ (keepsMemoryWf_reportReads _ _ _ (memoryWf_upsets s _ us h))
  · exact id

theorem keepsMemoryWf_endCensusRead (s : State) (us : List Upset) : KeepsMemoryWf s (s.endCensusRead us) := by
  unfold State.endCensusRead
  split
  · next l g e counts _ =>
    intro h
    refine keepsMemoryWf_of_same (same_grantAfterCensus _) (fun h => by simpa using h) ?_
    have hr := keepsMemoryWf_report _ ⟨((s.upsets l us).readGranule l g).1, l, g, some e, .census⟩
      (memoryWf_upsets s l us h)
    split
    · exact keepsMemoryWf_of_same (same_censusRead _ _ _) (fun h => by simpa using h) hr
    · exact hr
  · exact id

theorem keepsMemoryWf_endEngineRead (s : State) (us : List Upset) : KeepsMemoryWf s (s.endEngineRead us) := by
  unfold State.endEngineRead
  split
  · exact fun h => keepsMemoryWf_stepBoundary _ <|
      keepsMemoryWf_of_same (same_afterRead _ _) (keepsEntriesWf_afterRead _ _) <|
        keepsMemoryWf_report _ _ (memoryWf_upsets s _ us h)
  · exact id

theorem keepsMemoryWf_endProgram (s : State) (us : List Upset) : KeepsMemoryWf s (s.endProgram us) := by
  unfold State.endProgram
  split
  · exact fun h => keepsMemoryWf_stepBoundary _ <|
      keepsMemoryWf_of_same (same_afterProgram _) (keepsEntriesWf_afterProgram _) <|
        memoryWf_upsets _ _ us (memoryWf_programGranule s _ _ _ h)
  · exact id

theorem keepsMemoryWf_endMark (s : State) (us : List Upset) : KeepsMemoryWf s (s.endMark us) := by
  unfold State.endMark
  split
  · exact fun h => keepsMemoryWf_stepBoundary _ <|
      keepsMemoryWf_of_same (same_afterMark _ _) (keepsEntriesWf_afterMark _ _) <|
        memoryWf_upsets _ _ us (memoryWf_programMarks s _ _ h)
  · exact id

theorem keepsMemoryWf_endErase (s : State) (us : List Upset) : KeepsMemoryWf s (s.endErase us) := by
  unfold State.endErase
  split
  · exact fun h => keepsMemoryWf_stepBoundary _ <|
      keepsMemoryWf_of_same (same_afterErase _ _) (keepsEntriesWf_afterErase _ _) <|
        memoryWf_upsets _ _ us (memoryWf_eraseCell s _ h)
  · exact id

theorem keepsMemoryWf_jobStarts (s : State) : KeepsMemoryWf s s.jobStarts := by
  unfold State.jobStarts
  split
  · exact fun h => keepsMemoryWf_grant _ <|
      keepsMemoryWf_of_same (same_startJob _ _) (keepsEntriesWf_startJob _ _) h
  · exact id

theorem keepsMemoryWf_refreshStarts (s : State) : KeepsMemoryWf s s.refreshStarts := by
  unfold State.refreshStarts
  split
  · exact fun h => keepsMemoryWf_grant _ <|
      keepsMemoryWf_of_same (same_startRefresh _ _) (keepsEntriesWf_startRefresh _ _) h
  · exact id

theorem keepsMemoryWf_recoveryStarts (s : State) : KeepsMemoryWf s s.recoveryStarts := by
  unfold State.recoveryStarts
  split
  · exact fun h => keepsMemoryWf_grant _ <|
      keepsMemoryWf_of_same (same_startItem _ _) (fun h => by simpa using h) h
  · exact id

theorem keepsMemoryWf_scanRead (s : State) (us : List Upset) : KeepsMemoryWf s (s.scanRead us) := by
  unfold State.scanRead
  split
  · exact id
  · exact fun h => keepsMemoryWf_of_same (same_scanAdvance _ _) (keepsEntriesWf_scanAdvance _ _) <|
      keepsMemoryWf_report _ _ (memoryWf_upsets s _ us h)

theorem keepsMemoryWf_scanRest (n : Nat) (s : State) : KeepsMemoryWf s (State.scanRest n s) := by
  induction n generalizing s with
  | zero => exact id
  | succ n ih =>
    unfold State.scanRest
    split
    · exact id
    · exact fun h => ih _ (keepsMemoryWf_scanRead s [] h)

theorem keepsMemoryWf_endScan (s : State) : KeepsMemoryWf s s.endScan :=
  keepsMemoryWf_ite
    (fun h => keepsMemoryWf_of_same (same_enterReady _) (keepsEntriesWf_enterReady _) (keepsMemoryWf_scanRest _ s h)) id

theorem keepsMemoryWf_expire (s : State) (slot : Fin 8) : KeepsMemoryWf s (s.expire slot) := by
  unfold State.expire
  repeat' split
  all_goals exact id

theorem keepsMemoryWf_endScanRead (s : State) (us : List Upset) : KeepsMemoryWf s (s.endScanRead us) :=
  keepsMemoryWf_ite (keepsMemoryWf_scanRead s us) id

theorem keepsMemoryWf_endInterval (s : State) : KeepsMemoryWf s s.endInterval :=
  keepsMemoryWf_ite
    (memoryWf_foldl State.expire keepsMemoryWf_expire allSlots { s with holds := s.holds.map HoldSlot.lower }) id

theorem keepsMemoryWf_holdLapses (s : State) (slot : Nat) : KeepsMemoryWf s (s.holdLapses slot) := by
  unfold State.holdLapses
  repeat' split
  · exact keepsMemoryWf_expire s _
  · exact id
  · exact id

/-- HOLD on an entry writes a hold slot and a response slot. -/
theorem keepsMemoryWf_holdEntry (s : State) (p : Port) (i : Nat) (k : Key) :
    KeepsMemoryWf s (s.holdEntry p i k) := by
  unfold State.holdEntry
  repeat' split
  all_goals exact id

theorem keepsMemoryWf_endHold (s : State) : KeepsMemoryWf s s.endHold :=
  keepsMemoryWf_ite id id

/-! ### Every command -/

/-- Every command keeps the form: a split over the commands. Those at the end write neither the array nor an entry, and
the form rests on these alone. -/
theorem exec_keepsMemoryWf (c : Instr) (s t : State) (h : exec c s = .next t) : KeepsMemoryWf s t := by
  cases c <;> cases h
  case read p a => exact keepsMemoryWf_takeRead s p a
  case readComplete us => exact keepsMemoryWf_endRead s us
  case commit p a => exact keepsMemoryWf_takeCommit s p a
  case patch p a => exact keepsMemoryWf_takePatch s p a
  case retire p a => exact keepsMemoryWf_takeRetire s p a
  case fix p a => exact keepsMemoryWf_takeFix s p a
  case census p a => exact keepsMemoryWf_takeCensus s p a
  case restart p a r => exact keepsMemoryWf_takeRestart s p a r
  case powerOn r => exact keepsMemoryWf_clearTo_abandon s r .held
  case resetN r => exact keepsMemoryWf_clearTo_abandon s r .held
  case scanEnd => exact keepsMemoryWf_endScan s
  case scanGranuleReadEnd us => exact keepsMemoryWf_endScanRead s us
  case jobStart => exact keepsMemoryWf_jobStarts s
  case refreshStart => exact keepsMemoryWf_refreshStarts s
  case recoveryStart => exact keepsMemoryWf_recoveryStarts s
  case engineReadEnd us => exact keepsMemoryWf_endEngineRead s us
  case granuleProgramEnd us => exact keepsMemoryWf_endProgram s us
  case markProgramEnd us => exact keepsMemoryWf_endMark s us
  case cellEraseEnd us => exact keepsMemoryWf_endErase s us
  case censusReadEnd us => exact keepsMemoryWf_endCensusRead s us
  case leaseInterval => exact keepsMemoryWf_endInterval s
  case holdLapsed i => exact keepsMemoryWf_holdLapses s i
  case resetHoldEnd => exact keepsMemoryWf_endHold s
  case fetch | badFrame | ignoredFrame => exact keepsMemoryWf_ite id id
  case unknownCommand p code a => exact keepsMemoryWf_ite id (keepsMemoryWf_arrive s p id)
  case status p a =>
    refine keepsMemoryWf_arrive s p ?_
    split <;> exact id
  case stage p a =>
    refine keepsMemoryWf_command s p _ fun x => ?_
    split
    · exact id
    · exact keepsMemoryWf_unless s p _ id
  case setupWrite p a => exact keepsMemoryWf_command s p _ fun x => keepsMemoryWf_unless s p _ id
  case hold p a =>
    refine keepsMemoryWf_command s p _ fun k => ?_
    repeat' split
    · exact id
    · exact keepsMemoryWf_holdEntry s p _ k
    · exact id
  case ack p a =>
    refine keepsMemoryWf_command s p _ fun m => ?_
    dsimp only
    split <;> exact id
  case censusCancel p a =>
    refine keepsMemoryWf_command s p _ fun _ => ?_
    split <;> exact id
  case capture | captureClear | refreshList | censusResult | setupRead | eventMask =>
    exact keepsMemoryWf_command s _ _ fun _ => id
  case find | list | discard | result | renew | release | inhibit =>
    refine keepsMemoryWf_command s _ _ fun _ => ?_
    repeat' split
    all_goals exact id

/-- Settles O56: the step is that of the command at the front of the queue, and the queue is no part of the memory. -/
theorem stepKeepsCanonicalMemory : Obligations.StepKeepsCanonicalMemory := by
  intro s t hwf h
  unfold step at h
  split at h
  · cases h
    exact hwf
  · next c rest _ => exact exec_keepsMemoryWf c { s with pending := rest } t h hwf

end Sys2Proof.Machine
end

section
/-! The record array: what a granule with no, one or two wrong data bits reads (2.4), and what the ends of the engine's
array steps leave in the array (2.2). -/

namespace Sys2Proof.Machine

/-! ### Counting wrong bits -/

/-- The bits below bit `i` are those of its power of two less one. -/
theorem getLsbD_twoPow_sub_one {i : Nat} (hi : i < 256) (k : Nat) :
    (BitVec.twoPow 256 i - 1).getLsbD k = decide (k < i) := by
  have hpow := BitVec.toNat_twoPow_of_lt hi
  have hle : 1 ≤ BitVec.twoPow 256 i := by
    rw [BitVec.le_def, hpow]
    exact Nat.one_le_two_pow
  rw [← BitVec.testBit_toNat, BitVec.toNat_sub_of_le hle, hpow]
  exact Nat.testBit_two_pow_sub_one i k

/-- A difference of a single bit is not 0. -/
theorem twoPow_ne_zero {i : Nat} (hi : i < 256) : BitVec.twoPow 256 i ≠ 0 := by
  intro h
  have hbit := congrArg (fun x => x.getLsbD i) h
  simp [hi] at hbit

/-- Taking the lowest bit from a single bit leaves none. -/
theorem twoPow_and_sub_one {i : Nat} (hi : i < 256) :
    BitVec.twoPow 256 i &&& (BitVec.twoPow 256 i - 1) = 0 := by
  refine BitVec.eq_of_getLsbD_eq fun k _ => ?_
  rw [BitVec.getLsbD_and, getLsbD_twoPow_sub_one hi, BitVec.getLsbD_twoPow]
  by_cases hk : i = k <;> simp [hk]

/-- Taking the lowest bit from two bits leaves the higher one. -/
theorem twoPow_xor_and_sub_one {i j : Nat} (hij : i < j) (hj : j < 256) :
    (BitVec.twoPow 256 i ^^^ BitVec.twoPow 256 j) &&& ((BitVec.twoPow 256 i ^^^ BitVec.twoPow 256 j) - 1) =
      BitVec.twoPow 256 j := by
  have hi : i < 256 := by omega
  have hbits : ∀ k, (BitVec.twoPow 256 i - 1).getLsbD k = decide (k < i) := getLsbD_twoPow_sub_one hi
  have hxor : BitVec.twoPow 256 i ^^^ BitVec.twoPow 256 j = BitVec.twoPow 256 i + BitVec.twoPow 256 j := by
    rw [BitVec.add_eq_or_of_and_eq_zero]
    all_goals
      refine BitVec.eq_of_getLsbD_eq fun k _ => ?_
      simp [BitVec.getLsbD_twoPow, hi, hj]
      grind
  have hsub : BitVec.twoPow 256 i + BitVec.twoPow 256 j - 1 =
      (BitVec.twoPow 256 i - 1) ||| BitVec.twoPow 256 j := by
    rw [← BitVec.add_eq_or_of_and_eq_zero]
    · generalize BitVec.twoPow 256 i = x
      generalize BitVec.twoPow 256 j = y
      bv_omega
    · refine BitVec.eq_of_getLsbD_eq fun k _ => ?_
      rw [BitVec.getLsbD_and, hbits]
      simp [BitVec.getLsbD_twoPow, hj]
      omega
  rw [hxor, hsub, ← hxor]
  refine BitVec.eq_of_getLsbD_eq fun k _ => ?_
  rw [BitVec.getLsbD_and, BitVec.getLsbD_or, hbits]
  simp [BitVec.getLsbD_twoPow, hi, hj]
  grind

/-- A difference of one bit counts one. -/
theorem wrongBits_one {i : Nat} (hi : i < 256) : wrongBits (1#256 <<< i) = 1 := by
  rw [← BitVec.twoPow_eq]
  have hand := twoPow_and_sub_one hi
  simp only [wrongBits, if_neg (twoPow_ne_zero hi), hand, if_true]

/-- A difference of two bits, the lower named first, counts two. -/
theorem wrongBits_two_of_lt {i j : Nat} (hij : i < j) (hj : j < 256) : wrongBits (1#256 <<< i ^^^ 1#256 <<< j) = 2 := by
  rw [← BitVec.twoPow_eq, ← BitVec.twoPow_eq]
  have hfirst := twoPow_xor_and_sub_one hij hj
  have hsecond := twoPow_and_sub_one hj
  have hne : BitVec.twoPow 256 i ^^^ BitVec.twoPow 256 j ≠ 0 := by
    intro h
    rw [h] at hfirst
    exact twoPow_ne_zero hj (hfirst.symm.trans (BitVec.zero_and ..))
  simp only [wrongBits, if_neg hne, hfirst, if_neg (twoPow_ne_zero hj), hsecond, if_true]

/-- A difference of two bits counts two. -/
theorem wrongBits_two {i j : Nat} (hi : i < 256) (hj : j < 256) (hij : i ≠ j) :
    wrongBits (1#256 <<< i ^^^ 1#256 <<< j) = 2 := by
  rcases Nat.lt_or_gt_of_ne hij with hlt | hgt
  · exact wrongBits_two_of_lt hlt hj
  · rw [BitVec.xor_comm]
    exact wrongBits_two_of_lt hgt hi

/-- The bits in which a datum with some bits changed differs from it are those changed. -/
theorem xor_xor_self (d e : Data) : d ^^^ e ^^^ d = e := by
  rw [BitVec.xor_comm, ← BitVec.xor_assoc, BitVec.xor_self, BitVec.zero_xor]

/-! ### Reads with correction (R33) -/

/-- What a granule with the check bits of `d` reads, by how many data bits are wrong. -/
theorem readGuarded_of_wrongBits (raw d : Data) :
    (wrongBits (raw ^^^ d) = 0 → (⟨raw, .matching d []⟩ : Granule).readGuarded = (.clean, raw)) ∧
      (wrongBits (raw ^^^ d) = 1 → (⟨raw, .matching d []⟩ : Granule).readGuarded = (.corrected, d)) ∧
      (wrongBits (raw ^^^ d) = 2 → (⟨raw, .matching d []⟩ : Granule).readGuarded = (.uncorrectable, raw)) := by
  refine ⟨fun h => ?_, fun h => ?_, fun h => ?_⟩ <;> simp [Granule.readGuarded, h]

/-- A granule programmed once reads CLEAN. -/
theorem readGuarded_programmed (d : Data) : (Granule.programmed d).readGuarded = (.clean, d) :=
  (readGuarded_of_wrongBits d d).1 (by rw [BitVec.xor_self]; decide)

/-- Settles O20, from the number of bits in which the granule differs from the data its check bits were computed for. -/
theorem readOutcomeByWrongBits : Obligations.ReadOutcomeByWrongBits := by
  intro d i j hi hj hij
  refine ⟨readGuarded_programmed d, (readGuarded_of_wrongBits _ d).2.1 ?_, (readGuarded_of_wrongBits _ d).2.2 ?_⟩
  · rw [xor_xor_self]
    exact wrongBits_one hi
  · rw [BitVec.xor_assoc d, xor_xor_self]
    exact wrongBits_two hi hj hij

/-! ### The ends of the engine's array steps (R26, R30) -/

/-- The engine's advance and the grants after it leave the array as the end of the step left it. -/
theorem same_release_boundary (u v : State) (h : Same u.release v) :
    v.stepBoundary.granules = u.granules ∧ v.stepBoundary.marks = u.marks := by
  obtain ⟨hg, hm, -⟩ := same_stepBoundary v
  obtain ⟨hg', hm', -⟩ := h
  exact ⟨hg.trans hg', hm.trans hm'⟩

/-- The end of a granule program leaves the array with the granule programmed. -/
theorem exec_granuleProgramEnd_array (s : State) (l : Loc) (g : Nat) (d : Data)
    (hu : s.arb.user = some (.engine (.program l g d))) :
    ∃ t, exec (.granuleProgramEnd []) s = .next t ∧ t.granules = (s.programGranule l g d).granules ∧
      t.marks = s.marks := by
  simp only [exec, execGranuleProgramEnd, State.endProgram, hu]
  exact ⟨_, rfl, same_release_boundary _ _ (same_afterProgram _)⟩

/-- The end of a mark program leaves the array with the marks programmed. -/
theorem exec_markProgramEnd_array (s : State) (l : Loc) (m : BitVec 12)
    (hu : s.arb.user = some (.engine (.mark l m))) :
    ∃ t, exec (.markProgramEnd []) s = .next t ∧ t.granules = s.granules ∧ t.marks = (s.programMarks l m).marks := by
  simp only [exec, execMarkProgramEnd, State.endMark, hu]
  exact ⟨_, rfl, same_release_boundary _ _ (same_afterMark _ _)⟩

/-- The end of a cell erase leaves the array with the cell erased. -/
theorem exec_cellEraseEnd_array (s : State) (l : Loc) (hu : s.arb.user = some (.engine (.erase l))) :
    ∃ t, exec (.cellEraseEnd []) s = .next t ∧ t.granules = (s.eraseCell l).granules ∧
      t.marks = (s.eraseCell l).marks := by
  simp only [exec, execCellEraseEnd, State.endErase, hu]
  exact ⟨_, rfl, same_release_boundary _ _ (same_afterErase _ _)⟩

/-- What a granule is read as depends on the array alone. -/
theorem readGranule_congr {s t : State} (hg : t.granules = s.granules) (hm : t.marks = s.marks) (l : Loc) (g : Nat) :
    t.readGranule l g = s.readGranule l g := by
  simp only [State.readGranule, granule_congr hg, markField_congr hm]

/-- A granule of an erased cell reads as 32 bytes of FFH, CLEAN (R26). -/
theorem readGranule_eraseCell (s : State) (l : Loc) (g : Nat) (hg : g < 8) :
    (s.eraseCell l).readGranule l g = (.clean, BitVec.allOnes 256) := by
  have hmark : MarkField.erased.has (.patch g) = false := by simp [MarkField.has, MarkField.voted, MarkField.erased]
  rw [State.readGranule, markField_eraseCell, hmark, granule_eraseCell s l g hg]
  simp only [Bool.false_eq_true, and_false, if_false]
  exact readGuarded_programmed erasedData

/-- Settles O49: the array after each end is that of the step alone, and the step changes its own place. -/
theorem arrayStepsChangeTheirPlace : Obligations.ArrayStepsChangeTheirPlace := by
  refine fun s l => ⟨fun g d hg hu => ?_, fun m hu => ?_, fun hu => ?_⟩
  · obtain ⟨t, hx, htg, htm⟩ := exec_granuleProgramEnd_array s l g d hu
    refine ⟨t, hx, fun pos => ?_, fun l' g' pos hg' hne => ?_, fun l' => markField_congr htm l'⟩
    · rw [granule_congr htg, granule_programGranule_same]
      exact BitVec.extractLsb'_and
    · have hkey : granuleKey l' g' ≠ granuleKey l g := fun h =>
        hne (Prod.ext_iff.2 (granuleKey_inj l' l g' g hg' hg h))
      rw [granule_congr htg]
      exact congrArg (fun x => byteAt x.data pos) (granule_setGranule_other s l l' g g' _ hkey)
  · obtain ⟨t, hx, htg, htm⟩ := exec_markProgramEnd_array s l m hu
    refine ⟨t, hx, ?_, fun l' hl => ?_, fun l' g pos => ?_⟩
    · rw [markField_congr htm, markField_programMarks]
    · rw [markField_congr htm]
      exact (onlyCell_programMarks s l m l' hl).2
    · rw [granule_congr htg]
  · obtain ⟨t, hx, htg, htm⟩ := exec_cellEraseEnd_array s l hu
    refine ⟨t, hx, fun g hg => ?_, ?_, fun l' g pos hl hg => ?_⟩
    · rw [readGranule_congr htg htm]
      exact readGranule_eraseCell s l g hg
    · rw [markField_congr htm]
      exact markField_eraseCell s l
    · obtain ⟨hgran, hmark⟩ := onlyCell_eraseCell s l l' hl
      rw [granule_congr htg, markField_congr htm, hgran g hg]
      exact ⟨rfl, hmark⟩

end Sys2Proof.Machine
end

section
/-! READ (2.5): its checks by Table 2-5, its grant on a free array, and the answer at the end of its granule reads. -/

namespace Sys2Proof.Machine

/-! ### Resolution of a key (R6) -/

theorem resolve_active {s : State} {k : Key} {i : Nat} (h : s.activeIndex k = some i) : s.resolve k = .ok i := by
  simp [State.resolve, h]

theorem resolve_gone {s : State} {k : Key} (h : s.activeIndex k = none) (hr : s.retiringList k ≠ []) :
    s.resolve k = .error .gone := by
  simp [State.resolve, h, hr]

theorem resolve_notFound {s : State} {k : Key} (h : s.activeIndex k = none) (hr : s.retiringList k = []) :
    s.resolve k = .error .notFound := by
  simp [State.resolve, h, hr]

/-! ### The checks of READ (Table 2-5) -/

/-- The arguments are in range when the key is valid, the offset at most 223 and the count 1 to 224. -/
theorem inRange_iff (a : ReadArgs) :
    a.inRange = true ↔ keyValid a.key = true ∧ a.offset ≤ 223 ∧ 1 ≤ a.count ∧ a.count ≤ 224 := by
  simp [ReadArgs.inRange, and_assoc]

/-- The current cell of a LIVE entry with a pair. -/
theorem currentLoc_live {e : Entry} {l : Live} {pair : Nat} (hb : e.body = .live l) (hp : e.pair = some pair) :
    e.currentLoc = some (Loc.num pair l.cell) := by
  simp [Entry.currentLoc, hb, hp]

/-- A READ that passes its checks claims its range of the entry and the cell that is current then (R37). -/
theorem readClaim_live {s : State} {a : ReadArgs} {i pair : Nat} {l : Live} (hi : s.activeIndex a.key = some i)
    (hb : (s.entry i).body = .live l) (hp : (s.entry i).pair = some pair) (ho : a.offset < l.length) :
    s.readClaim a = .ok ⟨i, a.offset, a.count, Loc.num pair l.cell⟩ := by
  simp [State.readClaim, resolve_active hi, hb, currentLoc_live hb hp, ho]

theorem readClaim_pastRecord {s : State} {a : ReadArgs} {i pair : Nat} {l : Live} (hi : s.activeIndex a.key = some i)
    (hb : (s.entry i).body = .live l) (hp : (s.entry i).pair = some pair) (ho : l.length ≤ a.offset) :
    s.readClaim a = .error .badArg := by
  simp [State.readClaim, resolve_active hi, hb, currentLoc_live hb hp, Nat.not_lt.2 ho]

theorem readClaim_nascent {s : State} {a : ReadArgs} {i : Nat} {k : Key} {c : Cls} (hi : s.activeIndex a.key = some i)
    (hb : (s.entry i).body = .nascent k c) : s.readClaim a = .error .absentData := by
  simp [State.readClaim, resolve_active hi, hb]

theorem readClaim_unresolved {s : State} {a : ReadArgs} {st : Status} (h : s.resolve a.key = .error st) :
    s.readClaim a = .error st := by
  simp [State.readClaim, h]

/-! ### What a READ does at its port -/

theorem takeRead_outOfRange (s : State) (p : Port) {args : Bytes} {a : ReadArgs} (ha : readArgs args = some a)
    (h : s.takes p) (hr : a.inRange = false) : s.takeRead p args = s.refuse p .badArg := by
  simp [State.takeRead, ha, command_takes s p a _ h, hr]

theorem takeRead_refused (s : State) (p : Port) {args : Bytes} {a : ReadArgs} {st : Status}
    (ha : readArgs args = some a) (h : s.takes p) (hr : a.inRange = true) (hc : s.readClaim a = .error st) :
    s.takeRead p args = s.refuse p st := by
  simp [State.takeRead, ha, command_takes s p a _ h, hr, hc]

/-- The slot of a READ that passes its checks becomes PENDING. -/
def State.pend (s : State) (p : Port) : State := s.modPort p (fun ps => { ps with slot := .pending })

/-- A READ that passes its checks joins the arbiter's claimants (R37). -/
theorem takeRead_claims (s : State) (p : Port) {args : Bytes} {a : ReadArgs} {c : ReadClaim}
    (ha : readArgs args = some a) (h : s.takes p) (hr : a.inRange = true) (hc : s.readClaim a = .ok c) :
    s.takeRead p args = (s.pend p).claimRead p c := by
  simp [State.takeRead, ha, command_takes s p a _ h, hr, hc, State.pend]

/-- Settles O17: each line of Table 2-5 is the range check or an error of the claim. -/
theorem readIsRefusedByTable : Obligations.ReadIsRefusedByTable := by
  intro s p args a ha h answers
  refine ⟨fun hbad => ?_, fun hk ho h1 h2 => ?_⟩
  · have hr : a.inRange = false := by
      rw [← Bool.not_eq_true, inRange_iff]
      rintro ⟨hk, ho, h1, h2⟩
      rcases hbad with hbad | hbad | hbad | hbad
      · exact absurd hk (by simp [hbad])
      all_goals omega
    exact congrArg Host.Outcome.next (takeRead_outOfRange s p ha h hr)
  · have hr : a.inRange = true := (inRange_iff a).2 ⟨hk, ho, h1, h2⟩
    have refused : ∀ st, s.readClaim a = .error st → answers st := fun st hc =>
      congrArg Host.Outcome.next (takeRead_refused s p ha h hr hc)
    exact ⟨fun hi hl => refused _ (readClaim_unresolved (resolve_gone hi hl)),
      fun hi hl => refused _ (readClaim_unresolved (resolve_notFound hi hl)),
      fun i k c hi hb => refused _ (readClaim_nascent hi hb),
      fun i l pair hi hb hp ho => refused _ (readClaim_pastRecord hi hb hp ho)⟩

/-! ### The grant on a free array (R38, R41) -/

/-- An entry whose body and pair are known. -/
theorem entry_eq {e : Entry} {b : EntryBody} {q : Option Nat} (hb : e.body = b) (hp : e.pair = q) :
    e = ⟨b, q, e.jobs⟩ := by
  rw [← hb, ← hp]

/-- On a free array the READ that is first in the order of the ports is granted (R41). -/
theorem grantFree_read (e : Bool) (s : State) (p : Port) (c : ReadClaim) (rest : List Port)
    (hp : s.arb.waitingPorts = p :: rest) (hw : s.arb.waiting p = some c) : s.grantFree e = s.grantRead p c := by
  simp only [State.grantFree, hp, hw]

/-- What the grant of a READ of a LIVE entry leaves of the arbiter (R38). -/
def Arbiter.granted (a : Arbiter) (g : ReadGrant) : Arbiter :=
  { a.setWaiting g.port none with
    lastPort := g.port
    suspended := a.suspended.map (fun sp => { sp with granted := g.port :: sp.granted })
    boundary := a.boundary.map (fun b => { b with ports := b.ports.filter (fun q => q != g.port) })
    user := some (.port g) }

/-- What a port whose READ claims a range of a LIVE entry is granted: the count is cut to the record's end (R38). -/
def ReadClaim.grant (c : ReadClaim) (p : Port) (l : Live) (pair : Nat) : ReadGrant :=
  ⟨p, c.entry, Loc.num pair l.cell, l.gen, c.offset, min c.count (l.length - c.offset)⟩

/-- The entry of a claim is LIVE with a pair, and its record reaches past the claim's offset. -/
abbrev State.readable (s : State) (c : ReadClaim) (l : Live) (pair : Nat) : Prop :=
  (∃ n, s.entry c.entry = ⟨.live l, some pair, n⟩) ∧ c.offset < l.length

theorem grantRead_readable (s : State) (p : Port) (c : ReadClaim) (l : Live) (pair : Nat) (h : s.readable c l pair) :
    s.grantRead p c = { s with arb := s.arb.granted (c.grant p l pair) } := by
  obtain ⟨⟨n, he⟩, ho⟩ := h
  exact grantRead_live s p c l pair n he ho

/-- On a free array the arbiter grants the READ that is first in the order of the ports, and no more (R41). -/
theorem grants_read (e : Bool) (n : Nat) (s : State) (p : Port) (c : ReadClaim) (l : Live) (pair : Nat)
    (rest : List Port) (hu : s.arb.user = none) (hsu : s.arb.suspended = none) (hb : s.arb.boundary = none)
    (hp : s.arb.waitingPorts = p :: rest) (hw : s.arb.waiting p = some c) (h : s.readable c l pair) :
    State.grants e (n + 1) s = { s with arb := s.arb.granted (c.grant p l pair) } := by
  refine grants_one e n s _ hu ?_ rfl
  rw [arbiterMove_free e s hu hsu hb, grantFree_read e s p c rest hp hw, grantRead_readable s p c l pair h]

/-- A READ that joins the claimants of a free array is granted. -/
theorem claimRead_free (s : State) (p : Port) (c : ReadClaim) (l : Live) (pair : Nat) (h : s.arrayFree)
    (hc : s.readable c l pair) :
    s.claimRead p c = { s with arb := { s.arb with user := some (.port (c.grant p l pair)), lastPort := p } } := by
  obtain ⟨hu, hsu, hb, hm, hs, -, -⟩ := h
  have ho : (s.arb.setWaiting p (some c)).waiting (otherPort p) = none := by
    rw [waiting_setWaiting_other]
    cases p <;> assumption
  have hsusp : ({ s with arb := s.arb.setWaiting p (some c) } : State).suspendFor =
      { s with arb := s.arb.setWaiting p (some c) } := by
    unfold State.suspendFor
    rw [show ({ s with arb := s.arb.setWaiting p (some c) } : State).arb.user = none from hu]
  have hw := waiting_setWaiting_same s.arb p (some c)
  rw [State.claimRead, hsusp]
  refine (grants_read false 11 { s with arb := s.arb.setWaiting p (some c) } p c l pair [] hu hsu hb
    (waitingPorts_one _ p c hw ho) hw hc).trans ?_
  cases p <;> simp [Arbiter.granted, ReadClaim.grant, Arbiter.setWaiting, hsu, hb, hm, hs]

/-- A READ that passes its checks claims its range, with its slot PENDING (R37). -/
theorem exec_read_claims {s : State} {p : Port} {args : Bytes} {a : ReadArgs} {i pair : Nat} {l : Live} (h : s.takes p)
    (ha : readArgs args = some a) (hr : a.inRange = true) (hi : s.activeIndex a.key = some i)
    (hb : (s.entry i).body = .live l) (hp : (s.entry i).pair = some pair) (ho : a.offset < l.length) :
    exec (.read p args) s = .next ((s.pend p).claimRead p ⟨i, a.offset, a.count, Loc.num pair l.cell⟩) ∧
      (s.pend p).readable ⟨i, a.offset, a.count, Loc.num pair l.cell⟩ l pair :=
  ⟨congrArg Host.Outcome.next (takeRead_claims s p ha h hr (readClaim_live hi hb hp ho)), ⟨_, entry_eq hb hp⟩, ho⟩

/-- Settles O16: the claim of the READ finds the array free. -/
theorem readOnFreeArrayIsGranted : Obligations.ReadOnFreeArrayIsGranted := by
  intro s p args a i pair l h ha hk ho h1 h2 hi hb hp hlen hfree
  obtain ⟨hx, hread⟩ := exec_read_claims h ha ((inRange_iff a).2 ⟨hk, ho, h1, h2⟩) hi hb hp hlen
  rw [claimRead_free (s.pend p) p _ l pair hfree hread] at hx
  exact ⟨_, hx, rfl, rfl, rfl⟩

/-! ### The end of the granule reads (R39) -/

/-- A report takes its place in the capture record (R111). -/
theorem report_capture (s : State) (r : Report) : (s.report r).capture = s.capture.take r := by
  obtain ⟨es, rl, fm, fs, h⟩ := report_touches s r
  rw [h]

/-- The reports of a READ enter the capture record in order. -/
theorem reportReads_capture (s : State) (g : ReadGrant) (rs : List (Nat × Outcome × Data)) :
    (s.reportReads g rs).capture =
      (rs.map (fun r => reportOf g.loc r.1 (some g.entry) (portParty g.port) r.2.1)).foldl Capture.take s.capture := by
  unfold State.reportReads
  induction rs generalizing s with
  | nil => rfl
  | cons r rs ih => rw [List.foldl_cons, ih, report_capture, List.map_cons, List.foldl_cons]

/-- No READ of the port waits, and its response slot is as it was. -/
abbrev SlotKept (p : Port) (s t : State) : Prop := t.arb.waiting p = none ∧ (t.port p).slot = (s.port p).slot

/-- The census that takes up an entry, or ends, touches no READ and no slot. -/
theorem slotKept_takeUp (p : Port) (s : State) (c : CensusRun) (h : s.arb.waiting p = none) :
    SlotKept p s (s.takeUp c) := by
  unfold State.takeUp
  split
  · exact ⟨by cases p <;> exact h, by cases p <;> rfl⟩
  · exact ⟨by cases p <;> exact h, by cases p <;> cases c.port <;> rfl⟩

theorem slotKept_suspendFor (p : Port) (s : State) (h : s.arb.waiting p = none) : SlotKept p s s.suspendFor := by
  unfold State.suspendFor
  repeat' split
  all_goals exact ⟨by cases p <;> exact h, by cases p <;> rfl⟩

theorem slotKept_grantCensus (p : Port) (s : State) (c : CensusClaim) (h : s.arb.waiting p = none) :
    SlotKept p s (s.grantCensus c) := by
  have hw : ({ s with arb := { s.arb with waitCensus := none } } : State).arb.waiting p = none := by cases p <;> exact h
  simp only [State.grantCensus]
  repeat' split
  case h_2 => exact slotKept_takeUp p { s with arb := { s.arb with waitCensus := none } } _ hw
  all_goals exact ⟨by cases p <;> exact h, by cases p <;> rfl⟩

/-- The grant of a READ of the other port. -/
theorem slotKept_grantRead (p q : Port) (s : State) (c : ReadClaim) (h : s.arb.waiting p = none) (hq : p ≠ q) :
    SlotKept p s (s.grantRead q c) := by
  simp only [State.grantRead]
  repeat' split
  all_goals cases p <;> cases q
  all_goals first
    | exact absurd rfl hq
    | exact ⟨h, rfl⟩

theorem slotKept_grantEngine (p : Port) (s : State) (st : EngineStep) (h : s.arb.waiting p = none) :
    SlotKept p s (s.grantEngine st) :=
  slotKept_suspendFor p
    { s with arb := { s.arb with waitEngine := none, user := some (.engine st), suspCount := 0, boundary := none } }
    (by cases p <;> exact h)

/-- A READ that is granted waited, so it is not one of a port without a waiting READ. -/
theorem ne_of_waiting {a : Arbiter} {p q : Port} {c : ReadClaim} (h : a.waiting p = none) (hq : a.waiting q = some c) :
    p ≠ q := by
  rintro rfl
  rw [h] at hq
  cases hq

/-- One move of the arbiter leaves the slot of a port without a waiting READ as it was. -/
theorem slotKept_arbiterMove (p : Port) (s : State) (e : Bool) (h : s.arb.waiting p = none) :
    SlotKept p s (s.arbiterMove e) := by
  have hfree : ({ s with arb := { s.arb with boundary := some ⟨[], false⟩ } } : State).arb.waiting p = none := by
    cases p <;> exact h
  simp only [State.arbiterMove, State.grantBoundary, State.grantFree, State.resume]
  repeat' split
  all_goals first
    | exact ⟨h, rfl⟩
    | exact slotKept_grantRead p _ s _ h (ne_of_waiting h ‹_›)
    | exact slotKept_grantCensus p s _ h
    | exact slotKept_grantEngine p s _ h
    | exact slotKept_grantCensus p { s with arb := { s.arb with boundary := some ⟨[], false⟩ } } _ hfree
    | exact slotKept_grantEngine p { s with arb := { s.arb with boundary := some ⟨[], false⟩ } } _ hfree
    | exact slotKept_suspendFor p { s with arb := { s.arb with suspended := none, user := some (.engine _) } }
        (by cases p <;> exact h)

/-- The arbiter's grants leave the slot of a port without a waiting READ as it was. -/
theorem slotKept_grants (p : Port) (e : Bool) (n : Nat) (s : State) (h : s.arb.waiting p = none) :
    SlotKept p s (State.grants e n s) := by
  induction n generalizing s with
  | zero => exact ⟨h, rfl⟩
  | succ n ih =>
    unfold State.grants
    split
    · exact ⟨h, rfl⟩
    · obtain ⟨hw, hs⟩ := slotKept_arbiterMove p s e h
      obtain ⟨hw', hs'⟩ := ih _ hw
      exact ⟨hw', hs'.trans hs⟩

/-- The state at the end of a READ's granule reads, before the arbiter's next grants. -/
def State.readAnswered (s : State) (g : ReadGrant) : State :=
  let u := (s.reportReads g (s.grantReads g)).answer g.port .ok (readAnswer g (s.grantReads g))
  { u with arb := { u.arb with user := none } }

theorem exec_readComplete (s : State) (us : List Upset) (g : ReadGrant) (hu : s.arb.user = some (.port g)) :
    exec (.readComplete us) s = .next ((s.upsets g.loc us).readAnswered g).grant := by
  simp only [exec, execReadComplete, State.endRead, hu]
  rfl

/-- What the end of a READ leaves: the answer in the slot of its port, the reports in the capture record, and beside the
entries, the refresh list and the event flags nothing else changed. -/
theorem readAnswered_facts (s : State) (g : ReadGrant) :
    let t := s.readAnswered g
    (t.port g.port).slot = .ready .ok (readAnswer g (s.grantReads g)) ∧
      t.capture = ((s.grantReads g).map
        (fun r => reportOf g.loc r.1 (some g.entry) (portParty g.port) r.2.1)).foldl Capture.take s.capture ∧
      (∀ p, t.arb.waiting p = s.arb.waiting p) ∧ t.granules = s.granules ∧ t.marks = s.marks ∧ t.queue = s.queue ∧
      t.work = s.work ∧ t.buffers = s.buffers ∧ t.holds = s.holds ∧ t.setup = s.setup := by
  intro t
  have hcap : t.capture = (s.reportReads g (s.grantReads g)).capture := rfl
  have hslot : (t.port g.port).slot = .ready .ok (readAnswer g (s.grantReads g)) :=
    congrArg PortState.slot (port_modPort_same (s.reportReads g (s.grantReads g)) g.port
      (fun ps => { ps with slot := .ready .ok (readAnswer g (s.grantReads g)) }))
  rw [reportReads_capture] at hcap
  refine ⟨hslot, hcap, ?_⟩
  obtain ⟨es, rl, fm, fs, c, h⟩ := reportReads_touches s g (s.grantReads g)
  simp only [t, State.readAnswered, h]
  exact ⟨fun p => by cases p <;> rfl, rfl, rfl, rfl, rfl, rfl, rfl, rfl⟩

/-- Settles O19: the end of the reads puts the answer in the slot, and the grants that follow leave the slot of a port that
waits for nothing. -/
theorem readCompleteAnswers : Obligations.ReadCompleteAnswers := by
  intro s us g hu hw reads
  obtain ⟨x, m, hup⟩ := upsets_touches s g.loc us
  have hreads : (s.upsets g.loc us).grantReads g = reads := rfl
  obtain ⟨hslot, hcap, hwait, hgr, hma, hqu, hwo, hbu, hho, hse⟩ := readAnswered_facts (s.upsets g.loc us) g
  rw [hreads] at hslot hcap
  have hnone : ((s.upsets g.loc us).readAnswered g).arb.waiting g.port = none := by rw [hwait, hup]; exact hw
  obtain ⟨-, hkept⟩ := slotKept_grants g.port false grantMoves _ hnone
  obtain ⟨a, cn, pm, ps, f, ht⟩ := arbiterOnly_grants false grantMoves ((s.upsets g.loc us).readAnswered g)
  refine ⟨_, exec_readComplete s us g hu, hkept.trans hslot, ?_⟩
  rw [State.grant, ht]
  refine ⟨hcap.trans ?_, hgr, hma, hqu.trans ?_, hwo.trans ?_, hbu.trans ?_, hho.trans ?_, hse.trans ?_⟩
  all_goals rw [hup]
  all_goals rfl

end Sys2Proof.Machine
end

section
/-! The array arbiter (2.6): the grants while a step is suspended, at a step boundary and at the end of a census read. Each
grant is first said for any state, in terms of what waits; then the clauses of R41 to R44 are read off. -/

namespace Sys2Proof.Machine

/-! ### Ports and claims -/

theorem port_eq_or_other (p q : Port) : q = p ∨ q = otherPort p := by
  cases p <;> cases q <;> simp [otherPort]

/-- A fact about each of the two ports' waiting READs, when one of them does not wait. -/
theorem waiting_only {a : Arbiter} {p : Port} (ho : a.waiting (otherPort p) = none) {q : Port} {r : ReadClaim}
    (hq : a.waiting q = some r) : q = p ∧ a.waiting p = some r := by
  rcases port_eq_or_other p q with rfl | rfl
  · exact ⟨rfl, hq⟩
  · rw [ho] at hq
    cases hq

/-- A record stays readable, with the same grant, when only the flags of entries change. -/
theorem readable_of_flagsOnly {s u : State} (h : ∀ i, FlagsOnly (s.entry i) (u.entry i)) {c : ReadClaim} {l : Live}
    {pair : Nat} (hc : s.readable c l pair) :
    ∃ l', u.readable c l' pair ∧ ∀ p, c.grant p l' pair = c.grant p l pair := by
  obtain ⟨⟨n, he⟩, ho⟩ := hc
  obtain ⟨d, w, hu⟩ := (h c.entry).live he
  exact ⟨_, ⟨⟨n, hu⟩, ho⟩, fun _ => rfl⟩

/-! ### Suspension and resumption (R43, R44) -/

/-- The arbiter once it has suspended the step in progress, with no READ granted yet. -/
def Arbiter.suspending (a : Arbiter) (step : EngineStep) (progress : Nat) : Arbiter :=
  { a with user := none, suspended := some ⟨step, progress, []⟩, suspCount := a.suspCount + 1 }

/-- In a suspension the READ that is next is granted, and no more. -/
theorem grants_suspended (e : Bool) (n : Nat) (s : State) (sp : Suspended) (p : Port) (c : ReadClaim) (l : Live)
    (pair : Nat) (hu : s.arb.user = none) (hs : s.arb.suspended = some sp) (hn : s.arb.nextInSuspension sp = some p)
    (hw : s.arb.waiting p = some c) (h : s.readable c l pair) :
    State.grants e (n + 1) s = { s with arb := s.arb.granted (c.grant p l pair) } := by
  refine grants_one e n s _ hu ?_ rfl
  rw [arbiterMove_suspended e s sp p c hu hs hn hw, grantRead_readable s p c l pair h]

/-- A step within its budget is suspended for a READ of another cell that waits alone, and the READ is granted. -/
theorem grants_suspendFor (e : Bool) (n : Nat) (s : State) (step : EngineStep) (p : Port) (c : ReadClaim) (l : Live)
    (pair : Nat) (hu : s.arb.user = some (.engine step)) (hlt : s.arb.suspCount < step.budget)
    (hw : s.arb.waiting p = some c) (ho : s.arb.waiting (otherPort p) = none) (hl : c.loc ≠ step.loc)
    (h : s.readable c l pair) :
    ∃ m, State.grants e (n + 1) s.suspendFor =
      { s with arb := (s.arb.suspending step m).granted (c.grant p l pair), free := s.free + 1 } := by
  refine ⟨Config.suspendProgress s.free, ?_⟩
  rw [suspendFor_does s step p c hu hlt hw hl]
  have hw' : (s.arb.suspending step (Config.suspendProgress s.free)).waiting p = some c := by cases p <;> exact hw
  have ho' : (s.arb.suspending step (Config.suspendProgress s.free)).waiting (otherPort p) = none := by
    cases p <;> exact ho
  exact grants_suspended e n
    { s with arb := s.arb.suspending step (Config.suspendProgress s.free), free := s.free + 1 } _ p c l pair rfl rfl
    (nextInSuspension_one _ _ p c hw' ho' (List.not_mem_nil) hl) hw' h

/-- With no READ to grant the suspended step resumes as it was, when it may not be suspended again. -/
theorem grants_resumes (e : Bool) (n : Nat) (s : State) (sp : Suspended) (hu : s.arb.user = none)
    (hs : s.arb.suspended = some sp) (hn : s.arb.nextInSuspension sp = none)
    (hno : sp.step.budget ≤ s.arb.suspCount ∨ ∀ p c, s.arb.waiting p = some c → c.loc = sp.step.loc) :
    State.grants e (n + 1) s =
      { s with arb := { s.arb with suspended := none, user := some (.engine sp.step) } } := by
  refine grants_one e n s _ hu ?_ rfl
  rw [arbiterMove_resumes e s sp hu hs hn]
  refine suspendFor_not { s with arb := { s.arb with suspended := none, user := some (.engine sp.step) } } sp.step rfl ?_
  exact hno.imp_right fun h p c hp => h p c (by cases p <;> exact hp)

/-- With no READ to grant in this suspension, a READ of another cell of a port that has had its grant suspends the step
again within its budget. -/
theorem grants_resuspends (e : Bool) (n : Nat) (s : State) (sp : Suspended) (p : Port) (c : ReadClaim) (l : Live)
    (pair : Nat) (hu : s.arb.user = none) (hs : s.arb.suspended = some sp) (hp : p ∈ sp.granted)
    (hlt : s.arb.suspCount < sp.step.budget) (hw : s.arb.waiting p = some c)
    (ho : s.arb.waiting (otherPort p) = none) (hl : c.loc ≠ sp.step.loc) (h : s.readable c l pair) :
    ∃ m, State.grants e (n + 2) s =
      { s with arb := (s.arb.suspending sp.step m).granted (c.grant p l pair), free := s.free + 1 } := by
  have hn : s.arb.nextInSuspension sp = none := nextInSuspension_none _ _ fun q r hq => by
    obtain ⟨rfl, -⟩ := waiting_only ho hq
    exact Or.inl hp
  rw [grants_succ e _ s hu, arbiterMove_resumes e s sp hu hs hn]
  exact grants_suspendFor e n { s with arb := { s.arb with suspended := none, user := some (.engine sp.step) } } sp.step p c
    l pair rfl hlt (by cases p <;> exact hw) (by cases p <;> exact ho) hl h

/-! ### A READ that arrives during an engine step -/

/-- A READ of another cell that joins the claimants while a step within its budget holds the array suspends it. -/
theorem claimRead_suspends (s : State) (p : Port) (c : ReadClaim) (l : Live) (pair : Nat) (step : EngineStep)
    (h : s.engineAlone step) (hlt : s.arb.suspCount < step.budget) (hl : c.loc ≠ step.loc) (hc : s.readable c l pair) :
    ∃ m, s.claimRead p c =
      { s with
        arb := ((s.arb.setWaiting p (some c)).suspending step m).granted (c.grant p l pair), free := s.free + 1 } := by
  obtain ⟨hu, -, -, hm, hs, -, -⟩ := h
  have ho : (s.arb.setWaiting p (some c)).waiting (otherPort p) = none := by
    rw [waiting_setWaiting_other]
    cases p <;> assumption
  exact grants_suspendFor false 11 { s with arb := s.arb.setWaiting p (some c) } step p c l pair hu hlt
    (waiting_setWaiting_same s.arb p (some c)) ho hl hc

/-- A READ waits when neither it nor one that waits already may suspend the step in progress. -/
theorem claimRead_waits_each (s : State) (p : Port) (c : ReadClaim) (step : EngineStep)
    (hu : s.arb.user = some (.engine step)) (hc : c.loc = step.loc ∨ step.budget ≤ s.arb.suspCount)
    (ho : ∀ r, s.arb.waiting (otherPort p) = some r → r.loc = step.loc ∨ step.budget ≤ s.arb.suspCount) :
    s.claimRead p c = { s with arb := s.arb.setWaiting p (some c) } := by
  refine claimRead_waits s p c step hu ?_
  by_cases hspent : step.budget ≤ s.arb.suspCount
  · exact Or.inl hspent
  · refine Or.inr fun q r hq => ?_
    rcases port_eq_or_other p q with rfl | rfl
    · rw [waiting_setWaiting_same] at hq
      cases hq
      exact hc.resolve_right hspent
    · rw [waiting_setWaiting_other] at hq
      exact (ho r hq).resolve_right hspent

/-- A READ that passes its checks during a step of the engine, a port's READ or a census read (R41, R43). -/
theorem read_during_step {s : State} {p : Port} {args : Bytes} {a : ReadArgs} {i pair : Nat} {l : Live} (h : s.takes p)
    (ha : readArgs args = some a) (hr : a.inRange = true) (hi : s.activeIndex a.key = some i)
    (hb : (s.entry i).body = .live l) (hp : (s.entry i).pair = some pair) (hlen : a.offset < l.length)
    (step : EngineStep) :
    let claim : ReadClaim := ⟨i, a.offset, a.count, Loc.num pair l.cell⟩
    let waits := exec (.read p args) s = .next { s.pend p with arb := s.arb.setWaiting p (some claim) }
    (s.engineAlone step → s.arb.suspCount < step.budget → claim.loc ≠ step.loc →
      ∃ t n, exec (.read p args) s = .next t ∧ t.arb.user = some (.port (claim.grant p l pair)) ∧
        t.arb.suspended = some ⟨step, n, [p]⟩ ∧ t.arb.suspCount = s.arb.suspCount + 1 ∧
        (t.port p).slot = .pending ∧ t.work = s.work) ∧
    (s.arb.user = some (.engine step) → claim.loc = step.loc ∨ step.budget ≤ s.arb.suspCount →
      (∀ c, s.arb.waiting (otherPort p) = some c → c.loc = step.loc ∨ step.budget ≤ s.arb.suspCount) → waits) ∧
    ∀ u, s.arb.user = some u → (∀ st, u ≠ .engine st) → waits := by
  intro claim waits
  obtain ⟨hx, hread⟩ := exec_read_claims h ha hr hi hb hp hlen
  refine ⟨fun halone hlt hl => ?_, fun hu hself hother => ?_, fun u hu hne => ?_⟩
  · obtain ⟨m, hm⟩ := claimRead_suspends (s.pend p) p claim l pair step halone hlt hl hread
    exact ⟨_, m, hx.trans (congrArg Host.Outcome.next hm), rfl, rfl, rfl, by cases p <;> rfl, rfl⟩
  · exact hx.trans (congrArg Host.Outcome.next (claimRead_waits_each (s.pend p) p claim step hu hself hother))
  · exact hx.trans (congrArg Host.Outcome.next (claimRead_waits_other (s.pend p) p claim u hu hne))

/-! ### The end of a READ in a suspension -/

/-- The end of a READ in a suspension: another READ is granted in it, or the step resumes, and may be suspended again. -/
theorem read_ends_in_suspension (s : State) (us : List Upset) (g : ReadGrant) (step : EngineStep) (n : Nat)
    (granted : List Port) (hg : s.arb.user = some (.port g)) (hs : s.arb.suspended = some ⟨step, n, granted⟩) :
    ∃ t, exec (.readComplete us) s = .next t ∧
      let resumes := t.arb.user = some (.engine step) ∧ t.arb.suspended = none ∧ t.arb.suspCount = s.arb.suspCount
      (s.arb.waitM = none → s.arb.waitS = none → resumes) ∧
      ∀ (q : Port) (c : ReadClaim), s.arb.waiting q = some c → s.arb.waiting (otherPort q) = none →
        (c.loc = step.loc ∨ q ∈ granted ∧ step.budget ≤ s.arb.suspCount → resumes ∧ t.arb.waiting q = some c) ∧
        ∀ l pair, s.readable c l pair → c.loc ≠ step.loc →
          (q ∉ granted → t.arb.user = some (.port (c.grant q l pair)) ∧
            t.arb.suspended = some ⟨step, n, q :: granted⟩ ∧ t.arb.suspCount = s.arb.suspCount) ∧
          (q ∈ granted → s.arb.suspCount < step.budget →
            t.arb.user = some (.port (c.grant q l pair)) ∧ (∃ n', t.arb.suspended = some ⟨step, n', [q]⟩) ∧
              t.arb.suspCount = s.arb.suspCount + 1) := by
  obtain ⟨u, hx, harb, -, hflags⟩ := readComplete_before s us g hg
  have hu : u.arb.user = none := by rw [harb]
  have hsusp : u.arb.suspended = some ⟨step, n, granted⟩ := by rw [harb]; exact hs
  have hcount : u.arb.suspCount = s.arb.suspCount := by rw [harb]
  have hwait : ∀ p, u.arb.waiting p = s.arb.waiting p := fun p => by rw [harb]; cases p <;> rfl
  have hres : (∀ p c, s.arb.waiting p = some c → p ∈ granted ∨ c.loc = step.loc) →
      (step.budget ≤ s.arb.suspCount ∨ ∀ p c, s.arb.waiting p = some c → c.loc = step.loc) →
      u.grant = { u with arb := { u.arb with suspended := none, user := some (.engine step) } } := fun hnext hno =>
    grants_resumes false 11 u _ hu hsusp (nextInSuspension_none _ _ fun p c hp => hnext p c (hwait p ▸ hp))
      (by simpa only [hcount, hwait] using hno)
  refine ⟨u.grant, hx, fun hm hp => ?_, fun q c hq ho => ⟨fun hno => ?_, fun l pair hread hl => ⟨fun hfirst => ?_,
    fun hagain hlt => ?_⟩⟩⟩
  · have hnone : ∀ p c, s.arb.waiting p = some c → c.loc = step.loc := fun p c h => by
      cases p
      · exact absurd (hm.symm.trans h) (by simp)
      · exact absurd (hp.symm.trans h) (by simp)
    rw [hres (fun p c h => Or.inr (hnone p c h)) (Or.inr hnone)]
    exact ⟨rfl, rfl, hcount⟩
  · have honly : ∀ p r, s.arb.waiting p = some r → p = q ∧ r = c := fun p r hp => by
      obtain ⟨rfl, h⟩ := waiting_only ho hp
      exact ⟨rfl, Option.some.inj (h.symm.trans hq)⟩
    rw [hres]
    · exact ⟨⟨rfl, rfl, hcount⟩, (by cases q <;> rfl : _ = u.arb.waiting q).trans ((hwait q).trans hq)⟩
    · intro p r hp
      obtain ⟨rfl, rfl⟩ := honly p r hp
      exact hno.symm.imp_left And.left
    · refine hno.symm.imp And.right fun hloc p r hp => ?_
      obtain ⟨rfl, rfl⟩ := honly p r hp
      exact hloc
  · obtain ⟨l', hread', hgrant⟩ := readable_of_flagsOnly hflags hread
    have hq' := (hwait q).trans hq
    have ho' := (hwait (otherPort q)).trans ho
    rw [State.grant, grantMoves, grants_suspended false 11 u _ q c l' pair hu hsusp
      (nextInSuspension_one _ _ q c hq' ho' hfirst hl) hq' hread', hgrant]
    exact ⟨rfl, congrArg (Option.map _) hsusp, hcount⟩
  · obtain ⟨l', hread', hgrant⟩ := readable_of_flagsOnly hflags hread
    obtain ⟨m, hm⟩ := grants_resuspends false 10 u _ q c l' pair hu hsusp hagain (by rw [hcount]; exact hlt)
      ((hwait q).trans hq) ((hwait (otherPort q)).trans ho) hl hread'
    rw [State.grant, grantMoves, hm, hgrant]
    exact ⟨rfl, ⟨m, rfl⟩, congrArg (· + 1) hcount⟩

/-! ### The end of an engine step (R42) -/

/-- The boundary that the end of an engine step leaves: it owes the READs and the census read that wait, when the engine
has a next step or other work. -/
def State.owed (s : State) : Option Boundary :=
  if s.arb.waitEngine.isSome || s.hasWork then some ⟨s.arb.waitingPorts, s.arb.waitCensus.isSome⟩ else s.arb.boundary

/-- The state with the step boundary given. -/
def State.withBoundary (s : State) (b : Option Boundary) : State := { s with arb := { s.arb with boundary := b } }

theorem waiting_withBoundary (s : State) (b : Option Boundary) (p : Port) :
    (s.withBoundary b).arb.waiting p = s.arb.waiting p := by
  cases p <;> rfl

/-- A step boundary notes what it owes, and the arbiter grants. -/
theorem stepBoundary_eq (s : State) : s.stepBoundary = (s.withBoundary s.owed).grant := by
  unfold State.stepBoundary State.owed
  split <;> rfl

/-- At a step boundary the first READ of those it owes is granted. -/
theorem grantBoundary_read (s : State) (b : Boundary) (p : Port) (c : ReadClaim)
    (hf : s.arb.waitingPorts.find? (fun q => b.ports.contains q) = some p) (hw : s.arb.waiting p = some c) :
    s.grantBoundary b = s.grantRead p c := by
  simp only [State.grantBoundary, hf, hw]

/-- At a step boundary that owes no READ the census read it owes is granted. -/
theorem grantBoundary_census (s : State) (b : Boundary) (claim : CensusClaim)
    (hf : s.arb.waitingPorts.find? (fun q => b.ports.contains q) = none) (hb : b.census = true)
    (hc : s.arb.waitCensus = some claim) :
    s.grantBoundary b = (s.withBoundary (some ⟨[], false⟩)).grantCensus claim := by
  simp only [State.grantBoundary, hf, hb, hc]
  rfl

/-- The end of an engine step grants the first waiting READ, and the boundary owes the others that wait. -/
theorem stepBoundary_read (s : State) (p : Port) (c : ReadClaim) (l : Live) (pair : Nat) (rest : List Port)
    (hu : s.arb.user = none) (hs : s.arb.suspended = none) (hb : s.arb.boundary = none)
    (hp : s.arb.waitingPorts = p :: rest) (hw : s.arb.waiting p = some c) (h : s.readable c l pair) :
    s.stepBoundary = { s with arb := (s.withBoundary s.owed).arb.granted (c.grant p l pair) } := by
  have hw' := (waiting_withBoundary s s.owed p).trans hw
  rw [stepBoundary_eq]
  by_cases howes : (s.arb.waitEngine.isSome || s.hasWork) = true
  · have ho : s.owed = some ⟨p :: rest, s.arb.waitCensus.isSome⟩ := by rw [State.owed, if_pos howes, hp]
    have hf : (s.withBoundary s.owed).arb.waitingPorts.find? (fun q => (p :: rest).contains q) = some p := by
      rw [show (s.withBoundary s.owed).arb.waitingPorts = p :: rest from hp]
      simp
    refine grants_one false 11 (s.withBoundary s.owed) _ hu ?_ rfl
    rw [arbiterMove_owed false (s.withBoundary s.owed) _ hu hs ho, grantBoundary_read _ _ p c hf hw']
    exact grantRead_readable (s.withBoundary s.owed) p c l pair h
  · have ho : s.owed = none := by rw [State.owed, if_neg howes, hb]
    exact grants_read false 11 (s.withBoundary s.owed) p c l pair rest hu hs ho hp hw' h

/-- The end of an engine step that no READ waits for grants the census read that waits; where the boundary owes anything,
it owes nothing else. -/
theorem stepBoundary_census (s : State) (claim : CensusClaim) (hu : s.arb.user = none) (hs : s.arb.suspended = none)
    (hb : s.arb.boundary = none) (hm : s.arb.waitM = none) (hp : s.arb.waitS = none)
    (hc : s.arb.waitCensus = some claim)
    (hreads : ∀ b, ((s.withBoundary b).grantCensus claim).arb.user.isSome = true) :
    ∃ b, ((s.arb.waitEngine.isSome || s.hasWork) = true → b = some ⟨[], false⟩) ∧
      s.stepBoundary = (s.withBoundary b).grantCensus claim := by
  have hports := waitingPorts_nil s.arb hm hp
  rw [stepBoundary_eq]
  by_cases howes : (s.arb.waitEngine.isSome || s.hasWork) = true
  · have ho : s.owed = some ⟨[], true⟩ := by rw [State.owed, if_pos howes, hports, hc]; rfl
    have hf : (s.withBoundary s.owed).arb.waitingPorts.find? (fun q => ([] : List Port).contains q) = none := by
      rw [show (s.withBoundary s.owed).arb.waitingPorts = [] from hports]
      rfl
    refine ⟨some ⟨[], false⟩, fun _ => rfl, grants_one false 11 (s.withBoundary s.owed) _ hu ?_ (hreads _)⟩
    rw [arbiterMove_owed false (s.withBoundary s.owed) _ hu hs ho]
    exact grantBoundary_census (s.withBoundary s.owed) _ claim hf rfl hc
  · have ho : s.owed = none := by rw [State.owed, if_neg howes, hb]
    have hengine : s.arb.waitEngine = none := Option.not_isSome_iff_eq_none.1 fun h => howes (by rw [h]; rfl)
    refine ⟨s.owed, fun h => absurd h howes, grants_one false 11 (s.withBoundary s.owed) _ hu ?_ (hreads _)⟩
    rw [arbiterMove_free false (s.withBoundary s.owed) hu hs ho]
    exact grantFree_census false (s.withBoundary s.owed) claim hm hp hc hengine

/-- A census that is told of a change goes on at the entry it had. -/
theorem census_told {s u : State} (h : u.census = s.census ∨ ∃ c, u.census = (s.tellCensus c).census) {r : CensusRun}
    (hr : s.census = some r) : ∃ r', u.census = some r' ∧ r'.current = r.current := by
  rcases h with h | ⟨c, h⟩
  · exact ⟨r, h.trans hr, rfl⟩
  · refine ⟨_, h.trans (by rw [State.tellCensus, hr]; rfl), ?_⟩
    dsimp only
    split <;> rfl

/-- Of the ports whose READs wait, those left when the first has been granted. -/
theorem filter_others (p : Port) (alone : Prop) [Decidable alone] :
    (p :: (if alone then [] else [otherPort p])).filter (fun q => q != p) = if alone then [] else [otherPort p] := by
  split <;> cases p <;> rfl

/-- The end of an engine step, with READs or a census read waiting (R42). -/
theorem step_ends (s : State) (us : List Upset) (step : EngineStep) (hstep : s.arb.user = some (.engine step))
    (hs : s.arb.suspended = none) (hb : s.arb.boundary = none) (hd : s.restartDeferred = false) :
    ∃ t, exec (stepEnd step us) s = .next t ∧
      let owes := fun (b : Boundary) => t.arb.waitEngine.isSome = true ∨ t.hasWork = true → t.arb.boundary = some b
      (∀ p c l pair, s.arb.waiting p = some c → (s.arb.waiting (otherPort p) = none ∨ s.arb.lastPort ≠ p) →
        t.readable c l pair →
          t.arb.user = some (.port (c.grant p l pair)) ∧ t.arb.lastPort = p ∧
            t.arb.waiting (otherPort p) = s.arb.waiting (otherPort p) ∧ t.arb.waitCensus = s.arb.waitCensus ∧
            owes ⟨if s.arb.waiting (otherPort p) = none then [] else [otherPort p], s.arb.waitCensus.isSome⟩) ∧
      (s.arb.waitM = none → s.arb.waitS = none → ∀ r, s.census = some r →
        (∀ g e, s.arb.waitCensus = some (.data g) → r.current = some e →
          t.arb.user = some (.census e.loc g e.entry true) ∧ owes ⟨[], false⟩) ∧
        ∀ i l pair m, s.arb.waitCensus = some (.header i) → t.entry i = ⟨.live l, some pair, m⟩ →
          t.arb.user = some (.census (Loc.num pair l.cell) 0 i true) ∧ owes ⟨[], false⟩) := by
  obtain ⟨u, hx, ⟨en, harb⟩, hcensus⟩ := stepEnd_advances s step us hstep hd
  have hu : u.arb.user = none := by rw [harb]
  have hsusp : u.arb.suspended = none := by rw [harb]; exact hs
  have hbound : u.arb.boundary = none := by rw [harb]; exact hb
  have hwait : ∀ p, u.arb.waiting p = s.arb.waiting p := fun p => by rw [harb]; cases p <;> rfl
  have hlast : u.arb.lastPort = s.arb.lastPort := by rw [harb]
  have hcens : u.arb.waitCensus = s.arb.waitCensus := by rw [harb]
  have hentries : u.stepBoundary.entries = u.entries := (arbiterOnly_stepBoundary u).entries
  refine ⟨u.stepBoundary, hx, fun p c l pair hp hfirst hread => ?_, fun hm hp r hr => ?_⟩
  · have hread' : u.readable c l pair := by simpa only [State.readable, entry_congr hentries] using hread
    have hports := waitingPorts_first u.arb p c ((hwait p).trans hp) (by rw [hwait, hlast]; exact hfirst)
    rw [stepBoundary_read u p c l pair _ hu hsusp hbound hports ((hwait p).trans hp) hread']
    refine ⟨rfl, rfl, ?_, hcens, fun howes => ?_⟩
    · exact (waiting_setWaiting_other u.arb p none).trans (hwait _)
    · have howed : u.owed = some ⟨u.arb.waitingPorts, u.arb.waitCensus.isSome⟩ := if_pos (Bool.or_eq_true_iff.2 howes)
      show u.owed.map _ = _
      rw [howed, hports, hwait, hcens]
      exact congrArg (fun ps => some (⟨ps, s.arb.waitCensus.isSome⟩ : Boundary)) (filter_others p _)
  · obtain ⟨r', hr', hcur⟩ := census_told hcensus hr
    have hm' := (hwait .m).trans hm
    have hp' := (hwait .s).trans hp
    refine ⟨fun g e hg he => ?_, fun i l pair m hi he => ?_⟩
    · have hgrant := fun b => grantCensus_data (u.withBoundary b) r' g e hr' (hcur.trans he)
      obtain ⟨b, howes, hb⟩ := stepBoundary_census u _ hu hsusp hbound hm' hp' (hcens.trans hg)
        (fun b => by rw [hgrant b]; rfl)
      rw [hb, hgrant b]
      exact ⟨rfl, fun h => howes (Bool.or_eq_true_iff.2 h)⟩
    · have hgrant := fun b => grantCensus_header (u.withBoundary b) r' i l pair m hr'
        ((entry_congr hentries i).symm.trans he)
      obtain ⟨b, howes, hb⟩ := stepBoundary_census u _ hu hsusp hbound hm' hp' (hcens.trans hi)
        (fun b => by rw [hgrant b]; rfl)
      rw [hb, hgrant b]
      exact ⟨rfl, fun h => howes (Bool.or_eq_true_iff.2 h)⟩

/-! ### The end of a READ at a step boundary (R42) -/

/-- The engine's step holds the array, not suspended yet, and no boundary is owed. -/
def State.engineGranted (s : State) (step : EngineStep) : State :=
  { s with arb := { s.arb with waitEngine := none, user := some (.engine step), suspCount := 0, boundary := none } }

theorem grantEngine_eq (s : State) (step : EngineStep) : s.grantEngine step = (s.engineGranted step).suspendFor := rfl

theorem waiting_engineGranted (s : State) (step : EngineStep) (p : Port) :
    (s.engineGranted step).arb.waiting p = s.arb.waiting p := by
  cases p <;> rfl

/-- A boundary that owes no port whose READ waits has no READ to grant. -/
theorem find_owed_none (a : Arbiter) (b : Boundary) (h : ∀ p c, a.waiting p = some c → p ∉ b.ports) :
    a.waitingPorts.find? (fun p => b.ports.contains p) = none := by
  rw [List.find?_eq_none]
  intro p hp
  obtain ⟨c, hc⟩ := Option.isSome_iff_exists.1 ((mem_waitingPorts a p).1 hp)
  simpa using h p c hc

/-- At a boundary that owes no READ and no census read the engine's next step is granted. -/
theorem arbiterMove_owed_engine (e : Bool) (s : State) (b : Boundary) (step : EngineStep) (hu : s.arb.user = none)
    (hs : s.arb.suspended = none) (hb : s.arb.boundary = some b)
    (hp : ∀ p c, s.arb.waiting p = some c → p ∉ b.ports) (hc : b.census = false ∨ s.arb.waitCensus = none)
    (he : s.arb.waitEngine = some step) : s.arbiterMove e = (s.engineGranted step).suspendFor := by
  rw [arbiterMove_owed e s b hu hs hb, grantBoundary_engine s b step (find_owed_none _ _ hp) hc he]
  rfl

/-- An engine step that is granted holds the array when no READ that waits may suspend it. -/
theorem suspendFor_engineGranted (s : State) (step : EngineStep)
    (h : ∀ p c, s.arb.waiting p = some c → c.loc = step.loc ∨ step.budget = 0) :
    (s.engineGranted step).suspendFor = s.engineGranted step := by
  refine suspendFor_not _ step rfl ?_
  by_cases h0 : step.budget = 0
  · exact Or.inl (Nat.le_of_eq h0)
  · exact Or.inr fun p c hp => (h p c ((waiting_engineGranted s step p).symm.trans hp)).resolve_right h0

/-- The end of a READ at a step boundary: the other port's READ that the boundary owes, then the census read, then the
engine's next step, which a READ that came later may suspend. -/
theorem read_ends_at_boundary (s : State) (us : List Upset) (g : ReadGrant) (b : Boundary)
    (hg : s.arb.user = some (.port g)) (hs : s.arb.suspended = none) (hb : s.arb.boundary = some b)
    (hnone : s.arb.waiting g.port = none) :
    ∃ t, exec (.readComplete us) s = .next t ∧
      let q := otherPort g.port
      (∀ c l pair, s.arb.waiting q = some c → q ∈ b.ports → s.readable c l pair →
        t.arb.user = some (.port (c.grant q l pair)) ∧
          t.arb.boundary = some ⟨b.ports.filter (fun x => x != q), b.census⟩ ∧ t.arb.waitEngine = s.arb.waitEngine) ∧
      (s.arb.waiting q = none ∨ q ∉ b.ports →
        (∀ r e k, b.census = true → s.arb.waitCensus = some (.data k) → s.census = some r → r.current = some e →
          t.arb.user = some (.census e.loc k e.entry true) ∧ t.arb.boundary = some ⟨[], false⟩ ∧
            t.arb.waiting q = s.arb.waiting q ∧ t.arb.waitEngine = s.arb.waitEngine) ∧
        (b.census = false ∨ s.arb.waitCensus = none → ∀ step, s.arb.waitEngine = some step →
          ((∀ c, s.arb.waiting q = some c → c.loc = step.loc ∨ step.budget = 0) →
            t.arb.user = some (.engine step) ∧ t.arb.suspCount = 0 ∧ t.arb.boundary = none ∧
              t.arb.waitEngine = none ∧ t.arb.waiting q = s.arb.waiting q) ∧
          ∀ c l pair, s.arb.waiting q = some c → c.loc ≠ step.loc → 0 < step.budget → s.readable c l pair →
            t.arb.user = some (.port (c.grant q l pair)) ∧ (∃ n, t.arb.suspended = some ⟨step, n, [q]⟩) ∧
              t.arb.suspCount = 1)) := by
  obtain ⟨u, hx, harb, hcensus, hflags⟩ := readComplete_before s us g hg
  have hu : u.arb.user = none := by rw [harb]
  have hsusp : u.arb.suspended = none := by rw [harb]; exact hs
  have hbound : u.arb.boundary = some b := by rw [harb]; exact hb
  have hcens : u.arb.waitCensus = s.arb.waitCensus := by rw [harb]
  have hengine : u.arb.waitEngine = s.arb.waitEngine := by rw [harb]
  have hwait : ∀ p, u.arb.waiting p = s.arb.waiting p := fun p => by rw [harb]; cases p <;> rfl
  have honly : ∀ p c, u.arb.waiting p = some c → p = otherPort g.port ∧ s.arb.waiting (otherPort g.port) = some c := by
    intro p c hp
    rw [hwait] at hp
    rcases port_eq_or_other g.port p with rfl | rfl
    · exact absurd (hnone.symm.trans hp) (by simp)
    · exact ⟨rfl, hp⟩
  have hself : ∀ p, otherPort (otherPort p) = p := fun p => by cases p <;> rfl
  refine ⟨u.grant, hx, ?_⟩
  intro q
  have ho : u.arb.waiting (otherPort q) = none := by rw [hself, hwait]; exact hnone
  refine ⟨fun c l pair hq hmem hread => ?_, fun hnot => ?_⟩
  · obtain ⟨l', hread', hgrant⟩ := readable_of_flagsOnly hflags hread
    have hq' := (hwait q).trans hq
    have hf : u.arb.waitingPorts.find? (fun p => b.ports.contains p) = some q := by
      rw [waitingPorts_one u.arb q c hq' ho]
      simp [hmem]
    rw [State.grant, grantMoves, grants_one false 11 u _ hu ((arbiterMove_owed false u b hu hsusp hbound).trans
      ((grantBoundary_read u b q c hf hq').trans (grantRead_readable u q c l' pair hread'))) rfl, hgrant]
    exact ⟨rfl, congrArg (Option.map _) hbound, hengine⟩
  · have hports : ∀ p c, u.arb.waiting p = some c → p ∉ b.ports := fun p c hp => by
      obtain ⟨rfl, hq⟩ := honly p c hp
      exact hnot.resolve_left (by rw [hq]; simp)
    refine ⟨fun r e k hb' hk hr he => ?_, fun hc step hstep => ⟨fun hstays => ?_, fun c l pair hq hl hpos hread => ?_⟩⟩
    · have hmove : u.arbiterMove false = (u.withBoundary (some ⟨[], false⟩)).grantCensus (.data k) :=
        (arbiterMove_owed false u b hu hsusp hbound).trans
          (grantBoundary_census u b _ (find_owed_none _ _ hports) hb' (hcens.trans hk))
      rw [grantCensus_data (u.withBoundary (some ⟨[], false⟩)) r k e (hcensus.trans hr) he] at hmove
      rw [State.grant, grantMoves, grants_one false 11 u _ hu hmove rfl]
      exact ⟨rfl, rfl, (waiting_withBoundary u (some ⟨[], false⟩) q).trans (hwait q), hengine⟩
    · have hmove := arbiterMove_owed_engine false u b step hu hsusp hbound hports (by rw [hcens]; exact hc)
        (hengine.trans hstep)
      rw [suspendFor_engineGranted u step fun p c hp => hstays c (honly p c hp).2] at hmove
      rw [State.grant, grantMoves, grants_one false 11 u _ hu hmove rfl]
      exact ⟨rfl, rfl, rfl, rfl, (waiting_engineGranted u step q).trans (hwait q)⟩
    · obtain ⟨l', hread', hgrant⟩ := readable_of_flagsOnly hflags hread
      obtain ⟨m, hm⟩ := grants_suspendFor false 10 (u.engineGranted step) step q c l' pair rfl hpos
        ((waiting_engineGranted u step q).trans ((hwait q).trans hq)) ((waiting_engineGranted u step _).trans ho) hl hread'
      rw [State.grant, grantMoves, grants_succ false 11 u hu, arbiterMove_owed_engine false u b step hu hsusp hbound hports
        (by rw [hcens]; exact hc) (hengine.trans hstep), hm, hgrant]
      exact ⟨rfl, ⟨m, by simp [Arbiter.granted, Arbiter.suspending, ReadClaim.grant]⟩, rfl⟩

/-! ### The end of a census read (R41) -/

/-- At the end of a census read an engine step that waits is granted first, whatever the census claims next. -/
theorem grantFree_engineFirst (s : State) (step : EngineStep) (hm : s.arb.waitM = none) (hp : s.arb.waitS = none)
    (he : s.arb.waitEngine = some step) : s.grantFree true = s.grantEngine step := by
  unfold State.grantFree
  rw [waitingPorts_nil s.arb hm hp, he]
  cases s.arb.waitCensus <;> rfl

/-- The end of a census read with an engine step waiting, and no READ. -/
theorem census_read_ends (s : State) (us : List Upset) (loc : Loc) (g e : Nat) (counts : Bool) (step : EngineStep)
    (hu : s.arb.user = some (.census loc g e counts)) (hs : s.arb.suspended = none)
    (hb : s.arb.boundary = none ∨ s.arb.boundary = some ⟨[], false⟩) (hm : s.arb.waitM = none)
    (hp : s.arb.waitS = none) (he : s.arb.waitEngine = some step) :
    ∃ t, exec (.censusReadEnd us) s = .next t ∧ t.arb.user = some (.engine step) ∧ t.arb.suspCount = 0 ∧
      t.arb.boundary = none ∧ t.arb.waitEngine = none := by
  obtain ⟨u, hx, w, harb⟩ := censusReadEnd_before s us loc g e counts hu
  have hu' : u.arb.user = none := by rw [harb]
  have hs' : u.arb.suspended = none := by rw [harb]; exact hs
  have hm' : u.arb.waitM = none := by rw [harb]; exact hm
  have hp' : u.arb.waitS = none := by rw [harb]; exact hp
  have he' : u.arb.waitEngine = some step := by rw [harb]; exact he
  have hb' : u.arb.boundary = none ∨ u.arb.boundary = some ⟨[], false⟩ := by rw [harb]; exact hb
  have hnobody : ∀ p c, u.arb.waiting p ≠ some c := fun p c => by cases p <;> simp [Arbiter.waiting, hm', hp']
  have hmove : u.arbiterMove true = (u.engineGranted step).suspendFor := by
    rcases hb' with hb' | hb'
    · rw [arbiterMove_free true u hu' hs' hb', grantFree_engineFirst u step hm' hp' he', grantEngine_eq]
    · exact arbiterMove_owed_engine true u _ step hu' hs' hb' (fun p c h => absurd h (hnobody p c)) (Or.inl rfl) he'
  rw [suspendFor_engineGranted u step fun p c h => absurd h (hnobody p c)] at hmove
  refine ⟨_, hx, ?_⟩
  rw [State.grantAfterCensus, grantMoves, grants_one true 11 u _ hu' hmove rfl]
  exact ⟨rfl, rfl, rfl, rfl⟩

/-! ### The statement -/

/-- Settles O18, clause by clause: a READ that arrives during a step, the end of a READ in a suspension, the end of an
engine step, the end of a READ at a step boundary, and the end of a census read. -/
theorem readSuspendsErase : Obligations.ReadSuspendsErase := by
  unfold Obligations.ReadSuspendsErase
  intro budget holds readable
  have hbudget : budget = EngineStep.budget := funext fun step => by cases step <;> rfl
  clear_value budget
  subst hbudget
  refine ⟨fun s p args a i pair l step h ha hk ho h1 h2 hi hb hp hlen =>
      read_during_step h ha ((inRange_iff a).2 ⟨hk, ho, h1, h2⟩) hi hb hp hlen step,
    fun s us g step n granted hg hs _ => read_ends_in_suspension s us g step n granted hg hs,
    fun s us step hu hs hb _ hd => step_ends s us step hu hs hb hd,
    fun s us g b hg hs hb hnone => read_ends_at_boundary s us g b hg hs hb hnone,
    fun s us loc g e counts step hu hs hb hm hp _ he => census_read_ends s us loc g e counts step hu hs hb hm hp he⟩

end Sys2Proof.Machine
end

section
/-! The PATCH job (4.2, Figure 4-1): what it makes of the granules it reads, how it completes, and where the end of each
of its array steps takes it. -/

namespace Sys2Proof.Machine

/-! ### The granules of a PATCH (R82, R83) -/

/-- A patched granule holds the patch bytes at their positions and its own bytes elsewhere. -/
theorem byteAt_patchedGranule (cur : Data) (g offset pos : Nat) (data : Bytes) (h : pos < 32) :
    byteAt (patchedGranule cur g offset data) pos =
      if offset ≤ 32 * (g - 1) + pos ∧ 32 * (g - 1) + pos < offset + data.length then
        data.getD (32 * (g - 1) + pos - offset) 0
      else byteAt cur pos := by
  rw [patchedGranule, byteAt_dataOfBytes _ _ h, List.getD_eq_getElem?_getD, List.getElem?_map, List.getElem?_range h]
  simp only [Option.map_some, Option.getD_some]
  generalize 32 * (g - 1) + pos = x
  by_cases ho : offset ≤ x
  · rw [if_pos ho, List.getD_eq_getElem?_getD, List.getD_eq_getElem?_getD]
    by_cases hl : x < offset + data.length
    · have hx : x - offset < data.length := by omega
      rw [if_pos ⟨ho, hl⟩, List.getElem?_eq_getElem hx, Option.getD_some, Option.getD_some]
    · have hx : data.length ≤ x - offset := by omega
      rw [if_neg fun h => hl h.2, List.getElem?_eq_none hx, Option.getD_none]
  · rw [if_neg ho, if_neg fun h => ho h.1]

/-- Before the last target granule the next one follows. -/
theorem find?_targets_next (w : PatchJob) (g : Nat) (h : granuleOf w.offset ≤ g)
    (hl : g < granuleOf (w.offset + w.data.length - 1)) :
    w.targets.find? (fun k => decide (g < k)) = some (g + 1) := by
  rw [PatchJob.targets, granulesFor, granuleSpan, List.find?_range'_eq_some]
  refine ⟨by simp, ?_, fun k _ hk => ?_⟩
  · rw [List.mem_range'_1]
    omega
  · simpa using Nat.le_of_lt_succ hk

/-- After the last target granule none follows. -/
theorem find?_targets_last (w : PatchJob) (g : Nat) (hl : granuleOf (w.offset + w.data.length - 1) ≤ g) :
    w.targets.find? (fun k => decide (g < k)) = none := by
  rw [PatchJob.targets, granulesFor, granuleSpan, List.find?_eq_none]
  intro k hk
  rw [List.mem_range'_1] at hk
  simp only [decide_eq_true_eq, Nat.not_lt]
  omega

/-- The clear-only check passes when no granule takes a 1 where it has a 0. -/
theorem all_clearOnly_iff (w : PatchJob) :
    w.reads.all w.clearOnly = true ↔ ∀ x, x ∈ w.reads → w.newContent x &&& ~~~x.2.2 = 0 := by
  simp [PatchJob.clearOnly]

theorem readsErased_eq (r : Outcome × Data) : readsErased r = decide (r = erasedRead) := by
  rw [Bool.eq_iff_iff, readsErased_iff, decide_eq_true_iff]

/-- The changed granules, in the words of the statement. -/
theorem changes_eq (w : PatchJob) :
    w.changes = (w.reads.filter (fun x => decide (w.newContent x ≠ x.2.2))).map
      (fun x => ⟨x.1, w.newContent x, decide (x.2 = erasedRead)⟩) := by
  have hbne : ∀ x : Nat × Outcome × Data, (w.newContent x != x.2.2) = decide (w.newContent x ≠ x.2.2) := fun x => by
    rw [Bool.eq_iff_iff, bne_iff_ne, decide_eq_true_iff]
  simp only [PatchJob.changes, hbne, readsErased_eq]

/-- The patch-map bit of a data granule. -/
theorem getLsbD_patchBit (g b : Nat) (h : 1 ≤ g) (h7 : g ≤ 7) : (1#7 <<< (g - 1)).getLsbD b = true ↔ g = b + 1 := by
  rw [BitVec.getLsbD_shiftLeft, BitVec.getLsbD_one]
  simp only [Bool.and_eq_true, Bool.not_eq_true', decide_eq_true_eq, decide_eq_false_iff_not]
  omega

/-- The patch-map bits gathered from the granules that pass a test. -/
theorem getLsbD_foldl_patchBits (test : Nat × Outcome × Data → Bool) (reads : List (Nat × Outcome × Data)) (m : BitVec 7)
    (h : ∀ x, x ∈ reads → 1 ≤ x.1 ∧ x.1 ≤ 7) (b : Nat) :
    (reads.foldl (fun m r => if test r then m ||| (1#7 <<< (r.1 - 1)) else m) m).getLsbD b = true ↔
      m.getLsbD b = true ∨ ∃ x, x ∈ reads ∧ x.1 = b + 1 ∧ test x = true := by
  induction reads generalizing m with
  | nil => simp
  | cons r reads ih =>
    obtain ⟨h1, h7⟩ := h r (by simp)
    rw [List.foldl_cons, ih _ fun x hx => h x (by simp [hx])]
    by_cases ht : test r = true
    · rw [if_pos ht, BitVec.getLsbD_or, Bool.or_eq_true, getLsbD_patchBit r.1 b h1 h7]
      simp [ht, or_assoc]
    · simp [ht]

/-- A patch-map bit is to be programmed when its granule is changed, held programmed data and did not read UNGUARDED. -/
theorem getLsbD_newMarks (w : PatchJob) (h : ∀ x, x ∈ w.reads → 1 ≤ x.1 ∧ x.1 ≤ 7) (b : Nat) :
    w.newMarks.getLsbD b = true ↔
      ∃ x, x ∈ w.reads ∧ x.1 = b + 1 ∧ w.newContent x ≠ x.2.2 ∧ x.2 ≠ erasedRead ∧ x.2.1 ≠ .unguarded := by
  rw [PatchJob.newMarks, getLsbD_foldl_patchBits _ _ _ h]
  simp [readsErased_eq, and_assoc]

/-! ### How a PATCH completes (R88) -/

/-- What a completion writes into the entry's flags, before the job leaves the queue. -/
def State.patchFlags (s : State) (w : PatchJob) (r : JobResult) : State :=
  let s := s.modLive w.entry (fun l => { l with guardMap := l.guardMap ||| w.marked })
  if r = .damaged then s.setDamaged w.entry else s

theorem patchDone_eq (s : State) (j : Job) (w : PatchJob) (r : JobResult) :
    s.patchDone j w r =
      if w.programmed then ((s.patchFlags w r).completeJob j r none false).tellCensus ((s.patchFlags w r).classOf w.entry)
      else (s.patchFlags w r).completeJob j r none false := rfl

/-- The completion of a job that is no COMMIT and names an entry: the result enters the list, the jobs count falls. -/
theorem completeJob_of_entry (s : State) (j : Job) (r : JobResult) (g : Option Gen) (x : Bool) (i : Nat)
    (hi : j.body.entry? = some i) (hb : j.body.buffer? = none) (hc : j.body.isCommit = false) :
    s.completeJob j r g x =
      ({ s with queue := s.queue.drop 1, work := .idle }.pushResult j.port (j.record r g x)).lowerJobs i := by
  simp only [State.completeJob, State.emptyBufferOf, hb, State.lowerJobsOf, State.freeNascent, hi, hc]
  split <;> simp

theorem completeJob_of_patch (s : State) (j : Job) (r : JobResult) (i : Nat) {k : Key} {off : Nat} {d : Bytes} {gen : Gen}
    (hb : j.body = .patch i k off d gen) :
    s.completeJob j r none false =
      ({ s with queue := s.queue.drop 1, work := .idle }.pushResult j.port (j.record r none false)).lowerJobs i :=
  completeJob_of_entry s j r none false i (by rw [hb]; rfl) (by rw [hb]; rfl) (by rw [hb]; rfl)

/-- The flags touch the directory and the refresh list alone. -/
theorem patchFlags_touches (s : State) (w : PatchJob) (r : JobResult) :
    ∃ es rl, s.patchFlags w r = { s with entries := es, refresh := rl } := by
  unfold State.patchFlags
  split <;> exact ⟨_, _, rfl⟩

theorem patchFlags_entry_other (s : State) (w : PatchJob) (r : JobResult) (i : Nat) (h : i ≠ w.entry) :
    (s.patchFlags w r).entry i = s.entry i := by
  unfold State.patchFlags
  split
  · rw [State.setDamaged, unlist_entry_other _ _ _ h]
    exact (entry_setEntry_other _ _ _ _ h).trans (entry_setEntry_other _ _ _ _ h)
  · exact entry_setEntry_other _ _ _ _ h

theorem patchFlags_entry_same (s : State) (w : PatchJob) (r : JobResult) {l : Live} {p : Option Nat} {n : Nat}
    (h : s.entry w.entry = ⟨.live l, p, n⟩) :
    (s.patchFlags w r).entry w.entry =
      ⟨.live { l with
        guardMap := l.guardMap ||| w.marked
        damaged := l.damaged || decide (r = .damaged)
        refreshWanted := l.refreshWanted && decide (r ≠ .damaged) }, p, n⟩ := by
  unfold State.patchFlags
  split
  · next hr => simp [State.setDamaged, unlist_entry_same, State.modLive, h, Entry.mapLive, hr]
  · next hr => simp [State.modLive, h, Entry.mapLive, hr]

/-- DAMAGED takes the entry off the refresh list (log entry 31); any other result leaves the list. -/
theorem patchFlags_refresh (s : State) (w : PatchJob) (r : JobResult) :
    (r = .damaged → w.entry ∉ (s.patchFlags w r).refresh.list) ∧
      (r ≠ .damaged → (s.patchFlags w r).refresh = s.refresh) := by
  refine ⟨fun hr => ?_, fun hr => ?_⟩
  · rw [State.patchFlags, if_pos hr]
    exact not_mem_unlist _ _
  · rw [State.patchFlags, if_neg hr]
    rfl

/-- A completion touches, beside the queue, the work and the port's results, the directory, the refresh list and the
census alone. -/
theorem patchDone_touches (s : State) (j : Job) (w : PatchJob) (r : JobResult) {k : Key} {off : Nat} {d : Bytes} {gen : Gen}
    (hb : j.body = .patch w.entry k off d gen) :
    ∃ es rl cn, s.patchDone j w r =
      { ({ s with queue := s.queue.drop 1, work := .idle }.pushResult j.port (j.record r none false)) with
        entries := es, refresh := rl, census := cn } := by
  obtain ⟨es, rl, hf⟩ := patchFlags_touches s w r
  rw [patchDone_eq, completeJob_of_patch _ _ _ _ hb, hf]
  split <;> exact ⟨_, _, _, rfl⟩

/-- A completion is that of the job at the head of the queue (R62, R71). -/
theorem jobCompleted_patchDone (s : State) (j : Job) (rest : List Job) (w : PatchJob) (r : JobResult)
    (hq : s.queue = j :: rest) : jobCompleted s (s.patchDone j w r) j rest r none false := by
  obtain ⟨es, rl, hf⟩ := patchFlags_touches s w r
  have h := completeJob_facts (s.patchFlags w r) j rest r none false (by rw [hf]; exact hq)
  rw [patchDone_eq]
  split <;> rw [hf] at h ⊢ <;> exact h

/-- A completion sets and clears no event flag. -/
theorem patchDone_flags (s : State) (j : Job) (w : PatchJob) (r : JobResult) {k : Key} {off : Nat} {d : Bytes} {gen : Gen}
    (hb : j.body = .patch w.entry k off d gen) (q : Port) :
    ((s.patchDone j w r).port q).flags = (s.port q).flags := by
  obtain ⟨es, rl, cn, h⟩ := patchDone_touches s j w r hb
  rw [h]
  cases q <;> cases hp : j.port <;> simp [State.port, State.pushResult]

/-- The directory after a completion is that of the flags with the jobs count lowered (R12); the refresh list is theirs. -/
theorem patchDone_entries (s : State) (j : Job) (w : PatchJob) (r : JobResult) {k : Key} {off : Nat} {d : Bytes} {gen : Gen}
    (hb : j.body = .patch w.entry k off d gen) :
    (s.patchDone j w r).entries = ((s.patchFlags w r).lowerJobs w.entry).entries ∧
      (s.patchDone j w r).refresh = (s.patchFlags w r).refresh := by
  rw [patchDone_eq, completeJob_of_patch _ _ _ _ hb]
  split <;> exact ⟨rfl, rfl⟩

theorem patchDone_entry_other (s : State) (j : Job) (w : PatchJob) (r : JobResult) {k : Key} {off : Nat} {d : Bytes}
    {gen : Gen} (hb : j.body = .patch w.entry k off d gen) (i : Nat) (h : i ≠ w.entry) :
    (s.patchDone j w r).entry i = s.entry i := by
  rw [entry_congr (patchDone_entries s j w r hb).1, State.lowerJobs, entry_setEntry_other _ _ _ _ h,
    patchFlags_entry_other _ _ _ _ h]

theorem patchDone_entry_same (s : State) (j : Job) (w : PatchJob) (r : JobResult) {k : Key} {off : Nat} {d : Bytes}
    {gen : Gen} (hb : j.body = .patch w.entry k off d gen) {l : Live} {p : Option Nat} {n : Nat}
    (h : s.entry w.entry = ⟨.live l, p, n⟩) :
    (s.patchDone j w r).entry w.entry =
      ⟨.live { l with
        guardMap := l.guardMap ||| w.marked
        damaged := l.damaged || decide (r = .damaged)
        refreshWanted := l.refreshWanted && decide (r ≠ .damaged) }, p, n - 1⟩ := by
  rw [entry_congr (patchDone_entries s j w r hb).1, State.lowerJobs, entry_setEntry_same, patchFlags_entry_same s w r h]

/-- A completion tells the census of the entry's class when the job made a program step, and else leaves the census. -/
theorem patchDone_census (s : State) (j : Job) (w : PatchJob) (r : JobResult) {l : Live} {p : Option Nat} {n : Nat}
    (h : s.entry w.entry = ⟨.live l, p, n⟩) :
    (s.patchDone j w r).census = if w.programmed then (s.tellCensus l.cls).census else s.census := by
  have hcls : (s.patchFlags w r).classOf w.entry = l.cls := by
    simp only [State.classOf, patchFlags_entry_same s w r h]
    rfl
  have hcensus : ((s.patchFlags w r).completeJob j r none false).census = s.census := by
    obtain ⟨es, rl, hf⟩ := patchFlags_touches s w r
    exact (completeJob_arb_census _ _ _ _ _).2.trans (by rw [hf])
  rw [patchDone_eq, hcls]
  split
  · simp only [State.tellCensus, hcensus]
  · exact hcensus

/-! ### A PATCH that runs, and what the end of an array step leaves of it -/

/-- The PATCH `j` of the LIVE entry `i` is at the head of the queue. -/
structure PatchRuns (s : State) (j : Job) (rest : List Job) (i : Nat) (l : Live) (p : Option Nat) (n : Nat) : Prop where
  head : s.queue = j :: rest
  body : ∃ k off d gen, j.body = .patch i k off d gen
  entry : s.entry i = ⟨.live l, p, n⟩

/-- What the end of an array step on a cell of entry `i` leaves: it writes the array, and its report the flags of the
entry and the event flags. -/
structure StepLeaves (s after : State) (i : Nat) : Prop where
  arb : after.arb = s.arb
  work : after.work = s.work
  queue : after.queue = s.queue
  bad : after.bad = s.bad
  pool : after.pool = s.pool
  census : after.census = s.census
  results : ∀ q, (after.port q).results = (s.port q).results
  outstanding : ∀ q, (after.port q).outstanding = (s.port q).outstanding
  others : ∀ k, k ≠ i → after.entry k = s.entry k
  flags : FlagsOnly (s.entry i) (after.entry i)

/-- The LIVE entry stays LIVE, in its class. -/
theorem StepLeaves.live {s after : State} {i : Nat} (h : StepLeaves s after i) {l : Live} {p : Option Nat} {n : Nat}
    (he : s.entry i = ⟨.live l, p, n⟩) : ∃ l', after.entry i = ⟨.live l', p, n⟩ ∧ l'.cls = l.cls := by
  obtain ⟨d, w, h⟩ := h.flags.live he
  exact ⟨_, h, rfl⟩

theorem stepLeaves_of_arrayOnly {s t : State} (h : ArrayOnly s t) (i : Nat) : StepLeaves s t i := by
  obtain ⟨g, m, f, rfl⟩ := h
  exact ⟨rfl, rfl, rfl, rfl, rfl, rfl, fun q => by cases q <;> rfl, fun q => by cases q <;> rfl, fun _ _ => rfl,
    FlagsOnly.refl _⟩

theorem stepLeaves_markEnded (s : State) (l : Loc) (m : BitVec 12) (us : List Upset) (i : Nat) :
    StepLeaves s (s.markEnded l m us) i := by
  obtain ⟨g, k, h⟩ := markEnded_touches s l m us
  exact stepLeaves_of_arrayOnly ⟨g, k, s.free, h⟩ i

theorem stepLeaves_programEnded (s : State) (l : Loc) (g : Nat) (d : Data) (us : List Upset) (i : Nat) :
    StepLeaves s (s.programEnded l g d us) i :=
  stepLeaves_of_arrayOnly (programEnded_touches s l g d us) i

theorem stepLeaves_readEnded (s : State) (l : Loc) (g i : Nat) (us : List Upset) :
    StepLeaves s (s.readEnded l g (some i) us) i := by
  have hothers := readEnded_entry_other s l g i us
  have hflags := flagsOnly_readEnded s l g (some i) us i
  obtain ⟨x, k, es, rl, fm, fs, c, h⟩ := readEnded_touches s l g (some i) us
  rw [h] at hothers hflags ⊢
  exact ⟨rfl, rfl, rfl, rfl, rfl, rfl, fun q => by cases q <;> rfl, fun q => by cases q <;> rfl, hothers, hflags⟩

/-- The PATCH `j` of the entry `i` completes at the command `c` with the result given, with the array as in `after`: the
guard map is UNGUARDED in addition for the bits `marked`, and the census is told when the job made a program step. -/
def PatchCompletes (s : State) (j : Job) (rest : List Job) (i : Nat) (l₀ : Live) (p : Option Nat) (n : Nat) (c : Instr)
    (after : State) (marked : BitVec 7) (programmed : Bool) (result : JobResult) : Prop :=
  ∃ t, exec c s = .next t ∧ jobCompleted s t j rest result none false ∧ t.granules = after.granules ∧
    t.marks = after.marks ∧ t.bad = s.bad ∧ t.pool = s.pool ∧ (∀ k, k ≠ i → t.entry k = s.entry k) ∧
    (∀ l, (after.entry i).body = .live l →
      t.entry i =
        ⟨.live { l with
          guardMap := l.guardMap ||| marked
          damaged := l.damaged || decide (result = .damaged)
          refreshWanted := l.refreshWanted && decide (result ≠ .damaged) }, p, n - 1⟩) ∧
    (result = .damaged → i ∉ t.refresh.list) ∧ (result ≠ .damaged → t.refresh = after.refresh) ∧
    (∀ q, (t.port q).flags = (after.port q).flags) ∧
    (programmed = true → censusTold s t l₀.cls) ∧ (programmed = false → t.census = s.census)

section

variable {s after : State} {j : Job} {rest : List Job} {w : PatchJob} {l₀ : Live} {p : Option Nat} {n : Nat} {c : Instr}
  {step : EngineStep}

/-- The census is told when its record is as the telling leaves it. -/
theorem censusTold_of_census {s t : State} {c : Cls} (h : t.census = (s.tellCensus c).census) : censusTold s t c := by
  have htold := tellCensus_told s c
  rw [censusTold, ← h] at htold
  exact htold

/-- A completion at the end of an array step, with nobody waiting, is the whole next state. -/
theorem patchCompletes_of (hrun : PatchRuns s j rest w.entry l₀ p n) (hs : s.engineAlone step)
    (hl : StepLeaves s after w.entry) (r : JobResult)
    (hx : exec c s = .next ((after.release.patchDone j w r).stepBoundary)) :
    PatchCompletes s j rest w.entry l₀ p n c after w.marked w.programmed r := by
  obtain ⟨k, off, d, gen, hb⟩ := hrun.body
  obtain ⟨l₁, he, hcls⟩ := hl.live hrun.entry
  obtain ⟨hwork, hqueue, hresults, hout, hbuf⟩ :=
    jobCompleted_patchDone after.release j rest w r (hl.queue.trans hrun.head)
  obtain ⟨hgranules, hmarks, _⟩ := same_patchDone after.release j w r
  obtain ⟨hlisted, hkept⟩ := patchFlags_refresh after.release w r
  have hrefresh := (patchDone_entries after.release j w r hb).2
  have hcensus := patchDone_census after.release j w r he
  obtain ⟨es, rl, cn, ht⟩ := patchDone_touches after.release j w r hb
  have hfree : (after.release.patchDone j w r).arrayFree := by
    rw [ht]
    exact arrayFree_release hs hl.arb
  have hbad : (after.release.patchDone j w r).bad = s.bad := by rw [ht]; exact hl.bad
  have hpool : (after.release.patchDone j w r).pool = s.pool := by rw [ht]; exact hl.pool
  rw [stepBoundary_quiet _ hfree] at hx
  refine ⟨_, hx, ⟨hwork, hqueue, hresults.trans ?_, hout.trans ?_, hbuf⟩, hgranules, hmarks, hbad, hpool,
    fun i hi => (patchDone_entry_other _ j w r hb i hi).trans (hl.others i hi), fun l hlive => ?_,
    fun h => hrefresh ▸ hlisted h, fun h => hrefresh.trans (hkept h), patchDone_flags _ j w r hb, fun h => ?_, fun h => ?_⟩
  · exact congrArg (· ++ _) (hl.results j.port)
  · exact congrArg (· - 1) (hl.outstanding j.port)
  · rw [he] at hlive
    cases hlive
    exact patchDone_entry_same _ j w r hb he
  · rw [h, if_pos rfl, hcls] at hcensus
    refine censusTold_of_census (hcensus.trans ?_)
    simp only [State.tellCensus, release_census, hl.census]
  · rw [h] at hcensus
    exact hcensus.trans hl.census

/-- A claim at the end of an array step, with nobody waiting, is granted. -/
theorem goesTo_of (hs : s.engineAlone step) (harb : after.arb = s.arb) {work : Work} {next : EngineStep}
    (hx : exec c s = .next ((after.release.claims work next).stepBoundary)) :
    exec c s = .next (after.atStep work next) := by
  rw [hx, release_claims hs harb]

end

/-! ### What a PATCH does with a read, a mark and a program -/

/-- An UNCORRECTABLE target granule completes the job (R82). -/
theorem patchRead_uncorrectable (s : State) (j : Job) (w : PatchJob) (g : Nat) (r : Outcome × Data)
    (hr : r.1 = .uncorrectable) : s.patchRead j w (.read g) r = s.patchDone j w .damaged := by
  simp only [State.patchRead, if_pos hr]

/-- The target granules are read in ascending order (R82). -/
theorem patchRead_next (s : State) (j : Job) (w : PatchJob) (g : Nat) (r : Outcome × Data) (hr : r.1 ≠ .uncorrectable)
    (h : granuleOf w.offset ≤ g) (hl : g < granuleOf (w.offset + w.data.length - 1)) :
    s.patchRead j w (.read g) r =
      s.claims (.patch j { w with reads := w.reads ++ [(g, r)] } (.read (g + 1))) (.read w.loc (g + 1) (some w.entry)) := by
  have hfind := find?_targets_next { w with reads := w.reads ++ [(g, r)] } g h hl
  simp only [State.patchRead, if_neg hr, hfind]
  rfl

/-- After the last target granule the new contents are formed (R83). -/
theorem patchRead_last (s : State) (j : Job) (w : PatchJob) (g : Nat) (r : Outcome × Data) (hr : r.1 ≠ .uncorrectable)
    (hl : granuleOf (w.offset + w.data.length - 1) ≤ g) :
    s.patchRead j w (.read g) r = s.patchForm j { w with reads := w.reads ++ [(g, r)] } := by
  have hfind := find?_targets_last { w with reads := w.reads ++ [(g, r)] } g hl
  simp only [State.patchRead, if_neg hr, hfind]

/-- Patch bytes that do not only clear bits complete the job with NOT_CLEAR (R83). -/
theorem patchForm_notClear (s : State) (j : Job) (w : PatchJob)
    (h : ¬∀ x, x ∈ w.reads → w.newContent x &&& ~~~x.2.2 = 0) : s.patchForm j w = s.patchDone j w .notClear := by
  rw [State.patchForm, if_neg fun ha => h ((all_clearOnly_iff w).1 ha)]

/-- A patch that changes nothing completes with DONE (R83). -/
theorem patchForm_unchanged (s : State) (j : Job) (w : PatchJob)
    (h : ∀ x, x ∈ w.reads → w.newContent x &&& ~~~x.2.2 = 0) (hc : w.changes = []) :
    s.patchForm j w = s.patchDone j w .done := by
  rw [State.patchForm, if_pos ((all_clearOnly_iff w).2 h), hc]
  rfl

/-- The patch-map bits of changed granules are programmed first (R84, R85). -/
theorem patchForm_marks (s : State) (j : Job) (w : PatchJob)
    (h : ∀ x, x ∈ w.reads → w.newContent x &&& ~~~x.2.2 = 0) {c : Changed} {others : List Changed}
    (hc : w.changes = c :: others) (hm : w.newMarks ≠ 0) :
    s.patchForm j w =
      s.claims (.patch j { w with changed := c :: others, marking := w.newMarks, programmed := true } .mark)
        (.mark w.loc (patchMarks w.newMarks)) := by
  rw [State.patchForm, if_pos ((all_clearOnly_iff w).2 h), hc]
  exact if_neg hm

/-- With no patch-map bit to program the first changed granule is programmed at once (R86). -/
theorem patchForm_programs (s : State) (j : Job) (w : PatchJob)
    (h : ∀ x, x ∈ w.reads → w.newContent x &&& ~~~x.2.2 = 0) {c : Changed} {others : List Changed}
    (hc : w.changes = c :: others) (hm : w.newMarks = 0) :
    s.patchForm j w =
      s.claims
        (.patch j { w with changed := c :: others, marking := w.newMarks, programmed := true } (.program others))
        (.program w.loc c.granule c.new) := by
  rw [State.patchForm, if_pos ((all_clearOnly_iff w).2 h), hc]
  exact if_pos hm

/-- When a granule passes verify (R87). -/
theorem passesVerify_iff (c : Changed) (r : Outcome × Data) :
    (if c.first then verified r c.new else r.2 == c.new) = true ↔
      (c.first = true → r = (.clean, c.new)) ∧ (c.first = false → r.2 = c.new) := by
  obtain ⟨o, d⟩ := r
  cases c.first <;> simp [verified]

/-! ### The ends of the array steps of a PATCH (R82 to R88) -/

section

variable {s : State} {j : Job} {rest : List Job} {w : PatchJob} {l₀ : Live} {p : Option Nat} {n : Nat} {l : Loc} {g : Nat}
  {st : PatchStep}

/-- The end of a read: the PATCH advances by what was read. -/
theorem exec_patchRead {e : Option Nat} (us : List Upset) (hs : s.engineAlone (.read l g e))
    (hw : s.work = .patch j w st) :
    exec (.engineReadEnd us) s =
      .next (((s.readEnded l g e us).release.patchRead j w st (s.engineReads l g us)).stepBoundary) := by
  obtain ⟨x, k, es, rl, fm, fs, c, h⟩ := readEnded_touches s l g e us
  have hwork : (s.readEnded l g e us).release.work = .patch j w st := by
    rw [release_work, h]
    exact hw
  rw [exec_engineReadEnd s l g e us hs, State.afterRead, hwork]

/-- The end of a mark program: the PATCH advances by whether every mark named reads set. -/
theorem exec_patchMarked {m : BitVec 12} (us : List Upset) (hs : s.engineAlone (.mark l m))
    (hw : s.work = .patch j w st) :
    exec (.markProgramEnd us) s =
      .next (((s.markEnded l m us).release.patchMarked j w st ((s.markEnded l m us).marksTook l m)).stepBoundary) := by
  have hwork : (s.markEnded l m us).release.work = .patch j w st := (stepLeaves_markEnded s l m us 0).work.trans hw
  rw [exec_markProgramEnd s l m us hs, State.afterMark, hwork]

/-- The end of a granule program: the PATCH advances. -/
theorem exec_patchProgrammed {d : Data} (us : List Upset) (hs : s.engineAlone (.program l g d))
    (hw : s.work = .patch j w st) :
    exec (.granuleProgramEnd us) s = .next (((s.programEnded l g d us).release.patchProgrammed j w st).stepBoundary) := by
  have hwork : (s.programEnded l g d us).release.work = .patch j w st :=
    (stepLeaves_programEnded s l g d us 0).work.trans hw
  rw [exec_granuleProgramEnd s l g d us hs, State.afterProgram, hwork]

/-- The end of the read of a target granule (R82, R83, R85). -/
theorem patch_read_ends (hrun : PatchRuns s j rest w.entry l₀ p n) (us : List Upset)
    (hs : s.engineAlone (.read w.loc g (some w.entry))) (hw : s.work = .patch j w (.read g)) :
    let r := s.engineReads w.loc g us
    let after := s.readEnded w.loc g (some w.entry) us
    let w' : PatchJob := { w with reads := w.reads ++ [(g, r)] }
    let completes := PatchCompletes s j rest w.entry l₀ p n (.engineReadEnd us) after w.marked w.programmed
    let goesTo := fun (w' : PatchJob) (step : PatchStep) (est : EngineStep) =>
      exec (.engineReadEnd us) s = .next (after.atStep (.patch j w' step) est)
    let clear := ∀ x, x ∈ w'.reads → w'.newContent x &&& ~~~x.2.2 = 0
    (r.1 = .uncorrectable → completes .damaged) ∧
    (r.1 ≠ .uncorrectable → granuleOf w.offset ≤ g → g < granuleOf (w.offset + w.data.length - 1) →
      goesTo w' (.read (g + 1)) (.read w.loc (g + 1) (some w.entry))) ∧
    (r.1 ≠ .uncorrectable → granuleOf (w.offset + w.data.length - 1) ≤ g →
      (¬clear → completes .notClear) ∧
      (clear → w'.changes = [] → completes .done) ∧
      (clear → ∀ c others, w'.changes = c :: others →
        let w'' : PatchJob := { w' with changed := c :: others, marking := w'.newMarks, programmed := true }
        (w'.newMarks ≠ 0 → goesTo w'' .mark (.mark w.loc (patchMarks w'.newMarks))) ∧
        (w'.newMarks = 0 → goesTo w'' (.program others) (.program w.loc c.granule c.new)))) := by
  intro r after w' completes goesTo clear
  have hl : StepLeaves s after w.entry := stepLeaves_readEnded s w.loc g w.entry us
  have hx := exec_patchRead us hs hw
  refine ⟨fun hr => ?_, fun hr h hlt => ?_, fun hr hlast => ?_⟩
  · exact patchCompletes_of hrun hs hl _ (by rw [hx, patchRead_uncorrectable _ _ _ _ _ hr])
  · exact goesTo_of hs hl.arb (by rw [hx, patchRead_next _ _ _ _ _ hr h hlt])
  · rw [patchRead_last _ _ _ _ _ hr hlast] at hx
    refine ⟨fun h => ?_, fun h hc => ?_, fun h c others hc => ⟨fun hm => ?_, fun hm => ?_⟩⟩
    · exact patchCompletes_of (w := w') hrun hs hl _ (by rw [hx, patchForm_notClear _ _ _ h])
    · exact patchCompletes_of (w := w') hrun hs hl _ (by rw [hx, patchForm_unchanged _ _ _ h hc])
    · exact goesTo_of hs hl.arb (by rw [hx, patchForm_marks _ _ _ h hc hm]; rfl)
    · exact goesTo_of hs hl.arb (by rw [hx, patchForm_programs _ _ _ h hc hm]; rfl)

/-- The end of the mark program of a PATCH (R85). -/
theorem patch_mark_ends (hrun : PatchRuns s j rest w.entry l₀ p n) (us : List Upset) {m : BitVec 12}
    (hs : s.engineAlone (.mark w.loc m)) (hw : s.work = .patch j w .mark) :
    let after := s.markEnded w.loc m us
    let w' : PatchJob := { w with marked := w.marking &&& patchMapOf (after.markField w.loc).voted }
    (¬after.marksStand w.loc m →
      PatchCompletes s j rest w.entry l₀ p n (.markProgramEnd us) after w'.marked w.programmed .damaged) ∧
    ∀ c others, after.marksStand w.loc m → w.changed = c :: others →
      exec (.markProgramEnd us) s = .next
        (after.atStep (.patch j { w' with programmed := true } (.program others)) (.program w.loc c.granule c.new)) := by
  intro after w'
  have hl : StepLeaves s after w.entry := stepLeaves_markEnded s w.loc m us w.entry
  have hx := exec_patchMarked us hs hw
  refine ⟨fun h => ?_, fun c others h hc => ?_⟩
  · refine patchCompletes_of (w := w') hrun hs hl _ ?_
    rw [hx, State.patchMarked, if_neg fun ht => h ((marksTook_iff _ _ _).1 ht)]
    rfl
  · refine goesTo_of hs hl.arb ?_
    rw [hx, State.patchMarked, if_pos ((marksTook_iff _ _ _).2 h), hc]
    rfl

/-- The end of the program of a changed granule (R86). -/
theorem patch_program_ends (us : List Upset) {x : Data} {left : List Changed}
    (hs : s.engineAlone (.program w.loc g x)) (hw : s.work = .patch j w (.program left)) :
    let after := s.programEnded w.loc g x us
    (∀ c others, left = c :: others →
      exec (.granuleProgramEnd us) s = .next
        (after.atStep (.patch j { w with programmed := true } (.program others)) (.program w.loc c.granule c.new))) ∧
    ∀ c others, left = [] → w.changed = c :: others →
      exec (.granuleProgramEnd us) s = .next
        (after.atStep (.patch j w (.verify c others)) (.read w.loc c.granule (some w.entry))) := by
  intro after
  have harb : after.arb = s.arb := programEnded_arb s w.loc g x us
  have hx := exec_patchProgrammed us hs hw
  refine ⟨fun c others hc => goesTo_of hs harb ?_, fun c others hnil hc => goesTo_of hs harb ?_⟩
  · rw [hx, hc]
    rfl
  · rw [hx, hnil]
    simp only [State.patchProgrammed, State.patchProgram, hc]
    rfl

/-- The end of the verify read of a changed granule (R87). -/
theorem patch_verify_ends (hrun : PatchRuns s j rest w.entry l₀ p n) (us : List Upset) {c : Changed} {left : List Changed}
    (hs : s.engineAlone (.read w.loc g (some w.entry))) (hw : s.work = .patch j w (.verify c left)) :
    let r := s.engineReads w.loc g us
    let after := s.readEnded w.loc g (some w.entry) us
    let completes := PatchCompletes s j rest w.entry l₀ p n (.engineReadEnd us) after w.marked w.programmed
    let passes := (c.first = true → r = (.clean, c.new)) ∧ (c.first = false → r.2 = c.new)
    (¬passes → completes .damaged) ∧ (passes → left = [] → completes .done) ∧
    ∀ c' others, passes → left = c' :: others →
      exec (.engineReadEnd us) s = .next
        (after.atStep (.patch j w (.verify c' others)) (.read w.loc c'.granule (some w.entry))) := by
  intro r after completes passes
  have hl : StepLeaves s after w.entry := stepLeaves_readEnded s w.loc g w.entry us
  have hx := exec_patchRead us hs hw
  refine ⟨fun h => ?_, fun h hnil => ?_, fun c' others h hc => ?_⟩
  · refine patchCompletes_of hrun hs hl _ ?_
    rw [hx, State.patchRead, if_neg fun ht => h ((passesVerify_iff _ _).1 ht)]
  · refine patchCompletes_of hrun hs hl _ ?_
    rw [hx, State.patchRead, if_pos ((passesVerify_iff _ _).2 h), hnil]
    rfl
  · refine goesTo_of hs hl.arb ?_
    rw [hx, State.patchRead, if_pos ((passesVerify_iff _ _).2 h), hc]
    rfl

end

/-! ### The statement -/

/-- Settles O52, clause by clause: the bytes of a patched granule, and the ends of the reads, of the mark program, of the
granule programs and of the verify reads. -/
theorem patchActsByContent : Obligations.PatchActsByContent := by
  unfold Obligations.PatchActsByContent
  refine ⟨fun cur g offset pos data => byteAt_patchedGranule cur g offset pos data, ?_⟩
  intro s j rest w k off d gen l₀ p n us hq hb he goesTo completes
  have hrun : PatchRuns s j rest w.entry l₀ p n := ⟨hq, ⟨k, off, d, gen, hb⟩, he⟩
  refine ⟨fun g hs hw => ?_, fun m hs hw => patch_mark_ends hrun us hs hw,
    fun g x left hs hw => patch_program_ends us hs hw, fun g c left hs hw => patch_verify_ends hrun us hs hw⟩
  intro r after reads last new clear changes
  obtain ⟨huncorrectable, hnext, hlast⟩ := patch_read_ends hrun us hs hw
  refine ⟨huncorrectable, hnext, fun hr hg => ?_⟩
  obtain ⟨hnotClear, hunchanged, hchanged⟩ := hlast hr hg
  have hchanges : ({ w with reads := reads } : PatchJob).changes = changes := changes_eq _
  refine ⟨hnotClear, fun hc h => hunchanged hc (hchanges.trans h), fun hc hrange c others h => ?_⟩
  obtain ⟨hmarks, hprograms⟩ := hchanged hc c others (hchanges.trans h)
  refine ⟨({ w with reads := reads } : PatchJob).newMarks, getLsbD_newMarks _ hrange, ?_⟩
  rw [h]
  exact ⟨hmarks, hprograms⟩

end Sys2Proof.Machine
end

section
/-! RETIRE and FINISH_RETIRE (5.1.2, Figure 5-1) and the end of a FIX (7.2.2): what freeing an entry, a retirement and a
fix leave, and where the end of each of their array steps takes them. -/

namespace Sys2Proof.Machine

/-! ### An entry is freed (R13, R132) -/

/-- A freed entry is FREE, has pair NONE when its pair is in the BAD set, and carries its jobs count. -/
theorem freeEntry_entry_same (s : State) (i : Nat) :
    (s.freeEntry i).entry i = ⟨.free, (s.entry i).pair.filter (fun q => !s.isBad q), (s.entry i).jobs⟩ := by
  refine (entry_setEntry_same s i _).trans ?_
  cases hp : (s.entry i).pair with
  | none => rfl
  | some q =>
    rw [Option.filter_some]
    cases hb : s.isBad q <;> simp [hb]

theorem freeEntry_entry_other (s : State) (i k : Nat) (h : k ≠ i) : (s.freeEntry i).entry k = s.entry k :=
  entry_setEntry_other _ _ _ _ h

/-- Freeing an entry empties the slots on it and no other. -/
theorem freeEntry_holds (s : State) (i : Nat) (slot : Fin 8) :
    (s.freeEntry i).holds[slot] = if (s.holds[slot]).entry? = some i then .empty else s.holds[slot] := by
  simp [State.freeEntry, State.emptyHoldsOn]

/-- Freeing an entry touches the directory and the hold slots alone. -/
theorem freeEntry_touches (s : State) (i : Nat) : ∃ es hs, s.freeEntry i = { s with entries := es, holds := hs } :=
  ⟨_, _, rfl⟩

/-! ### A job completes with DONE (R12) -/

theorem completeJob_done_entry_same (s : State) (j : Job) (i : Nat) (hi : j.body.entry? = some i) :
    (s.completeJob j .done none false).entry i = { s.entry i with jobs := (s.entry i).jobs - 1 } := by
  rw [entry_congr (completeJob_entries s j .done none false i hi (.inr (.inr rfl))).1, State.lowerJobs,
    entry_setEntry_same]

theorem completeJob_done_entry_other (s : State) (j : Job) (i k : Nat) (hi : j.body.entry? = some i) (h : k ≠ i) :
    (s.completeJob j .done none false).entry k = s.entry k := by
  rw [entry_congr (completeJob_entries s j .done none false i hi (.inr (.inr rfl))).1, State.lowerJobs,
    entry_setEntry_other _ _ _ _ h]

/-! ### How a retirement ends (R96, R164) -/

/-- The work is a FINISH_RETIRE item, or a job that names the entry. -/
def NamesEntry (job : Option Job) (i : Nat) : Prop := ∀ j, job = some j → j.body.entry? = some i

/-- The end of a retirement leaves the array, the arbiter, the BAD set and what else no completion touches. -/
theorem retireDone_touches (s : State) (job : Option Job) (w : RetireJob) :
    ∃ q wk pm ps b es hs cn rl, s.retireDone job w =
      { s with
        queue := q, work := wk, portM := pm, portS := ps, buffers := b, entries := es, holds := hs, census := cn
        recovery := rl } := by
  obtain ⟨es, hs, hf⟩ := freeEntry_touches s w.entry
  cases job with
  | none => exact ⟨_, _, _, _, _, es, hs, _, _, by rw [State.retireDone, hf]; rfl⟩
  | some j =>
    obtain ⟨q, wk, pm, ps, b, es', hs', hc⟩ := completeJob_touches (s.freeEntry w.entry) j .done none false
    exact ⟨q, wk, pm, ps, b, es', hs', _, s.recovery, by rw [State.retireDone, hc, hf]; rfl⟩

/-- The entry is freed, and its jobs count falls when a job ends. -/
theorem retireDone_entry_same (s : State) (job : Option Job) (w : RetireJob) (hj : NamesEntry job w.entry) :
    (s.retireDone job w).entry w.entry =
      ⟨.free, (s.entry w.entry).pair.filter (fun q => !s.isBad q), (s.entry w.entry).jobs - job.toList.length⟩ := by
  cases job with
  | none => exact freeEntry_entry_same s w.entry
  | some j =>
    refine (completeJob_done_entry_same (s.freeEntry w.entry) j w.entry (hj j rfl)).trans ?_
    rw [freeEntry_entry_same]
    rfl

theorem retireDone_entry_other (s : State) (job : Option Job) (w : RetireJob) (hj : NamesEntry job w.entry) (k : Nat)
    (h : k ≠ w.entry) : (s.retireDone job w).entry k = s.entry k := by
  cases job with
  | none => exact freeEntry_entry_other s w.entry k h
  | some j =>
    exact (completeJob_done_entry_other _ j w.entry k (hj j rfl) h).trans (freeEntry_entry_other s w.entry k h)

/-- The slots on the entry are emptied (R132). -/
theorem retireDone_holds (s : State) (job : Option Job) (w : RetireJob) (hj : NamesEntry job w.entry) (slot : Fin 8) :
    (s.retireDone job w).holds[slot] =
      if (s.holds[slot]).entry? = some w.entry then .empty else s.holds[slot] := by
  cases job with
  | none => exact freeEntry_holds s w.entry slot
  | some j =>
    have hh : (s.retireDone (some j) w).holds = (s.freeEntry w.entry).holds :=
      (completeJob_entries (s.freeEntry w.entry) j .done none false w.entry (hj j rfl) (.inr (.inr rfl))).2
    rw [hh, freeEntry_holds]

/-- A RETIRE completes with DONE (R62, R71, R96). -/
theorem jobCompleted_retireDone (s : State) (j : Job) (rest : List Job) (w : RetireJob) (hq : s.queue = j :: rest) :
    jobCompleted s (s.retireDone (some j) w) j rest .done none false :=
  completeJob_facts (s.freeEntry w.entry) j rest .done none false hq

/-- A RETIRE tells the census of the class the entry had (R146). -/
theorem censusTold_retireDone (s : State) (j : Job) (w : RetireJob) {cls : Cls} (h : (s.entry w.entry).cls? = some cls) :
    censusTold s (s.retireDone (some j) w) cls := by
  have hcls : s.classOf w.entry = cls := by rw [State.classOf, h]; rfl
  have hcensus := (completeJob_arb_census (s.freeEntry w.entry) j .done none false).2
  refine censusTold_of_census ?_
  simp only [State.retireDone, hcls, State.tellCensus, hcensus]
  rfl

/-- The retirement ends at the command `c` with the array as in `after`: the entry is FREE, a RETIRE completes with DONE
and tells the census, a FINISH_RETIRE item leaves the recovery list. -/
def RetireCompletes (s : State) (job : Option Job) (w : RetireJob) (c : Instr) (after : State) : Prop :=
  (job = none ∨ ∃ j rest k g, job = some j ∧ s.queue = j :: rest ∧ j.body = .retire w.entry k g) →
    ∃ t, exec c s = .next t ∧ t.granules = after.granules ∧ t.marks = after.marks ∧ t.bad = s.bad ∧
      (t.entry w.entry).body = .free ∧
      ((∃ q, (s.entry w.entry).pair = some q ∧ s.isBad q = true) → (t.entry w.entry).pair = none) ∧
      ((∀ q, (s.entry w.entry).pair = some q → s.isBad q = false) →
        (t.entry w.entry).pair = (s.entry w.entry).pair) ∧
      (∀ i, i ≠ w.entry → t.entry i = s.entry i) ∧
      (∀ slot : Fin 8, ((s.holds[slot]).entry? = some w.entry → t.holds[slot] = .empty) ∧
        ((s.holds[slot]).entry? ≠ some w.entry → t.holds[slot] = s.holds[slot])) ∧
      (∀ j rest cls, job = some j → s.queue = j :: rest → (s.entry w.entry).cls? = some cls →
        jobCompleted s t j rest .done none false ∧ censusTold s t cls ∧
          (t.entry w.entry).jobs = (s.entry w.entry).jobs - 1) ∧
      (job = none → t.work = .idle ∧ t.recovery = s.recovery.drop 1 ∧ t.queue = s.queue ∧ t.portM = s.portM ∧
        t.portS = s.portS ∧ t.census = s.census ∧ (t.entry w.entry).jobs = (s.entry w.entry).jobs)

section

variable {s after : State} {job : Option Job} {w : RetireJob} {c : Instr} {step : EngineStep}

/-- The end of a retirement at the end of an array step, with nobody waiting, is the whole next state. -/
theorem retireCompletes_of (hs : s.engineAlone step) (ha : ArrayOnly s after)
    (hx : exec c s = .next ((after.release.retireDone job w).stepBoundary)) : RetireCompletes s job w c after := by
  intro hjob
  have hj : NamesEntry job w.entry := by
    rintro j rfl
    rcases hjob with h | ⟨j', rest, k, g, h, -, hb⟩
    · cases h
    · cases h
      rw [hb]
      rfl
  obtain ⟨x, m, f, rfl⟩ := ha
  generalize hu : State.release { s with granules := x, marks := m, free := f } = u at hx
  have hentry : (u.retireDone job w).entry w.entry =
      ⟨.free, (s.entry w.entry).pair.filter (fun q => !s.isBad q), (s.entry w.entry).jobs - job.toList.length⟩ := by
    subst hu
    exact retireDone_entry_same _ job w hj
  have hothers := retireDone_entry_other u job w hj
  have hholds := retireDone_holds u job w hj
  have htold := fun j cls h => censusTold_retireDone u j w (cls := cls) h
  obtain ⟨hgranules, hmarks, -⟩ := same_retireDone u job w
  obtain ⟨q, wk, pm, ps, b, es, hsl, cn, rl, ht⟩ := retireDone_touches u job w
  have hfree : (u.retireDone job w).arrayFree := by
    rw [ht, ← hu]
    exact arrayFree_release hs rfl
  have hbad : (u.retireDone job w).bad = u.bad := by rw [ht]
  rw [stepBoundary_quiet _ hfree] at hx
  subst hu
  refine ⟨_, hx, hgranules, hmarks, hbad, by rw [hentry], fun ⟨q, hq, hb⟩ => ?_, fun hb => ?_, hothers,
    fun slot => ⟨fun h => (hholds slot).trans (if_pos h), fun h => (hholds slot).trans (if_neg h)⟩, ?_, ?_⟩
  · rw [hentry, hq]
    simp [hb]
  · rw [hentry]
    cases hp : (s.entry w.entry).pair with
    | none => rfl
    | some q => simp [hb q hp]
  · rintro j rest cls rfl hq hcls
    exact ⟨jobCompleted_retireDone _ j rest w hq, htold j cls hcls, by rw [hentry]; rfl⟩
  · rintro rfl
    exact ⟨rfl, rfl, rfl, rfl, rfl, rfl, by rw [hentry]; rfl⟩

/-- A claim after the pair has joined the BAD set is granted (R95, R100). -/
theorem goesTo_addBad (hs : s.engineAlone step) (harb : after.arb = s.arb) (hbad : after.bad = s.bad) (p : Nat)
    {work : Work} {next : EngineStep} (hx : exec c s = .next ((((after.release).addBad p).claims work next).stepBoundary)) :
    exec c s = .next ({ after with bad := insertNum p s.bad }.atStep work next) := by
  rw [← hbad]
  exact goesTo_of (after := { after with bad := insertNum p after.bad }) hs harb hx

end

/-! ### The steps of a retirement (R93 to R95) -/

theorem arrayOnly_markEnded (s : State) (l : Loc) (m : BitVec 12) (us : List Upset) :
    ArrayOnly s (s.markEnded l m us) := by
  obtain ⟨g, k, h⟩ := markEnded_touches s l m us
  exact ⟨g, k, s.free, h⟩

theorem arrayOnly_eraseEnded (s : State) (l : Loc) (us : List Upset) : ArrayOnly s (s.eraseEnded l us) := by
  obtain ⟨g, k, h⟩ := eraseEnded_touches s l us
  exact ⟨g, k, s.free, h⟩

/-- A LIVE entry becomes RETIRING with its key, class and generation, and leaves the refresh list (R11). -/
theorem becomeRetiring_of_live (s : State) (i : Nat) {l : Live} {p : Option Nat} {n : Nat}
    (h : s.entry i = ⟨.live l, p, n⟩) :
    s.becomeRetiring i = (s.unlist i).setEntry i ⟨.retiring l.key l.cls l.gen, p, n⟩ := by
  simp only [State.becomeRetiring, unlist_entry_same, h, Entry.mapLive]

theorem becomeRetiring_entries (s : State) (i : Nat) {l : Live} {p : Option Nat} {n : Nat}
    (h : s.entry i = ⟨.live l, p, n⟩) :
    (s.becomeRetiring i).entry i = ⟨.retiring l.key l.cls l.gen, p, n⟩ ∧
      (∀ k, k ≠ i → (s.becomeRetiring i).entry k = s.entry k) ∧ i ∉ (s.becomeRetiring i).refresh.list := by
  rw [becomeRetiring_of_live s i h]
  exact ⟨entry_setEntry_same _ _ _, fun k hk => (entry_setEntry_other _ _ _ _ hk).trans (unlist_entry_other s i k hk),
    not_mem_unlist s i⟩

/-- The reads of the other cell go on as a classification's do (R94). -/
theorem retireRead_classify (s : State) (job : Option Job) (w : RetireJob) (c : Classifying) (r : Outcome × Data) :
    s.retireRead job w (.classify c) r =
      match c.take (s.markField w.other) (headerOf r).isSome r with
      | .more c' => s.claims (.retire job w (.classify c')) (.read w.other c'.granule (some w.entry))
      | .found .erased => s.claims (.retire job w .eraseRetired) (.erase w.retired)
      | .found _ => s.claims (.retire job w .eraseOther) (.erase w.other) := by
  rfl

section

variable {s : State} {job : Option Job} {w : RetireJob} {st : RetireStep} {l : Loc} {m : BitVec 12}

/-- The end of a mark program: the retirement advances, whether the mark took or not. -/
theorem exec_retireMarked (us : List Upset) (hs : s.engineAlone (.mark l m)) (hw : s.work = .retire job w st) :
    exec (.markProgramEnd us) s = .next (((s.markEnded l m us).release.retireMarked job w st).stepBoundary) := by
  have hwork : (s.markEnded l m us).release.work = .retire job w st := (stepLeaves_markEnded s l m us 0).work.trans hw
  rw [exec_markProgramEnd s l m us hs, State.afterMark, hwork]

/-- The end of a cell erase: the retirement advances by whether the whole cell is erased. -/
theorem exec_retireErased (us : List Upset) (hs : s.engineAlone (.erase l)) (hw : s.work = .retire job w st) :
    exec (.cellEraseEnd us) s =
      .next (((s.eraseEnded l us).release.retireErased job w st ((s.eraseEnded l us).eraseTook l)).stepBoundary) := by
  have hwork : (s.eraseEnded l us).release.work = .retire job w st :=
    (stepLeaves_of_arrayOnly (arrayOnly_eraseEnded s l us) 0).work.trans hw
  rw [exec_cellEraseEnd s l us hs, State.afterErase, hwork]

/-- The end of the retire mark, COMPLETE or FAILED (R11, R93). -/
theorem retire_mark_ends {x : Live} {p : Option Nat} {n : Nat} (us : List Upset) (hs : s.engineAlone (.mark l m))
    (hw : s.work = .retire job w .retireMark) (he : s.entry w.entry = ⟨.live x, p, n⟩) :
    let after := s.markEnded l m us
    ∃ t, exec (.markProgramEnd us) s = .next t ∧ t.entry w.entry = ⟨.retiring x.key x.cls x.gen, p, n⟩ ∧
      (∀ i, i ≠ w.entry → t.entry i = s.entry i) ∧ w.entry ∉ t.refresh.list ∧
      t.work = .retire job w (.classify ⟨0, ⟨0, 0, 0⟩, true⟩) ∧
      t.arb.user = some (.engine (.read w.other 0 (some w.entry))) ∧ t.queue = s.queue ∧ t.holds = s.holds ∧
      t.granules = after.granules ∧ t.marks = after.marks := by
  intro after
  have hx : exec (.markProgramEnd us) s = .next (((after.release.becomeRetiring w.entry).claims
      (.retire job w (.classify Classifying.start)) (.read w.other 0 (some w.entry))).stepBoundary) :=
    exec_retireMarked us hs hw
  obtain ⟨g, k, f, ha⟩ : ArrayOnly s after := arrayOnly_markEnded s l m us
  clear_value after
  subst ha
  have hfree : (State.release { s with granules := g, marks := k, free := f }).arrayFree := arrayFree_release hs rfl
  have hentries := becomeRetiring_entries (State.release { s with granules := g, marks := k, free := f }) w.entry he
  rw [becomeRetiring_of_live _ w.entry (by exact he)] at hx hentries
  obtain ⟨hsame, hothers, hlisted⟩ := hentries
  rw [stepBoundary_claims _ _ _ (by exact hfree)] at hx
  exact ⟨_, hx, hsame, hothers, hlisted, rfl, rfl, rfl, rfl, rfl, rfl⟩

/-- The other cell is classified as R32 says (R94). -/
theorem retire_classifies (s : State) (job : Option Job) (w : RetireJob) :
    classificationRuns s w.other (some w.entry) (fun c => .retire job w (.classify c))
      (.retire job w .eraseRetired, .erase w.retired) (.retire job w .eraseOther, .erase w.other) :=
  classificationRuns_of s w.other (some w.entry) _ _ _ (fun r => (headerOf r).isSome) fun t c r hw => by
    rw [State.afterRead, hw]
    exact retireRead_classify t job w c r

/-- The end of the erase of the other cell (R94, R95). -/
theorem retire_otherErase_ends (us : List Upset) (hs : s.engineAlone (.erase w.other))
    (hw : s.work = .retire job w .eraseOther) :
    let after := s.eraseEnded w.other us
    (after.cellErased w.other →
      exec (.cellEraseEnd us) s = .next (after.atStep (.retire job w .eraseRetired) (.erase w.retired))) ∧
    (¬after.cellErased w.other →
      exec (.cellEraseEnd us) s = .next ({ after with bad := insertNum w.pair s.bad }.atStep
        (.retire job { w with markPair := true } .badOther) (.mark w.other (markBit .bad)))) := by
  intro after
  have hl : StepLeaves s after w.entry := stepLeaves_of_arrayOnly (arrayOnly_eraseEnded s w.other us) w.entry
  have hx := exec_retireErased us hs hw
  refine ⟨fun h => goesTo_of hs hl.arb ?_, fun h => goesTo_addBad hs hl.arb hl.bad w.pair ?_⟩
  · rw [hx, (eraseTook_iff _ _).2 h]
    rfl
  · rw [hx, Bool.eq_false_iff.2 fun ht => h ((eraseTook_iff _ _).1 ht)]
    rfl

/-- The end of the erase of the retired cell (R94, R95, R97). -/
theorem retire_retiredErase_ends (us : List Upset) (hs : s.engineAlone (.erase w.retired))
    (hw : s.work = .retire job w .eraseRetired) :
    let after := s.eraseEnded w.retired us
    (after.cellErased w.retired → w.markPair = true →
      exec (.cellEraseEnd us) s =
        .next (after.atStep (.retire job w .badA) (.mark (Loc.num w.pair .a) (markBit .bad)))) ∧
    (after.cellErased w.retired → w.markPair = false → RetireCompletes s job w (.cellEraseEnd us) after) ∧
    (¬after.cellErased w.retired →
      exec (.cellEraseEnd us) s = .next ({ after with bad := insertNum w.pair s.bad }.atStep
        (.retire job { w with markPair := true } .badRetired) (.mark w.retired (markBit .bad)))) := by
  intro after
  have hl : StepLeaves s after w.entry := stepLeaves_of_arrayOnly (arrayOnly_eraseEnded s w.retired us) w.entry
  have hx := exec_retireErased us hs hw
  refine ⟨fun h hm => goesTo_of hs hl.arb ?_, fun h hm => retireCompletes_of hs (arrayOnly_eraseEnded _ _ _) ?_,
    fun h => goesTo_addBad hs hl.arb hl.bad w.pair ?_⟩
  · rw [hx, (eraseTook_iff _ _).2 h, State.retireErased, if_pos rfl, State.retireMarkPair, if_pos hm]
    rfl
  · rw [hx, (eraseTook_iff _ _).2 h, State.retireErased, if_pos rfl, State.retireMarkPair, hm]
    rfl
  · rw [hx, Bool.eq_false_iff.2 fun ht => h ((eraseTook_iff _ _).1 ht)]
    rfl

/-- The end of a bad mark, COMPLETE or FAILED: after that of a cell whose erase failed the sequence goes on, and both
cells of the pair are bad-marked at the end (R95, R97). -/
theorem retire_badMark_ends (us : List Upset) (hs : s.engineAlone (.mark l m)) :
    let after := s.markEnded l m us
    let goesTo := fun (w' : Work) (next : EngineStep) => exec (.markProgramEnd us) s = .next (after.atStep w' next)
    (s.work = .retire job w .badOther → goesTo (.retire job w .eraseRetired) (.erase w.retired)) ∧
    (s.work = .retire job w .badRetired → w.markPair = true →
      goesTo (.retire job w .badA) (.mark (Loc.num w.pair .a) (markBit .bad))) ∧
    (s.work = .retire job w .badA → goesTo (.retire job w .badB) (.mark (Loc.num w.pair .b) (markBit .bad))) ∧
    (s.work = .retire job w .badB → RetireCompletes s job w (.markProgramEnd us) after) := by
  intro after goesTo
  have harb : after.arb = s.arb := markEnded_arb s l m us
  refine ⟨fun hw => goesTo_of hs harb (exec_retireMarked us hs hw), fun hw hm => goesTo_of hs harb ?_,
    fun hw => goesTo_of hs harb (exec_retireMarked us hs hw),
    fun hw => retireCompletes_of hs (arrayOnly_markEnded s l m us) (exec_retireMarked us hs hw)⟩
  rw [exec_retireMarked us hs hw, State.retireMarked, State.retireMarkPair, if_pos hm]
  rfl

end

/-! ### The end of a FIX (R134, R135) -/

/-- A FIX makes its LIVE entry fixed and takes it off the refresh list, before the job leaves the queue. -/
def State.setFixed (s : State) (i : Nat) : State := (s.modLive i (fun l => { l with fixed := true })).unlist i

theorem fixMarked_eq (s : State) (j : Job) (i : Nat) :
    s.fixMarked j i = (s.setFixed i).completeJob j .done none false := rfl

/-- The end of a FIX leaves the arbiter, the census, the BAD set and the entry off the refresh list. -/
theorem fixMarked_keeps (s : State) (j : Job) (i : Nat) :
    (s.fixMarked j i).arb = s.arb ∧ (s.fixMarked j i).census = s.census ∧ (s.fixMarked j i).bad = s.bad ∧
      i ∉ (s.fixMarked j i).refresh.list := by
  obtain ⟨q, wk, pm, ps, b, es, hs, h⟩ := completeJob_touches (s.setFixed i) j .done none false
  rw [fixMarked_eq, h]
  exact ⟨rfl, rfl, rfl, not_mem_unlist _ _⟩

theorem fixMarked_entry_same (s : State) (j : Job) (i : Nat) (hi : j.body.entry? = some i) {l : Live} {p : Option Nat}
    {n : Nat} (h : s.entry i = ⟨.live l, p, n⟩) :
    (s.fixMarked j i).entry i = ⟨.live { l with fixed := true, refreshWanted := false }, p, n - 1⟩ := by
  rw [fixMarked_eq, completeJob_done_entry_same _ _ _ hi, State.setFixed, unlist_entry_same, State.modLive,
    entry_setEntry_same, h]
  rfl

theorem fixMarked_entry_other (s : State) (j : Job) (i k : Nat) (hi : j.body.entry? = some i) (h : k ≠ i) :
    (s.fixMarked j i).entry k = s.entry k :=
  (completeJob_done_entry_other (s.setFixed i) j i k hi h).trans
    ((unlist_entry_other _ i k h).trans (entry_setEntry_other _ _ _ _ h))

/-- A FIX completes with DONE (R62, R71, R135). -/
theorem jobCompleted_fixMarked (s : State) (j : Job) (rest : List Job) (i : Nat) (hq : s.queue = j :: rest) :
    jobCompleted s (s.fixMarked j i) j rest .done none false :=
  completeJob_facts (s.setFixed i) j rest .done none false hq

/-- The end of the fixed mark of a FIX, COMPLETE or FAILED. -/
theorem fix_mark_ends (s : State) (j : Job) (rest : List Job) (i : Nat) {k : Key} {l : Live} {p : Option Nat} {n : Nat}
    {loc : Loc} {m : BitVec 12} (us : List Upset) (hs : s.engineAlone (.mark loc m)) (hw : s.work = .fix j i)
    (hq : s.queue = j :: rest) (hb : j.body = .fix i k) (he : s.entry i = ⟨.live l, p, n⟩) :
    ∃ t, exec (.markProgramEnd us) s = .next t ∧ jobCompleted s t j rest .done none false ∧
      t.entry i = ⟨.live { l with fixed := true, refreshWanted := false }, p, n - 1⟩ ∧ i ∉ t.refresh.list ∧
      (∀ x, x ≠ i → t.entry x = s.entry x) ∧ t.census = s.census ∧ t.bad = s.bad := by
  have hi : j.body.entry? = some i := by rw [hb]; rfl
  obtain ⟨g, f, ha⟩ := markEnded_touches s loc m us
  have hx := exec_markProgramEnd s loc m us hs
  have hwork : (State.release { s with granules := g, marks := f }).work = .fix j i := hw
  rw [ha, State.afterMark, hwork] at hx
  generalize hu : State.release { s with granules := g, marks := f } = u at hx
  have hdone := jobCompleted_fixMarked u j rest i (by rw [← hu]; exact hq)
  have hsame := fixMarked_entry_same u j i hi (by rw [← hu]; exact he)
  have hothers := fun x h => fixMarked_entry_other u j i x hi h
  obtain ⟨harb, hcensus, hbad, hlisted⟩ := fixMarked_keeps u j i
  have hfree : (u.fixMarked j i).arrayFree := by
    rw [State.arrayFree, harb, ← hu]
    exact arrayFree_release hs rfl
  rw [stepBoundary_quiet _ hfree] at hx
  subst hu
  exact ⟨_, hx, hdone, hsame, hlisted, hothers, hcensus, hbad⟩

/-! ### The statement -/

/-- Settles O53, clause by clause: the ends of the retire mark, of the classification, of the erases and of the bad marks,
and the end of a FIX. -/
theorem retireAndFixSequencesRun : Obligations.RetireAndFixSequencesRun := by
  unfold Obligations.RetireAndFixSequencesRun
  refine ⟨fun s job w => ⟨fun l p n us hs hw he => retire_mark_ends us hs hw he, retire_classifies s job w, fun us => ?_⟩,
    fun s j rest i k l p n loc m us hs hw hq hb he => fix_mark_ends s j rest i us hs hw hq hb he⟩
  exact ⟨fun hs hw => retire_otherErase_ends us hs hw, fun hs hw => retire_retiredErase_ends us hs hw,
    fun loc m hs => retire_badMark_ends us hs⟩

end Sys2Proof.Machine
end

section
/-! The integrity monitor (Chapter 6): CAPTURE_CLEAR, and what a report does to the capture record, to the entry it
concerns, to the refresh list and to the event flags. -/

namespace Sys2Proof.Machine

/-! ### The capture record (R111, R113) -/

/-- Settles O34: the command acts where the port takes it, and is answered NOT_READY otherwise. -/
theorem captureClearEmptiesRecord : Obligations.CaptureClearEmptiesRecord := by
  intro s p
  refine ⟨fun h => congrArg Host.Outcome.next (command_notReady s p () _ h), fun h => ?_⟩
  have htaken : s.takeCaptureClear p [] = { s with capture := Capture.emptied }.answer p .ok [] :=
    command_takes s p () _ h
  exact congrArg Host.Outcome.next (htaken.trans (by cases p <;> rfl))

/-- Settles O35, outcome by outcome; a first location is set where there was none. -/
theorem reportEntersCapture : Obligations.ReportEntersCapture := by
  intro s r
  rw [report_capture]
  refine ⟨fun h => ?_, fun h => ?_, fun h => ?_⟩
  · cases hfirst : s.capture.firstCorrected <;> simp only [Capture.take, h, hfirst] <;> rfl
  · cases hfirst : s.capture.firstUncorrectable <;> simp only [Capture.take, h, hfirst] <;> rfl
  · rcases h with h | h <;> simp only [Capture.take, h]

/-! ### The entry a report concerns (R109, R114, R116) -/

/-- A report on the current cell of a LIVE entry concerns that entry. -/
theorem concerned_of_live {s : State} {x : Location} {i p n : Nat} {l : Live} (hx : x.entry = some i)
    (he : s.entry i = ⟨.live l, some p, n⟩) (hloc : x.loc = Loc.num p l.cell) : s.concerned x = some i := by
  simp [State.concerned, hx, currentLoc_live (e := s.entry i) (by rw [he]) (by rw [he]), hloc]

/-- A report of the scan, CLEAN or UNGUARDED does nothing to an entry. -/
theorem reportEntry_idle (s : State) {r : Report}
    (h : r.place.party = .scan ∨ r.outcome = .clean ∨ r.outcome = .unguarded) : s.reportEntry r = s := by
  rcases h with h | h | h
  · rw [State.reportEntry, if_pos h]
  all_goals
    unfold State.reportEntry
    split
    · rfl
    · split <;> simp only [h]

/-- CORRECTED, and UNCORRECTABLE at the header, nominate the entry concerned. -/
theorem reportEntry_nominates {s : State} {r : Report} {i : Nat} (hp : r.place.party ≠ .scan)
    (hc : s.concerned r.place = some i)
    (ho : r.outcome = .corrected ∨ r.outcome = .uncorrectable ∧ r.place.granule = 0) :
    s.reportEntry r = s.nominate i := by
  rcases ho with ho | ⟨ho, hg⟩
  · simp only [State.reportEntry, if_neg hp, hc, ho]
  · simp only [State.reportEntry, if_neg hp, hc, ho, if_pos hg]

/-- UNCORRECTABLE at a data granule damages the entry concerned. -/
theorem reportEntry_damages {s : State} {r : Report} {i : Nat} (hp : r.place.party ≠ .scan)
    (hc : s.concerned r.place = some i) (ho : r.outcome = .uncorrectable) (hg : 1 ≤ r.place.granule) :
    s.reportEntry r = s.setDamaged i := by
  simp only [State.reportEntry, if_neg hp, hc, ho, if_neg (Nat.one_le_iff_ne_zero.1 hg)]

/-- A LIVE entry may be nominated when none of its flags is set and its class has refresh_ok (R116). -/
theorem nominable_of_live {s : State} {i : Nat} {l : Live} (hb : (s.entry i).body = .live l) :
    s.nominable i = true ↔
      l.fixed = false ∧ l.damaged = false ∧ l.refreshWanted = false ∧ (s.policy l.cls).refreshOk = true := by
  simp [State.nominable, hb, and_assoc]

/-- A nomination sets refresh_wanted (R116). -/
theorem nominate_entry_same {s : State} {i : Nat} {l : Live} {p : Option Nat} {n : Nat} (hn : s.nominable i = true)
    (he : s.entry i = ⟨.live l, p, n⟩) :
    (s.nominate i).entry i = ⟨.live { l with refreshWanted := true }, p, n⟩ := by
  rw [State.nominate, if_pos hn]
  exact (entry_setEntry_same s i _).trans (by rw [he]; rfl)

/-- A nomination appends the entry to the list, or sets overflow when the list is full (R116, R117). -/
theorem nominate_refresh {s : State} {i : Nat} (hn : s.nominable i = true) :
    (s.nominate i).refresh =
      if s.refresh.list.length < refreshLimit then { s.refresh with list := s.refresh.list ++ [i] }
      else { s.refresh with overflow := true } := by
  rw [State.nominate, if_pos hn]

/-- An entry that is found damaged has the flag set and leaves the list with refresh_wanted clear (R114). -/
theorem setDamaged_entry_same {s : State} {i : Nat} {l : Live} {p : Option Nat} {n : Nat}
    (he : s.entry i = ⟨.live l, p, n⟩) :
    (s.setDamaged i).entry i = ⟨.live { l with damaged := true, refreshWanted := false }, p, n⟩ := by
  rw [State.setDamaged, unlist_entry_same, State.modLive, entry_setEntry_same, he]
  rfl

/-! ### The event flags (R115) -/

/-- A nomination leaves the ports. -/
theorem nominate_port (s : State) (i : Nat) (q : Port) : (s.nominate i).port q = s.port q := by
  unfold State.nominate
  split <;> cases q <;> rfl

/-- What a report does to an entry leaves the ports. -/
theorem reportEntry_port (s : State) (r : Report) (q : Port) : (s.reportEntry r).port q = s.port q := by
  unfold State.reportEntry
  repeat' split
  · rfl
  · rfl
  · rfl
  · rfl
  · exact nominate_port s _ q
  · exact nominate_port s _ q
  · cases q <;> rfl

/-- The UNCORRECTABLE event leaves the refresh list. -/
theorem reportEvent_refresh (s : State) (r : Report) : (s.reportEvent r).refresh = s.refresh := by
  unfold State.reportEvent
  split <;> rfl

/-- UNCORRECTABLE, but for a report of the scan, sets its flag on both ports. -/
theorem report_flags {s : State} {r : Report} (hp : r.place.party ≠ .scan) (ho : r.outcome = .uncorrectable)
    (q : Port) :
    ((s.report r).port q).flags = (s.port q).flags ||| Event.uncorrectable.bit := by
  have hflag : ∀ u : State, ((u.reportEvent r).port q).flags = (u.port q).flags ||| Event.uncorrectable.bit := by
    intro u
    rw [State.reportEvent, if_pos ⟨ho, hp⟩]
    cases q <;> rfl
  rw [State.report, hflag, reportEntry_port]
  cases q <;> rfl

/-- A report that sets no event flag and does nothing to an entry enters the capture record alone. -/
theorem report_idle {s : State} {r : Report}
    (h : r.place.party = .scan ∨ r.outcome = .clean ∨ r.outcome = .unguarded) :
    s.report r = { s with capture := s.capture.take r } := by
  have hevent : ¬(r.outcome = .uncorrectable ∧ r.place.party ≠ .scan) := by
    rintro ⟨ho, hp⟩
    rcases h with h | h | h
    · exact hp h
    · exact absurd (h.symm.trans ho) (by decide)
    · exact absurd (h.symm.trans ho) (by decide)
  rw [State.report, reportEntry_idle _ h, State.reportEvent, if_neg hevent]

/-! ### The statement -/

/-- Settles O36: the action on the entry concerned, taken from the state with the capture record as the report leaves
it, and the event flag beside it. -/
theorem reportActsOnEntryAndPorts : Obligations.ReportActsOnEntryAndPorts := by
  intro s r i l p n hr he hloc
  let u : State := { s with capture := s.capture.take r }
  have hu : u.entry i = ⟨.live l, some p, n⟩ := he
  have hc : u.concerned r.place = some i := concerned_of_live hr hu hloc
  have hentry : (s.report r).entry i = (u.reportEntry r).entry i := entry_congr (reportEvent_entries _ r) i
  have hrefresh : (s.report r).refresh = (u.reportEntry r).refresh := reportEvent_refresh _ r
  refine ⟨fun hp ho hf hd hw hok => ?_, fun hp ho hg => ?_, fun hp ho => report_flags hp ho, fun h => ?_⟩
  · have hn : u.nominable i = true := (nominable_of_live (by rw [hu])).2 ⟨hf, hd, hw, hok⟩
    rw [hentry, hrefresh, reportEntry_nominates hp hc ho, nominate_refresh hn]
    exact ⟨nominate_entry_same hn hu, fun hlen => if_pos hlen, fun hlen => if_neg (Nat.not_lt.2 hlen)⟩
  · rw [hentry, hrefresh, reportEntry_damages hp hc ho hg]
    exact ⟨setDamaged_entry_same hu, not_mem_unlist _ i⟩
  · rw [report_idle h]

end Sys2Proof.Machine
end

section
/-! The laws of the bounds and of the commit queue (R12, R53, R110, R117): what the operations that are no business of
the queue leave of them, how the engine's advance treats its job, what an acceptance does, and that every step keeps
them. -/

namespace Sys2Proof.Machine

/-- The laws together: counts of 63, 16 listed refreshes, and the law of the queue. -/
def Lawful (s : State) : Prop := s.capture.bounded = true ∧ s.refresh.bounded = true ∧ queueLaw s

/-! ### The bounds of the monitor (R110, R117) -/

/-- The counts stop at 63. -/
theorem bounded_take (c : Capture) (r : Report) (h : c.bounded = true) : (c.take r).bounded = true := by
  simp only [Capture.bounded, Bool.and_eq_true, decide_eq_true_eq] at h ⊢
  obtain ⟨hc, hu⟩ := h
  cases ho : r.outcome <;> simp only [Capture.take, ho]
  case corrected => exact ⟨by split <;> omega, hu⟩
  case uncorrectable => exact ⟨hc, by split <;> omega⟩
  all_goals exact ⟨hc, hu⟩

/-- A removal shortens the list, and a sweep takes 16 entries at most. -/
theorem bounded_remove (r : RefreshList) (i : Nat) (wanted : List Nat) (h : r.bounded = true) :
    (r.remove i wanted).bounded = true := by
  simp only [RefreshList.bounded, decide_eq_true_eq] at h ⊢
  simp only [RefreshList.remove]
  repeat' split
  · exact List.length_take_le _ _
  · exact Nat.le_trans (List.length_filter_le _ _) h
  · exact h

/-! ### What is no business of the queue -/

/-- The queue, the phase and every jobs count stay, and the bounds hold where they held. -/
structure LawFrame (s t : State) : Prop where
  capture : s.capture.bounded = true → t.capture.bounded = true
  refresh : s.refresh.bounded = true → t.refresh.bounded = true
  phase : t.phase = s.phase
  queue : t.queue = s.queue
  jobs : ∀ i, (t.entry i).jobs = (s.entry i).jobs

theorem LawFrame.refl (s : State) : LawFrame s s := ⟨id, id, rfl, rfl, fun _ => rfl⟩

theorem LawFrame.trans {s t u : State} (h : LawFrame s t) (h' : LawFrame t u) : LawFrame s u :=
  ⟨h'.capture ∘ h.capture, h'.refresh ∘ h.refresh, h'.phase.trans h.phase, h'.queue.trans h.queue,
    fun i => (h'.jobs i).trans (h.jobs i)⟩

/-- The array steps are no business of the queue. -/
theorem lawFrame_of_arrayOnly {s t : State} (h : ArrayOnly s t) : LawFrame s t ∧ t.work = s.work := by
  obtain ⟨g, m, f, rfl⟩ := h
  exact ⟨⟨id, id, rfl, rfl, fun _ => rfl⟩, rfl⟩

/-- The arbiter's grants are no business of the queue. -/
theorem lawFrame_of_arbiterOnly {s t : State} (h : ArbiterOnly s t) : LawFrame s t ∧ t.work = s.work := by
  obtain ⟨a, cn, pm, ps, f, rfl⟩ := h
  exact ⟨⟨id, id, rfl, rfl, fun _ => rfl⟩, rfl⟩

theorem arrayOnly_upsets (s : State) (l : Loc) (us : List Upset) : ArrayOnly s (s.upsets l us) := by
  obtain ⟨g, m, h⟩ := upsets_touches s l us
  exact ⟨g, m, s.free, h⟩

/-- A write of an entry that keeps its jobs count. -/
theorem lawFrame_setEntry (s : State) (i : Nat) (e : Entry) (h : e.jobs = (s.entry i).jobs) :
    LawFrame s (s.setEntry i e) := by
  refine ⟨id, id, rfl, rfl, fun k => ?_⟩
  by_cases hk : k = i
  · rw [hk, entry_setEntry_same, h]
  · rw [entry_setEntry_other s i k e hk]

theorem mapLive_jobs (e : Entry) (f : Live → Live) : (e.mapLive f).jobs = e.jobs := by
  unfold Entry.mapLive
  split <;> rfl

theorem lawFrame_modLive (s : State) (i : Nat) (f : Live → Live) : LawFrame s (s.modLive i f) :=
  lawFrame_setEntry s i _ (mapLive_jobs _ f)

theorem lawFrame_unlist (s : State) (i : Nat) : LawFrame s (s.unlist i) :=
  ⟨id, bounded_remove _ i _, rfl, rfl, (lawFrame_modLive s i _).jobs⟩

theorem lawFrame_setDamaged (s : State) (i : Nat) : LawFrame s (s.setDamaged i) :=
  (lawFrame_modLive s i _).trans (lawFrame_unlist _ i)

/-- A nomination appends to the list only below 16 entries. -/
theorem lawFrame_nominate (s : State) (i : Nat) : LawFrame s (s.nominate i) := by
  unfold State.nominate
  split
  · refine ⟨id, fun h => ?_, rfl, rfl, (lawFrame_modLive s i _).jobs⟩
    simp only [RefreshList.bounded, decide_eq_true_eq] at h ⊢
    split
    · next hlen =>
      show (s.refresh.list ++ [i]).length ≤ refreshLimit
      rw [List.length_append]
      exact Nat.succ_le_of_lt hlen
    · exact h
  · exact LawFrame.refl s

theorem lawFrame_report (s : State) (r : Report) : LawFrame s (s.report r) ∧ (s.report r).work = s.work := by
  have hentry : LawFrame { s with capture := s.capture.take r }
      ({ s with capture := s.capture.take r }.reportEntry r) := by
    unfold State.reportEntry
    repeat' split
    · exact LawFrame.refl _
    · exact LawFrame.refl _
    · exact LawFrame.refl _
    · exact LawFrame.refl _
    · exact lawFrame_nominate _ _
    · exact lawFrame_nominate _ _
    · exact lawFrame_setDamaged _ _
  have hevent : ∀ u : State, LawFrame u (u.reportEvent r) := by
    intro u
    unfold State.reportEvent
    split <;> exact ⟨id, id, rfl, rfl, fun _ => rfl⟩
  have htake : LawFrame s { s with capture := s.capture.take r } :=
    ⟨bounded_take s.capture r, id, rfl, rfl, fun _ => rfl⟩
  obtain ⟨es, rl, fm, fs, h⟩ := report_touches s r
  exact ⟨htake.trans (hentry.trans (hevent _)), by rw [h]⟩

theorem lawFrame_freeEntry (s : State) (i : Nat) : LawFrame s (s.freeEntry i) := by
  refine ⟨id, id, rfl, rfl, fun k => ?_⟩
  by_cases hk : k = i
  · rw [hk, freeEntry_entry_same]
  · rw [freeEntry_entry_other s i k hk]

theorem lawFrame_becomeRetiring (s : State) (i : Nat) :
    LawFrame s (s.becomeRetiring i) ∧ (s.becomeRetiring i).work = s.work := by
  simp only [State.becomeRetiring]
  split
  · exact ⟨(lawFrame_unlist s i).trans (lawFrame_setEntry _ i _ rfl), rfl⟩
  · exact ⟨lawFrame_unlist s i, rfl⟩

theorem lawFrame_switch (s : State) (w : WriteJob) : LawFrame s (s.switch w) :=
  (lawFrame_unlist s w.entry).trans <|
    LawFrame.trans (t := { s.unlist w.entry with reserved := if w.spare then none else s.reserved })
      ⟨id, id, rfl, rfl, fun _ => rfl⟩ (lawFrame_setEntry _ w.entry _ rfl)

theorem lawFrame_takeSpare {s s' : State} {p : Nat} (h : s.takeSpare = some (p, s')) :
    LawFrame s s' ∧ s'.work = s.work := by
  unfold State.takeSpare at h
  split at h
  · cases h
  · simp only [Option.some.injEq, Prod.mk.injEq] at h
    rw [← h.2]
    split <;> exact ⟨⟨id, id, rfl, rfl, fun _ => rfl⟩, rfl⟩

theorem lawFrame_disown (s : State) (p : Nat) : LawFrame s (s.disown p) ∧ (s.disown p).work = s.work := by
  unfold State.disown
  split
  · exact ⟨lawFrame_setEntry s _ _ rfl, rfl⟩
  · exact ⟨LawFrame.refl s, rfl⟩

theorem lawFrame_debrisPairFails (s : State) (p : Nat) (c : CellName) :
    LawFrame s (s.debrisPairFails p c) ∧ (s.debrisPairFails p c).work = s.work := by
  simp only [State.debrisPairFails]
  split
  · exact ⟨⟨id, id, rfl, rfl, fun _ => rfl⟩, rfl⟩
  · obtain ⟨hframe, hwork⟩ := lawFrame_disown
      { s.addBad p with
        pool := (s.addBad p).pool.filter (fun q => q != p)
        recovery := dropItemsOn p (otherCell c) (s.addBad p).recovery } p
    refine ⟨LawFrame.trans ?_ hframe, hwork⟩
    exact ⟨id, id, rfl, rfl, fun _ => rfl⟩

theorem lawFrame_freeNascent (s : State) (b : JobBody) (r : JobResult) :
    LawFrame s (s.freeNascent b r) ∧ (s.freeNascent b r).work = s.work := by
  unfold State.freeNascent
  repeat' split
  · exact ⟨lawFrame_freeEntry s _, rfl⟩
  all_goals exact ⟨LawFrame.refl s, rfl⟩

/-! ### A part without jobs -/

/-- The bounds hold, the queue is empty, no job runs, and every jobs count is 0. -/
def NoJobs (s : State) : Prop :=
  s.capture.bounded = true ∧ s.refresh.bounded = true ∧ s.queue = [] ∧ s.work.job? = none ∧ ∀ i, (s.entry i).jobs = 0

theorem runningJobHeads_iff (s : State) :
    runningJobHeads s = true ↔ ∀ j, s.work.job? = some j → s.queue.head? = some j := by
  cases h : s.work.job? <;> simp [runningJobHeads, h]

/-- A part without jobs meets the laws, whatever its phase. -/
theorem NoJobs.lawful {s : State} (h : NoJobs s) : Lawful s := by
  obtain ⟨hc, hr, hq, hw, hj⟩ := h
  refine ⟨hc, hr, by rw [hq]; rfl, (runningJobHeads_iff s).2 fun j hj => ?_, fun i => ?_, fun _ => hq⟩
  · rw [hw] at hj
    cases hj
  · rw [hj i, hq]
    rfl

/-- Before READY a part that meets the laws has no jobs. -/
theorem Lawful.noJobs {s : State} (h : Lawful s) (hp : s.phase ≠ .ready) : NoJobs s := by
  obtain ⟨hc, hr, -, hrun, hj, hq⟩ := h
  refine ⟨hc, hr, hq hp, Option.eq_none_iff_forall_ne_some.2 fun j hw => ?_, fun i => ?_⟩
  · have := (runningJobHeads_iff s).1 hrun j hw
    rw [hq hp] at this
    cases this
  · rw [hj i, hq hp]
    rfl

theorem NoJobs.frame {s t : State} (h : NoJobs s) (hf : LawFrame s t) (hw : t.work = s.work) : NoJobs t := by
  obtain ⟨hc, hr, hq, hwork, hj⟩ := h
  exact ⟨hf.capture hc, hf.refresh hr, hf.queue.trans hq, by rw [hw, hwork], fun i => (hf.jobs i).trans (hj i)⟩

/-- A reset leaves no jobs. -/
theorem noJobs_clearTo (s : State) (p : Phase) : NoJobs (s.clearTo p) := ⟨rfl, rfl, rfl, rfl, fun _ => rfl⟩

/-! ### How the engine advances -/

/-- The job `j` at the head of the queue leaves it: the engine has no job, and the jobs count of the entry it names
falls (R12, R62). -/
structure JobLeaves (j : Job) (s t : State) : Prop where
  capture : s.capture.bounded = true → t.capture.bounded = true
  refresh : s.refresh.bounded = true → t.refresh.bounded = true
  phase : t.phase = s.phase
  queue : t.queue = s.queue.drop 1
  idle : t.work.job? = none
  jobs : ∀ i, (t.entry i).jobs = (s.entry i).jobs - if j.body.entry? = some i then 1 else 0

/-- What the engine's advance with the job given can do: the job goes on, or the engine ends a piece of work that is no
job; the job leaves the queue; or a RESTART leaves a part without jobs. -/
inductive JobAdvance (job : Option Job) (s t : State) : Prop
  | goesOn (frame : LawFrame s t) (work : t.work.job? = none ∨ t.work.job? = job ∨ t.work = s.work)
  | completes (j : Job) (hj : job = some j) (leaves : JobLeaves j s t)
  | restarts (h : NoJobs t)

theorem JobAdvance.refl (job : Option Job) (s : State) : JobAdvance job s s := .goesOn (.refl s) (.inr (.inr rfl))

/-- What is no business of the queue may come before an advance. -/
theorem JobAdvance.after {job : Option Job} {s t u : State} (hf : LawFrame s t) (hw : t.work = s.work)
    (h : JobAdvance job t u) : JobAdvance job s u := by
  cases h with
  | goesOn frame work => exact .goesOn (hf.trans frame) (by rwa [hw] at work)
  | completes j hj l =>
    exact .completes j hj ⟨l.capture ∘ hf.capture, l.refresh ∘ hf.refresh, l.phase.trans hf.phase,
      by rw [l.queue, hf.queue], l.idle, fun i => by rw [l.jobs, hf.jobs]⟩
  | restarts h => exact .restarts h

/-- What is no business of the queue may come after an advance. -/
theorem JobAdvance.before {job : Option Job} {s t u : State} (h : JobAdvance job s t) (hf : LawFrame t u)
    (hw : u.work = t.work) : JobAdvance job s u := by
  cases h with
  | goesOn frame work => exact .goesOn (frame.trans hf) (by rwa [hw])
  | completes j hj l =>
    exact .completes j hj ⟨hf.capture ∘ l.capture, hf.refresh ∘ l.refresh, hf.phase.trans l.phase,
      hf.queue.trans l.queue, by rw [hw, l.idle], fun i => (hf.jobs i).trans (l.jobs i)⟩
  | restarts h => exact .restarts (h.frame hf hw)

/-- When the head leaves the queue and the jobs count of its entry falls, the counts are those of the rest (R12). -/
theorem jobsCounted_tail {s t : State} {j : Job} {rest : List Job} (h : jobsCounted s) (hq : s.queue = j :: rest)
    (ht : t.queue = rest)
    (hjobs : ∀ i, (t.entry i).jobs = (s.entry i).jobs - if j.body.entry? = some i then 1 else 0) : jobsCounted t := by
  intro i
  rw [hjobs, h i, hq, ht, List.filter_cons]
  by_cases hi : j.body.entry? = some i <;> simp [hi]

/-- An advance with the job at the head of the queue keeps the laws. -/
theorem Lawful.advance {job : Option Job} {s t : State} (h : Lawful s)
    (hjob : ∀ j, job = some j → s.queue.head? = some j) (ha : JobAdvance job s t) : Lawful t := by
  obtain ⟨hc, hr, hlen, hrun, hj, hq⟩ := h
  cases ha with
  | goesOn f work =>
    refine ⟨f.capture hc, f.refresh hr, by rwa [f.queue], (runningJobHeads_iff t).2 fun j htj => ?_, fun i => ?_, ?_⟩
    · rw [f.queue]
      rcases work with w | w | w
      · rw [w] at htj
        cases htj
      · exact hjob j (w ▸ htj)
      · exact (runningJobHeads_iff s).1 hrun j (w ▸ htj)
    · rw [f.jobs, f.queue, hj i]
    · rwa [f.phase, f.queue]
  | completes j hsome l =>
    obtain ⟨rest, hhead⟩ : ∃ rest, s.queue = j :: rest := List.head?_eq_some_iff.1 (hjob j hsome)
    have ht : t.queue = rest := by rw [l.queue, hhead]; rfl
    refine ⟨l.capture hc, l.refresh hr, ?_, (runningJobHeads_iff t).2 fun x hx => ?_,
      jobsCounted_tail hj hhead ht l.jobs, fun hp => ?_⟩
    · rw [hhead] at hlen
      simp only [queueBounded, decide_eq_true_eq, List.length_cons, ht] at hlen ⊢
      omega
    · rw [l.idle] at hx
      cases hx
    · rw [l.queue, hq (l.phase ▸ hp)]
      rfl
  | restarts h => exact h.lawful

/-- What is no business of the queue keeps the laws. -/
theorem Lawful.frame {s t : State} (h : Lawful s) (hf : LawFrame s t ∧ t.work = s.work) : Lawful t :=
  h.advance (job := none) (by simp) (.goesOn hf.1 (.inr (.inr hf.2)))

/-- An advance with the running job keeps the laws. -/
theorem Lawful.advance_running {s t : State} (h : Lawful s) (ha : JobAdvance s.work.job? s t) : Lawful t := by
  obtain ⟨-, -, -, hrun, -⟩ := id h
  exact h.advance ((runningJobHeads_iff s).1 hrun) ha

theorem jobAdvance_claims {job : Option Job} (s : State) (w : Work) (st : EngineStep) (hw : w.job? = job) :
    JobAdvance job s (s.claims w st) :=
  .goesOn ⟨id, id, rfl, rfl, fun _ => rfl⟩ (.inr (.inl hw))

theorem jobAdvance_idle (s : State) : JobAdvance none s s.idle := .goesOn ⟨id, id, rfl, rfl, fun _ => rfl⟩ (.inl rfl)

theorem jobAdvance_itemDone (s : State) : JobAdvance none s s.itemDone :=
  .goesOn ⟨id, id, rfl, rfl, fun _ => rfl⟩ (.inl rfl)

theorem JobAdvance.told {job : Option Job} {s t : State} (h : JobAdvance job s t) (c : Cls) :
    JobAdvance job s (t.tellCensus c) :=
  h.before ⟨id, id, rfl, rfl, fun _ => rfl⟩ rfl

/-- The jobs counts after a completion (R12). -/
theorem lowerJobsOf_jobs (s : State) (b : JobBody) (i : Nat) :
    ((s.lowerJobsOf b).entry i).jobs = (s.entry i).jobs - if b.entry? = some i then 1 else 0 := by
  unfold State.lowerJobsOf
  split
  · next k hk =>
    rw [hk, State.lowerJobs]
    by_cases hi : i = k
    · rw [hi, entry_setEntry_same, if_pos rfl]
    · rw [entry_setEntry_other _ _ _ _ hi, if_neg fun h => hi (Option.some.inj h).symm]
      rfl
  · next hk =>
    rw [hk, if_neg (by simp)]
    rfl

/-- A completed COMMIT's buffer is emptied, and nothing else (R51). -/
theorem emptyBufferOf_touches (s : State) (b : JobBody) : ∃ bs, s.emptyBufferOf b = { s with buffers := bs } := by
  unfold State.emptyBufferOf
  split <;> exact ⟨_, rfl⟩

theorem jobAdvance_completeJob (s : State) (j : Job) (r : JobResult) (g : Option Gen) (x : Bool) :
    JobAdvance (some j) s (s.completeJob j r g x) := by
  let popped : State := { s with queue := s.queue.drop 1, work := .idle }.pushResult j.port (j.record r g x)
  obtain ⟨bs, hb⟩ := emptyBufferOf_touches popped j.body
  obtain ⟨es, hl⟩ : ∃ es, (popped.emptyBufferOf j.body).lowerJobsOf j.body =
      { popped.emptyBufferOf j.body with entries := es } := by
    unfold State.lowerJobsOf
    split <;> exact ⟨_, rfl⟩
  have hjobs := lowerJobsOf_jobs (popped.emptyBufferOf j.body) j.body
  obtain ⟨hfree, hwork⟩ := lawFrame_freeNascent ((popped.emptyBufferOf j.body).lowerJobsOf j.body) j.body r
  refine JobAdvance.before (.completes j rfl ?_) hfree hwork
  rw [hl, hb] at hjobs ⊢
  exact ⟨id, id, rfl, rfl, rfl, hjobs⟩

end Sys2Proof.Machine
end

section
/-! What the engine's sequences do with their job (Figures 3-1, 4-1, 5-1 and 10-1): each goes on with it, completes it,
or carries out a RESTART deferred behind it. -/

namespace Sys2Proof.Machine

/-! ### COMMIT and REFRESH -/

theorem jobAdvance_writeDone (s : State) (job : Option Job) (w : WriteJob) : JobAdvance job s (s.writeDone job w) := by
  cases job with
  | none => exact (jobAdvance_idle s).told _
  | some j => exact (jobAdvance_completeJob s j _ _ _).told _

theorem jobAdvance_writeNoSpare (s : State) (job : Option Job) (w : WriteJob) :
    JobAdvance job s (s.writeNoSpare job w) := by
  cases job with
  | none => exact .after (lawFrame_unlist s w.entry) rfl (jobAdvance_idle _)
  | some j => exact jobAdvance_completeJob s j _ _ _

theorem jobAdvance_writeBadMarks (s : State) (job : Option Job) (w : WriteJob) (cells : List (Nat × CellName)) :
    JobAdvance job s (s.writeBadMarks job w cells) := by
  cases cells with
  | nil => exact jobAdvance_writeDone s job w
  | cons c rest => exact jobAdvance_claims s _ _ rfl

theorem jobAdvance_writeExhaustMarks (s : State) (job : Option Job) (w : WriteJob) (cells : List (Nat × CellName)) :
    JobAdvance job s (s.writeExhaustMarks job w cells) := by
  cases cells with
  | nil => exact jobAdvance_writeNoSpare s job w
  | cons c rest => exact jobAdvance_claims s _ _ rfl

theorem jobAdvance_writeOnSpare (s : State) (job : Option Job) (w : WriteJob) :
    JobAdvance job s (s.writeOnSpare job w) := by
  unfold State.writeOnSpare
  split
  · next p s' h =>
    obtain ⟨hframe, hwork⟩ := lawFrame_takeSpare h
    exact .after hframe hwork (jobAdvance_claims s' _ _ rfl)
  · exact jobAdvance_writeExhaustMarks s job w _

theorem jobAdvance_pairFails (s : State) (job : Option Job) (w : WriteJob) : JobAdvance job s (s.pairFails job w) := by
  refine .after ?frame ?work (jobAdvance_writeOnSpare _ job _)
  case frame => exact ⟨id, id, rfl, rfl, fun _ => rfl⟩
  case work => rfl

theorem jobAdvance_afterSwitch (s : State) (job : Option Job) (w : WriteJob) :
    JobAdvance job s (s.afterSwitch job w) := by
  unfold State.afterSwitch
  repeat' split
  · exact jobAdvance_writeBadMarks s job w _
  · exact jobAdvance_claims s _ _ rfl
  · exact jobAdvance_writeDone s job w

theorem jobAdvance_writeData (s : State) (job : Option Job) (w : WriteJob) (g : Nat) :
    JobAdvance job s (s.writeData job w g) := by
  unfold State.writeData
  split <;> exact jobAdvance_claims s _ _ rfl

theorem jobAdvance_writeRead (s : State) (job : Option Job) (w : WriteJob) (st : WriteStep) (r : Outcome × Data) :
    JobAdvance job s (s.writeRead job w st r) := by
  unfold State.writeRead
  repeat' split
  · exact jobAdvance_claims s _ _ rfl
  · exact jobAdvance_claims s _ _ rfl
  · exact jobAdvance_claims s _ _ rfl
  · exact jobAdvance_claims s _ _ rfl
  · exact jobAdvance_claims s _ _ rfl
  · exact jobAdvance_pairFails s job w
  · exact .refl job s

theorem jobAdvance_writeProgrammed (s : State) (job : Option Job) (w : WriteJob) (st : WriteStep) :
    JobAdvance job s (s.writeProgrammed job w st) := by
  unfold State.writeProgrammed
  split
  · exact jobAdvance_writeData s job w 0
  · exact jobAdvance_writeData s job w _
  · exact .refl job s

theorem jobAdvance_writeMarked (s : State) (job : Option Job) (w : WriteJob) (st : WriteStep) (took : Bool) :
    JobAdvance job s (s.writeMarked job w st took) := by
  unfold State.writeMarked
  repeat' split
  · exact .after (lawFrame_switch s w) rfl (jobAdvance_afterSwitch _ job w)
  · exact jobAdvance_pairFails s job w
  · exact jobAdvance_writeDone s job w
  · exact jobAdvance_writeBadMarks s job w _
  · exact jobAdvance_writeExhaustMarks s job w _
  · exact .refl job s

theorem jobAdvance_writeErased (s : State) (job : Option Job) (w : WriteJob) (st : WriteStep) (took : Bool) :
    JobAdvance job s (s.writeErased job w st took) := by
  unfold State.writeErased
  repeat' split
  · exact jobAdvance_claims s _ _ rfl
  · exact jobAdvance_pairFails s job w
  · exact .refl job s

theorem jobAdvance_startWrite (s : State) (job : Option Job) (i length : Nat) (payload : List Data) :
    JobAdvance job s (s.startWrite job i length payload) := by
  simp only [State.startWrite]
  split
  · exact jobAdvance_claims s _ _ rfl
  · exact jobAdvance_writeOnSpare s job _

theorem jobAdvance_refreshRead (s : State) (i p : Nat) (c : CellName) (g : Nat) (got : List Data)
    (r : Outcome × Data) : JobAdvance none s (s.refreshRead i p c g got r) := by
  unfold State.refreshRead
  repeat' split
  · exact .after (lawFrame_unlist s i) rfl (jobAdvance_idle _)
  · exact jobAdvance_claims s _ _ rfl
  · exact jobAdvance_startWrite s none i _ _

/-- A head of the refresh list is dropped, or its REFRESH, which is no job, begins. -/
theorem jobAdvance_startRefresh (s : State) (i : Nat) : JobAdvance none s (s.startRefresh i) := by
  unfold State.startRefresh
  repeat' split
  · exact .after (lawFrame_unlist s i) rfl (.refl _ _)
  · exact jobAdvance_claims s _ _ rfl
  · exact .after (lawFrame_unlist s i) rfl (.refl _ _)

/-! ### PATCH -/

theorem lawFrame_patchFlags (s : State) (w : PatchJob) (r : JobResult) :
    LawFrame s (s.patchFlags w r) ∧ (s.patchFlags w r).work = s.work := by
  unfold State.patchFlags
  split
  · exact ⟨(lawFrame_modLive s w.entry _).trans (lawFrame_setDamaged _ w.entry), rfl⟩
  · exact ⟨lawFrame_modLive s w.entry _, rfl⟩

theorem jobAdvance_patchDone (s : State) (j : Job) (w : PatchJob) (r : JobResult) :
    JobAdvance (some j) s (s.patchDone j w r) := by
  obtain ⟨hframe, hwork⟩ := lawFrame_patchFlags s w r
  rw [patchDone_eq]
  split
  · exact .after hframe hwork ((jobAdvance_completeJob _ j _ _ _).told _)
  · exact .after hframe hwork (jobAdvance_completeJob _ j _ _ _)

theorem jobAdvance_patchVerify (s : State) (j : Job) (w : PatchJob) (left : List Changed) :
    JobAdvance (some j) s (s.patchVerify j w left) := by
  cases left with
  | nil => exact jobAdvance_patchDone s j w _
  | cons c rest => exact jobAdvance_claims s _ _ rfl

theorem jobAdvance_patchProgram (s : State) (j : Job) (w : PatchJob) (left : List Changed) :
    JobAdvance (some j) s (s.patchProgram j w left) := by
  cases left with
  | nil => exact jobAdvance_patchVerify s j w _
  | cons c rest => exact jobAdvance_claims s _ _ rfl

theorem jobAdvance_patchForm (s : State) (j : Job) (w : PatchJob) : JobAdvance (some j) s (s.patchForm j w) := by
  simp only [State.patchForm]
  repeat' split
  · exact jobAdvance_patchDone s j w _
  · exact jobAdvance_patchProgram s j _ _
  · exact jobAdvance_claims s _ _ rfl
  · exact jobAdvance_patchDone s j w _

theorem jobAdvance_patchRead (s : State) (j : Job) (w : PatchJob) (st : PatchStep) (r : Outcome × Data) :
    JobAdvance (some j) s (s.patchRead j w st r) := by
  cases st with
  | read g =>
    simp only [State.patchRead]
    repeat' split
    · exact jobAdvance_patchDone s j w _
    · exact jobAdvance_claims s _ _ rfl
    · exact jobAdvance_patchForm s j _
  | verify c rest =>
    simp only [State.patchRead]
    generalize (if c.first = true then verified r c.new else r.2 == c.new) = passes
    cases passes
    · exact jobAdvance_patchDone s j w _
    · exact jobAdvance_patchVerify s j w rest
  | mark | program => exact .refl _ s

theorem jobAdvance_patchMarked (s : State) (j : Job) (w : PatchJob) (st : PatchStep) (took : Bool) :
    JobAdvance (some j) s (s.patchMarked j w st took) := by
  simp only [State.patchMarked]
  repeat' split
  · exact jobAdvance_patchProgram s j _ _
  · exact jobAdvance_patchDone s j _ _
  · exact .refl _ s

theorem jobAdvance_patchProgrammed (s : State) (j : Job) (w : PatchJob) (st : PatchStep) :
    JobAdvance (some j) s (s.patchProgrammed j w st) := by
  unfold State.patchProgrammed
  split
  · exact jobAdvance_patchProgram s j w _
  · exact .refl _ s

/-! ### RETIRE and FIX -/

theorem jobAdvance_retireDone (s : State) (job : Option Job) (w : RetireJob) :
    JobAdvance job s (s.retireDone job w) := by
  cases job with
  | none => exact .after (lawFrame_freeEntry s w.entry) rfl (jobAdvance_itemDone _)
  | some j => exact .after (lawFrame_freeEntry s w.entry) rfl ((jobAdvance_completeJob _ j _ _ _).told _)

theorem jobAdvance_retireMarkPair (s : State) (job : Option Job) (w : RetireJob) :
    JobAdvance job s (s.retireMarkPair job w) := by
  unfold State.retireMarkPair
  split
  · exact jobAdvance_claims s _ _ rfl
  · exact jobAdvance_retireDone s job w

theorem jobAdvance_retireRead (s : State) (job : Option Job) (w : RetireJob) (st : RetireStep) (r : Outcome × Data) :
    JobAdvance job s (s.retireRead job w st r) := by
  unfold State.retireRead
  split
  · split <;> exact jobAdvance_claims s _ _ rfl
  · exact .refl job s

theorem jobAdvance_retireMarked (s : State) (job : Option Job) (w : RetireJob) (st : RetireStep) :
    JobAdvance job s (s.retireMarked job w st) := by
  obtain ⟨hframe, hwork⟩ := lawFrame_becomeRetiring s w.entry
  cases st with
  | retireMark => exact .after hframe hwork (jobAdvance_claims _ _ _ rfl)
  | badOther | badA => exact jobAdvance_claims s _ _ rfl
  | badRetired => exact jobAdvance_retireMarkPair s job w
  | badB => exact jobAdvance_retireDone s job w
  | classify | eraseOther | eraseRetired => exact .refl job s

theorem jobAdvance_retireErased (s : State) (job : Option Job) (w : RetireJob) (st : RetireStep) (took : Bool) :
    JobAdvance job s (s.retireErased job w st took) := by
  have hframe : LawFrame s (s.addBad w.pair) := ⟨id, id, rfl, rfl, fun _ => rfl⟩
  simp only [State.retireErased]
  repeat' split
  · exact jobAdvance_claims s _ _ rfl
  · exact .after hframe rfl (jobAdvance_claims _ _ _ rfl)
  · exact jobAdvance_retireMarkPair s job w
  · exact .after hframe rfl (jobAdvance_claims _ _ _ rfl)
  · exact .refl job s

theorem jobAdvance_fixMarked (s : State) (j : Job) (i : Nat) : JobAdvance (some j) s (s.fixMarked j i) :=
  .after ((lawFrame_modLive s i _).trans (lawFrame_unlist _ i)) rfl (jobAdvance_completeJob _ j _ _ _)

/-! ### SETUP -/

/-- A SETUP job completes, and a RESTART deferred behind it is carried out (R152). -/
theorem jobAdvance_setupDone (s : State) (j : Job) (w : SetupJob) : JobAdvance (some j) s (s.setupDone j w) := by
  unfold State.setupDone State.deferredRestart
  split
  · exact .restarts (noJobs_clearTo _ _)
  · exact jobAdvance_completeJob s j _ _ _

theorem jobAdvance_storageFailure (s : State) (j : Job) (w : SetupJob) :
    JobAdvance (some j) s (s.storageFailure j w) := by
  have hframe : LawFrame s ((s.setupSwitch w s.setup.currentCell).setFlagBoth .setupDamaged) :=
    ⟨id, id, rfl, rfl, fun _ => rfl⟩
  exact .after hframe rfl (jobAdvance_setupDone _ j w)

theorem jobAdvance_setupInstall (s : State) (j : Job) (w : SetupJob) : JobAdvance (some j) s (s.setupInstall j w) := by
  have hframe : LawFrame s (s.setupSwitch w (some w.idle)) := ⟨id, id, rfl, rfl, fun _ => rfl⟩
  simp only [State.setupInstall]
  split <;> exact .after hframe rfl (jobAdvance_claims _ _ _ rfl)

theorem jobAdvance_setupRead (s : State) (j : Job) (w : SetupJob) (st : SetupStep) (r : Outcome × Data) :
    JobAdvance (some j) s (s.setupRead j w st r) := by
  unfold State.setupRead
  repeat' split
  · exact jobAdvance_claims s _ _ rfl
  · exact jobAdvance_claims s _ _ rfl
  · exact jobAdvance_claims s _ _ rfl
  · exact jobAdvance_claims s _ _ rfl
  · exact jobAdvance_claims s _ _ rfl
  · exact jobAdvance_storageFailure s j w
  · exact jobAdvance_claims s _ _ rfl
  · exact jobAdvance_claims s _ _ rfl
  · exact jobAdvance_setupDone s j w
  · exact .refl _ s

theorem jobAdvance_setupProgrammed (s : State) (j : Job) (w : SetupJob) (st : SetupStep) :
    JobAdvance (some j) s (s.setupProgrammed j w st) := by
  unfold State.setupProgrammed
  split
  · exact jobAdvance_claims s _ _ rfl
  · exact jobAdvance_claims s _ _ rfl
  · exact .refl _ s

theorem jobAdvance_setupMarked (s : State) (j : Job) (w : SetupJob) (st : SetupStep) (took : Bool) :
    JobAdvance (some j) s (s.setupMarked j w st took) := by
  unfold State.setupMarked
  repeat' split
  · exact jobAdvance_claims s _ _ rfl
  · exact jobAdvance_setupInstall s j w
  · exact jobAdvance_storageFailure s j w
  · exact jobAdvance_setupInstall s j w
  · exact jobAdvance_setupDone s j w
  · exact .refl _ s

theorem jobAdvance_setupErased (s : State) (j : Job) (w : SetupJob) (st : SetupStep) (took : Bool) :
    JobAdvance (some j) s (s.setupErased j w st took) := by
  unfold State.setupErased
  repeat' split
  · exact jobAdvance_claims s _ _ rfl
  · exact jobAdvance_storageFailure s j w
  · exact .refl _ s

/-! ### Recovery items, which are no jobs -/

theorem jobAdvance_debrisErased (s : State) (p : Nat) (c : CellName) (st : DebrisStep) (took : Bool) :
    JobAdvance none s (s.debrisErased p c st took) := by
  obtain ⟨hframe, hwork⟩ := lawFrame_debrisPairFails s p c
  unfold State.debrisErased
  repeat' split
  · exact jobAdvance_itemDone s
  · exact .after hframe hwork (jobAdvance_claims _ _ _ rfl)
  · exact .refl _ s

theorem jobAdvance_debrisMarked (s : State) (p : Nat) (c : CellName) (st : DebrisStep) :
    JobAdvance none s (s.debrisMarked p c st) := by
  unfold State.debrisMarked
  repeat' split
  · exact jobAdvance_itemDone s
  · exact jobAdvance_claims s _ _ rfl
  · exact jobAdvance_itemDone s
  · exact .refl _ s

theorem jobAdvance_markBadFrom (s : State) (p : Nat) (cells : List CellName) :
    JobAdvance none s (s.markBadFrom p cells) := by
  induction cells with
  | nil => exact jobAdvance_itemDone s
  | cons c rest ih =>
    unfold State.markBadFrom
    split
    · exact ih
    · exact jobAdvance_claims s _ _ rfl

theorem jobAdvance_markBadMarked (s : State) (p : Nat) (c : CellName) : JobAdvance none s (s.markBadMarked p c) := by
  cases c with
  | a => exact jobAdvance_markBadFrom s p _
  | b => exact jobAdvance_itemDone s

theorem jobAdvance_startItem (s : State) (item : RecoveryItem) : JobAdvance none s (s.startItem item) := by
  cases item with
  | eraseDebris | supersede | finishRetire => exact jobAdvance_claims s _ _ rfl
  | markBad p => exact jobAdvance_markBadFrom s p _

/-! ### The start of a job and the ends of the array steps -/

/-- A job that passed its start checks begins, or completes for want of a current cell. -/
theorem jobAdvance_startSequence (s : State) (j : Job) : JobAdvance (some j) s (s.startSequence j) := by
  unfold State.startSequence
  split
  · exact jobAdvance_startWrite s (some j) _ _ _
  · split
    · exact jobAdvance_claims s _ _ rfl
    · exact jobAdvance_completeJob s j _ _ _
  · split
    · exact jobAdvance_claims s _ _ rfl
    · exact jobAdvance_completeJob s j _ _ _
  · split
    · exact jobAdvance_claims s _ _ rfl
    · exact jobAdvance_completeJob s j _ _ _
  · exact jobAdvance_claims s _ _ rfl

/-- A job is started, or completes at its start checks (R62). -/
theorem jobAdvance_startJob (s : State) (j : Job) : JobAdvance (some j) s (s.startJob j) := by
  unfold State.startJob
  split
  · exact jobAdvance_completeJob s j _ _ _
  · exact jobAdvance_startSequence s j

theorem jobAdvance_afterRead (s : State) (r : Outcome × Data) : JobAdvance s.work.job? s (s.afterRead r) := by
  cases hw : s.work <;> simp only [State.afterRead, hw]
  case write job w st => exact jobAdvance_writeRead s job w st r
  case refreshRead i p c g got => exact jobAdvance_refreshRead s i p c g got r
  case patch j w st => exact jobAdvance_patchRead s j w st r
  case retire job w st => exact jobAdvance_retireRead s job w st r
  case setup j w st => exact jobAdvance_setupRead s j w st r
  all_goals exact .refl _ s

theorem jobAdvance_afterProgram (s : State) : JobAdvance s.work.job? s s.afterProgram := by
  cases hw : s.work <;> simp only [State.afterProgram, hw]
  case write job w st => exact jobAdvance_writeProgrammed s job w st
  case patch j w st => exact jobAdvance_patchProgrammed s j w st
  case setup j w st => exact jobAdvance_setupProgrammed s j w st
  all_goals exact .refl _ s

theorem jobAdvance_afterMark (s : State) (took : Bool) : JobAdvance s.work.job? s (s.afterMark took) := by
  cases hw : s.work <;> simp only [State.afterMark, hw]
  case write job w st => exact jobAdvance_writeMarked s job w st took
  case patch j w st => exact jobAdvance_patchMarked s j w st took
  case retire job w st => exact jobAdvance_retireMarked s job w st
  case fix j i => exact jobAdvance_fixMarked s j i
  case setup j w st => exact jobAdvance_setupMarked s j w st took
  case eraseDebris p c st => exact jobAdvance_debrisMarked s p c st
  case supersede => exact jobAdvance_itemDone s
  case markBad p c => exact jobAdvance_markBadMarked s p c
  all_goals exact .refl _ s

theorem jobAdvance_afterErase (s : State) (took : Bool) : JobAdvance s.work.job? s (s.afterErase took) := by
  cases hw : s.work <;> simp only [State.afterErase, hw]
  case write job w st => exact jobAdvance_writeErased s job w st took
  case retire job w st => exact jobAdvance_retireErased s job w st took
  case setup j w st => exact jobAdvance_setupErased s j w st took
  case eraseDebris p c st => exact jobAdvance_debrisErased s p c st took
  all_goals exact .refl _ s

end Sys2Proof.Machine
end

section
/-! What the commands and the events do to the laws of the bounds and of the queue: the acceptance of a job (R55, R58,
R59), the scan, which runs without jobs, the resets, and the rest, which is no business of the queue. -/

namespace Sys2Proof.Machine

/-! ### Taking a frame -/

theorem lawful_arrive {s taken : State} (p : Port) (h : Lawful s) (ht : Lawful taken) : Lawful (s.arrive p taken) := by
  unfold State.arrive
  repeat' split
  · exact h
  · exact h
  · exact ht

/-- A command keeps the laws when its action does in a part that is READY. -/
theorem lawful_command {α : Type} {s : State} {p : Port} {args : Option α} {act : α → State} (h : Lawful s)
    (hact : ∀ a, s.phase = .ready → Lawful (act a)) : Lawful (s.command p args act) := by
  refine lawful_arrive p h ?_
  split
  · exact h
  · next a =>
    by_cases hn : s.notReady = true
    · rw [if_pos hn]
      exact h
    · rw [if_neg hn]
      exact hact a (by simpa using fun hp : s.phase ≠ .ready => hn (by simp [State.notReady, hp]))

theorem lawful_unless {s done : State} {p : Port} {failed : Option Status} (h : Lawful s)
    (hdone : failed = none → Lawful done) : Lawful (s.unless p failed done) := by
  cases failed with
  | some st => exact h
  | none => exact hdone rfl

theorem lawful_ite {c : Prop} [Decidable c] {t u : State} (ht : Lawful t) (hu : Lawful u) :
    Lawful (if c then t else u) := by
  split
  · exact ht
  · exact hu

/-! ### A job is accepted (R12, R55) -/

/-- A job joins a queue that has room, when the jobs count of the entry it names has been raised for it. -/
theorem lawful_enqueue {s : State} {p : Port} {body : JobBody} (es : Sparse Entry) (cn : Option CensusRun)
    (h : Lawful s) (hready : s.phase = .ready) (hroom : s.queue.length < 8)
    (hjobs : ∀ i, (sparseGet homeEntry es i).jobs = (s.entry i).jobs + if body.entry? = some i then 1 else 0) :
    Lawful ({ s with entries := es, census := cn }.enqueue p body) := by
  obtain ⟨hc, hr, -, hrun, hj, -⟩ := h
  refine ⟨hc, hr, ?_, (runningJobHeads_iff _).2 fun j hw => ?_, fun i => ?_, fun hp => absurd hready hp⟩
  · show decide ((s.queue ++ [_]).length ≤ 8) = true
    simpa using Nat.succ_le_of_lt hroom
  · show (s.queue ++ [_]).head? = some j
    rw [List.head?_append, (runningJobHeads_iff s).1 hrun j hw]
    rfl
  · have hcount := hj i
    show (sparseGet homeEntry es i).jobs = ((s.queue ++ [_]).filter _).length
    rw [hjobs, hcount, List.filter_append, List.length_append]
    by_cases hb : body.entry? = some i <;> simp [State.newJob, hb]

theorem raiseJobs_jobs (s : State) (i k : Nat) :
    ((s.raiseJobs i).entry k).jobs = (s.entry k).jobs + if some i = some k then 1 else 0 := by
  by_cases hk : k = i
  · rw [hk, State.raiseJobs, entry_setEntry_same, if_pos rfl]
  · rw [State.raiseJobs, entry_setEntry_other s i k _ hk, if_neg fun h => hk (Option.some.inj h).symm]
    rfl

/-- A create makes the jobs count of an entry without jobs 1 (R8). -/
theorem allocate_jobs (s : State) (i k : Nat) (key : Key) (c : Cls) (h0 : (s.entry i).jobs = 0) :
    ((s.allocate i key c).entry k).jobs = (s.entry k).jobs + if some i = some k then 1 else 0 := by
  by_cases hk : k = i
  · rw [hk, State.allocate, entry_setEntry_same, if_pos rfl, h0]
  · rw [State.allocate, entry_setEntry_other s i k _ hk, if_neg fun h => hk (Option.some.inj h).symm]
    rfl

/-- A queue is its started and its waiting jobs. -/
theorem startedJobs_append_waitingJobs (s : State) : s.startedJobs ++ s.waitingJobs = s.queue := by
  unfold State.startedJobs State.waitingJobs
  split
  · exact List.take_append_drop 1 s.queue
  · rfl

/-- The jobs counts rest on the entries the queued jobs name. -/
theorem jobsCounted_iff (s : State) :
    jobsCounted s ↔
      ∀ i, (s.entry i).jobs = ((s.queue.map fun j => j.body.entry?).filter fun e => e == some i).length := by
  simp only [jobsCounted, List.filter_map, List.length_map, Function.comp_def]

/-- A job that takes the place of one that waits for the same entry keeps the laws (R59). -/
theorem lawful_coalesce {s : State} {p : Port} {body : JobBody} {old : Job} (h : Lawful s)
    (hsame : old.body.entry? = body.entry?) : Lawful (s.coalesce p body old) := by
  let new : Job := s.newJob p body
  let queue : List Job := s.startedJobs ++ s.waitingJobs.map fun j => if j = old then new else j
  have hnames : queue.map (fun j => j.body.entry?) = s.queue.map fun j => j.body.entry? := by
    have hswap : ∀ j : Job, (if j = old then new else j).body.entry? = j.body.entry? := by
      intro j
      split
      · next hj => rw [hj, hsame]; rfl
      · rfl
    simp only [queue, List.map_append, List.map_map, Function.comp_def, hswap]
    rw [← List.map_append, startedJobs_append_waitingJobs]
  have hlength : queue.length = s.queue.length := by simpa using congrArg List.length hnames
  obtain ⟨hc, hr, hlen, hrun, hj, hq⟩ := h
  have hheld : Lawful { s with queue := queue } := by
    refine ⟨hc, hr, ?_, (runningJobHeads_iff _).2 fun j hw => ?_, (jobsCounted_iff _).2 fun i => ?_, fun hp => ?_⟩
    · simpa only [queueBounded, hlength] using hlen
    · have hhead : s.queue.head? = some j := (runningJobHeads_iff s).1 hrun j hw
      obtain ⟨rest, hcons⟩ := List.head?_eq_some_iff.1 hhead
      have hstarted : s.startedJobs = [j] := by
        rw [State.startedJobs, show s.work.job? = some j from hw, hcons]
        rfl
      show queue.head? = some j
      simp only [queue, hstarted]
      rfl
    · show (s.entry i).jobs = ((queue.map fun j => j.body.entry?).filter fun e => e == some i).length
      rw [hnames]
      exact (jobsCounted_iff s).1 hj i
    · exact List.eq_nil_of_length_eq_zero (by rw [hlength, hq hp]; rfl)
  obtain ⟨bs, hb⟩ := emptyBufferOf_touches
    ({ s with queue := queue }.pushResult old.port (old.record .superseded none false)) old.body
  have hcoalesce : s.coalesce p body old =
      ((({ s with queue := queue }.pushResult old.port (old.record .superseded none false)).emptyBufferOf
        old.body).modPort p fun ps => ps.accept body.entry?) := rfl
  rw [hcoalesce, hb]
  exact hheld

/-- A COMMIT that coalesces takes the place of a job that names the same entry. -/
theorem coalesced_entry {s : State} {i : Nat} {old : Job} (h : s.coalesced i = some old) :
    old.body.entry? = some i := by
  unfold State.coalesced at h
  split at h
  · next j hj =>
    split at h
    · cases h
      simpa using List.find?_some hj
    · cases h
  · cases h

/-- A COMMIT that passed check 8 and does not coalesce finds room in the queue (R58). -/
theorem room_of_commitCapacity {s : State} {p : Port} {i : Nat}
    (hcap : ∀ x ∈ s.commitCapacity p i, x.1 = false) (hc : s.coalesced i = none) : s.queue.length < 8 := by
  simp only [State.commitCapacity, List.forall_mem_cons, hc] at hcap
  obtain ⟨hwait, hfull, -⟩ := hcap
  cases hw : s.waitingFor i with
  | some j => simp [hw] at hwait
  | none => simpa [hw, State.queueFull] using hfull

/-- A create that waits behind no other job for its entry does not coalesce. -/
theorem coalesced_none_of_waitingFor {s : State} {i : Nat} (h : s.waitingFor i = none) : s.coalesced i = none := by
  simp only [State.coalesced, h]

/-- The acceptance of a COMMIT keeps the laws: a create is allocated an entry without jobs, another COMMIT joins the
queue, or takes the place of one for the same entry. -/
theorem lawful_acceptCommit {s : State} {p : Port} {t : Target} {a : CommitArgs} {b : Fin 8} (h : Lawful s)
    (hready : s.phase = .ready) (hcap : ∀ x ∈ s.commitCapacity p t.entry, x.1 = false)
    (hfresh : ∀ i c, t = .fresh i c → (s.entry i).jobs = 0) : Lawful (s.acceptCommit p t a b) := by
  let u : State := s.setBuffer b (s.buffers[b]).queued
  have hu : Lawful u := h
  cases t with
  | fresh i c =>
    have h0 := hfresh i c rfl
    obtain ⟨-, -, -, -, hcounted, -⟩ := id h
    have hroom := room_of_commitCapacity hcap (coalesced_none_of_waitingFor (waitingFor_eq_none s i hcounted h0))
    exact lawful_enqueue (s := u) _ _ hu hready hroom fun k => allocate_jobs u i k a.key c h0
  | existing i =>
    simp only [State.acceptCommit]
    split
    · next old hold => exact lawful_coalesce (s := u) hu (coalesced_entry hold)
    · next hnone =>
      exact lawful_enqueue (s := u) _ u.census hu hready (room_of_commitCapacity hcap hnone) fun k =>
        raiseJobs_jobs u i k

/-- Check 2 of a COMMIT allocates an entry without jobs (R15). -/
theorem commitTarget_fresh_jobs {s : State} {a : CommitArgs} {i : Nat} {c : Cls}
    (h : s.commitTarget a = .ok (.fresh i c)) : (s.entry i).jobs = 0 := by
  unfold State.commitTarget at h
  split at h
  · split at h
    · next hi _ =>
      cases h
      obtain ⟨-, -, hjobs, -⟩ := (allocatable_eq_some s i).1 hi
      exact hjobs
    · cases h
  · split at h <;> cases h

theorem lawful_takeCommit {s : State} (p : Port) (args : Bytes) (h : Lawful s) : Lawful (s.takeCommit p args) := by
  refine lawful_command h fun a hready => ?_
  split
  · exact h
  · refine lawful_unless h fun _ => ?_
    split
    · exact h
    · next t ht =>
      refine lawful_unless h fun hchecks => lawful_acceptCommit h hready (fun x hx => ?_) fun i c hic => ?_
      · exact (firstFailing_eq_none _).1 hchecks x (List.mem_append_right _ hx)
      · exact commitTarget_fresh_jobs (hic ▸ ht)

/-- A job command of another kind that passed check 8 finds room in the queue (R58). -/
theorem room_of_jobCapacity {s : State} {p : Port} {waiting : Bool}
    (hcap : ∀ x ∈ s.jobCapacity p waiting, x.1 = false) : s.queue.length < 8 := by
  simp only [State.jobCapacity, List.forall_mem_cons] at hcap
  obtain ⟨-, hfull, -⟩ := hcap
  simpa [State.queueFull] using hfull

theorem lawful_takeEntryJob {s : State} {p : Port} {i : Nat} {permitted : ClassPolicy → Bool} {body : JobBody}
    (h : Lawful s) (hready : s.phase = .ready) (hb : body.entry? = some i) :
    Lawful (s.takeEntryJob p i permitted body) := by
  refine lawful_unless h fun hchecks => ?_
  have hcap := fun x hx => (firstFailing_eq_none _).1 hchecks x (List.mem_append_right _ hx)
  exact lawful_enqueue _ s.census h hready (room_of_jobCapacity hcap) fun k => hb ▸ raiseJobs_jobs s i k

theorem lawful_takePatch {s : State} (p : Port) (args : Bytes) (h : Lawful s) : Lawful (s.takePatch p args) := by
  refine lawful_command h fun a hready => lawful_unless h fun _ => ?_
  repeat' split
  · exact h
  · exact h
  · exact lawful_takeEntryJob h hready rfl

theorem lawful_takeRetire {s : State} (p : Port) (args : Bytes) (h : Lawful s) : Lawful (s.takeRetire p args) := by
  refine lawful_command h fun a hready => ?_
  repeat' split
  · exact h
  · exact lawful_takeEntryJob h hready rfl
  · exact h

theorem lawful_takeFix {s : State} (p : Port) (args : Bytes) (h : Lawful s) : Lawful (s.takeFix p args) := by
  refine lawful_command h fun a hready => ?_
  repeat' split
  · exact h
  · exact lawful_takeEntryJob h hready rfl
  · exact h

/-- A SETUP job names no entry. -/
theorem lawful_takeSetupWrite {s : State} (p : Port) (args : Bytes) (h : Lawful s) :
    Lawful (s.takeSetupWrite p args) := by
  refine lawful_command h fun a hready => lawful_unless h fun hchecks => ?_
  have hcap := fun x hx => (firstFailing_eq_none _).1 hchecks x (List.mem_append_right _ hx)
  exact lawful_enqueue s.entries s.census h hready (room_of_jobCapacity hcap) fun _ => rfl

/-! ### The array and its arbiter -/

theorem lawful_grant {s : State} (h : Lawful s) : Lawful s.grant :=
  h.frame (lawFrame_of_arbiterOnly (arbiterOnly_grants _ _ s))

theorem lawful_stepBoundary {s : State} (h : Lawful s) : Lawful s.stepBoundary :=
  h.frame (lawFrame_of_arbiterOnly (arbiterOnly_stepBoundary s))

theorem lawful_upsets {s : State} (l : Loc) (us : List Upset) (h : Lawful s) : Lawful (s.upsets l us) :=
  h.frame (lawFrame_of_arrayOnly (arrayOnly_upsets s l us))

theorem lawful_report {s : State} (r : Report) (h : Lawful s) : Lawful (s.report r) := h.frame (lawFrame_report s r)

theorem lawful_takeUp {s : State} (c : CensusRun) (h : Lawful s) : Lawful (s.takeUp c) := by
  obtain ⟨a, cn, pm, ps, e⟩ := takeUp_touches s c
  rw [e]
  exact h

theorem lawful_claimRead {s : State} (p : Port) (c : ReadClaim) (h : Lawful s) : Lawful (s.claimRead p c) := by
  have hwaits : Lawful { s with arb := s.arb.setWaiting p (some c) } := h
  exact lawful_grant (hwaits.frame (lawFrame_of_arbiterOnly (arbiterOnly_suspendFor _)))

theorem lawful_takeRead {s : State} (p : Port) (args : Bytes) (h : Lawful s) : Lawful (s.takeRead p args) := by
  refine lawful_command h fun a _ => ?_
  repeat' split
  · exact lawful_claimRead p _ (s := s.modPort p _) h
  · exact h
  · exact h

theorem lawful_takeCensus {s : State} (p : Port) (args : Bytes) (h : Lawful s) : Lawful (s.takeCensus p args) := by
  refine lawful_command h fun b _ => ?_
  repeat' split
  · exact h
  · exact h
  · exact lawful_grant (lawful_takeUp _ (s := { s with arb := s.arb.withoutCensus }.answer p .ok []) h)

theorem lawful_reportReads {s : State} (g : ReadGrant) (reads : List (Nat × Outcome × Data)) (h : Lawful s) :
    Lawful (s.reportReads g reads) := by
  unfold State.reportReads
  induction reads generalizing s with
  | nil => exact h
  | cons r rest ih => exact ih (lawful_report _ h)

theorem lawful_endRead {s : State} (us : List Upset) (h : Lawful s) : Lawful (s.endRead us) := by
  unfold State.endRead
  split
  · next g _ =>
    have hread := lawful_reportReads g ((s.upsets g.loc us).grantReads g) (lawful_upsets g.loc us h)
    exact lawful_grant (s := { State.answer _ g.port .ok _ with arb := _ }) hread
  · exact h

theorem lawful_censusRead {s : State} (g : Nat) (r : Outcome × Data) (h : Lawful s) : Lawful (s.censusRead g r) := by
  unfold State.censusRead
  split
  · exact h
  · split
    · exact h
    · dsimp only
      generalize (if g = 0 then _ else _ : CensusRun) = c
      generalize (if g = 0 then _ else _ : CensusEntry) = e
      exact lawful_ite h (lawful_takeUp _ h)

theorem lawful_endCensusRead {s : State} (us : List Upset) (h : Lawful s) : Lawful (s.endCensusRead us) := by
  unfold State.endCensusRead
  split
  · next l g e counts _ =>
    have hread : Lawful (s.upsets l us |>.report ⟨((s.upsets l us).readGranule l g).1, l, g, some e, .census⟩) :=
      lawful_report _ (lawful_upsets l us h)
    refine Lawful.frame ?_ (lawFrame_of_arbiterOnly (arbiterOnly_grants _ _ _))
    exact lawful_ite (lawful_censusRead g _ hread) hread
  · exact h

/-! ### The engine -/

theorem lawful_jobStarts {s : State} (h : Lawful s) : Lawful s.jobStarts := by
  unfold State.jobStarts
  split
  · next j rest _ _ hq =>
    refine lawful_grant (h.advance (fun x hx => ?_) (jobAdvance_startJob s j))
    rw [hq, ← hx]
    rfl
  · exact h

theorem lawful_refreshStarts {s : State} (h : Lawful s) : Lawful s.refreshStarts := by
  unfold State.refreshStarts
  split
  · exact lawful_grant (h.advance (by simp) (jobAdvance_startRefresh s _))
  · exact h

theorem lawful_recoveryStarts {s : State} (h : Lawful s) : Lawful s.recoveryStarts := by
  unfold State.recoveryStarts
  split
  · exact lawful_grant (h.advance (by simp) (jobAdvance_startItem s _))
  · exact h

/-- The end of an array step that left the laws: the step leaves the array, the engine advances, a boundary follows. -/
theorem lawful_stepEnd {t u : State} (ht : Lawful t) (h : JobAdvance t.release.work.job? t.release u) :
    Lawful u.stepBoundary :=
  lawful_stepBoundary (Lawful.advance_running (s := t.release) ht h)

theorem lawful_endEngineRead {s : State} (us : List Upset) (h : Lawful s) : Lawful (s.endEngineRead us) := by
  unfold State.endEngineRead
  split
  · exact lawful_stepEnd (lawful_report _ (lawful_upsets _ us h)) (jobAdvance_afterRead _ _)
  · exact h

theorem lawful_endProgram {s : State} (us : List Upset) (h : Lawful s) : Lawful (s.endProgram us) := by
  unfold State.endProgram
  split
  · next l g d _ =>
    have hstep : Lawful (s.programEnded l g d us) := h.frame (lawFrame_of_arrayOnly (programEnded_touches s l g d us))
    exact lawful_stepEnd hstep (jobAdvance_afterProgram _)
  · exact h

theorem lawful_endMark {s : State} (us : List Upset) (h : Lawful s) : Lawful (s.endMark us) := by
  unfold State.endMark
  split
  · next l m _ =>
    have hstep : Lawful (s.markEnded l m us) := h.frame (lawFrame_of_arrayOnly (arrayOnly_markEnded s l m us))
    exact lawful_stepEnd hstep (jobAdvance_afterMark _ _)
  · exact h

theorem lawful_endErase {s : State} (us : List Upset) (h : Lawful s) : Lawful (s.endErase us) := by
  unfold State.endErase
  split
  · next l _ =>
    have hstep : Lawful (s.eraseEnded l us) := h.frame (lawFrame_of_arrayOnly (arrayOnly_eraseEnded s l us))
    exact lawful_stepEnd hstep (jobAdvance_afterErase _ _)
  · exact h

/-! ### The scan, which runs without jobs (R153) -/

/-- A write of an entry without jobs. -/
theorem NoJobs.setEntry {s : State} (h : NoJobs s) (i : Nat) {e : Entry} (he : e.jobs = 0) :
    NoJobs (s.setEntry i e) := by
  obtain ⟨hc, hr, hq, hw, hj⟩ := h
  refine ⟨hc, hr, hq, hw, fun k => ?_⟩
  by_cases hk : k = i
  · rw [hk, entry_setEntry_same, he]
  · rw [entry_setEntry_other s i k e hk, hj]

theorem NoJobs.jobs {s : State} (h : NoJobs s) (i : Nat) : (s.entry i).jobs = 0 := by
  obtain ⟨-, -, -, -, hj⟩ := h
  exact hj i

theorem noJobs_installClaim {s : State} (c : Claim) (p : Nat) (h : NoJobs s) : NoJobs (s.installClaim c p) :=
  h.setEntry c.entry rfl

theorem noJobs_takeClaim {s : State} (c : Claim) (p : Nat) (h : NoJobs s) : NoJobs (s.takeClaim c p) := by
  simp only [State.takeClaim, State.meetClaim]
  repeat' split
  · exact noJobs_installClaim c p h
  · exact noJobs_installClaim _ p h
  · exact h.setEntry c.entry (h.jobs c.entry)
  · exact noJobs_installClaim c p h

theorem noJobs_takeResolved {s : State} (p : Nat) (r : Resolved) (h : NoJobs s) : NoJobs (s.takeResolved p r) := by
  have hbad : NoJobs (if r.bad then (s.addBad p).leavePool p else s) := by
    split <;> exact h
  simp only [State.takeResolved]
  generalize (if r.bad then (s.addBad p).leavePool p else s) = u at hbad
  split
  · exact noJobs_takeClaim _ p (s := { u with recovery := u.recovery ++ r.items }) hbad
  · exact hbad

theorem noJobs_foundCell {s : State} (p : Nat) (c : CellName) (f : CellFound) (h : NoJobs s) :
    NoJobs (s.foundCell p c f) := by
  cases c with
  | a => exact h
  | b =>
    simp only [State.foundCell, State.foundSecond]
    split
    · exact h
    · exact noJobs_takeResolved p _ h

theorem noJobs_nextSetup {s : State} (c : CellName) (h : NoJobs s) : NoJobs (s.nextSetup c) := by
  cases c with
  | a => exact h
  | b =>
    simp only [State.nextSetup, State.resolveSetup]
    split <;> exact h

/-- A setup cell has been read, and the scan goes on with what was found of it. -/
theorem noJobs_foundSetup {s : State} (c : CellName) (f : SetupFound) (h : NoJobs s) :
    NoJobs ((s.setSetupFound c f).nextSetup c) :=
  noJobs_nextSetup c (s := s.setSetupFound c f) h

theorem noJobs_scanSetupCell {s : State} (c : CellName) (r : Outcome × Data) (h : NoJobs s) :
    NoJobs (s.scanSetupCell c r) := by
  simp only [State.scanSetupCell]
  generalize (if s.scan.now.granule = 0 then setupHeaderOf r else none) = gen
  repeat' split
  · exact h
  · exact h
  · exact noJobs_foundSetup c _ h

theorem noJobs_scanSetupContents {s : State} (c : CellName) (r : Outcome × Data) (h : NoJobs s) :
    NoJobs (s.scanSetupContents c r) := by
  unfold State.scanSetupContents
  split
  · exact noJobs_foundSetup c _ h
  · exact noJobs_nextSetup c h

theorem noJobs_scanCell {s : State} (p : Nat) (c : CellName) (r : Outcome × Data) (h : NoJobs s) :
    NoJobs (s.scanCell p c r) := by
  simp only [State.scanCell]
  split
  · exact h
  · exact noJobs_foundCell p c _ h

theorem noJobs_scanAdvance {s : State} (r : Outcome × Data) (h : NoJobs s) : NoJobs (s.scanAdvance r) := by
  unfold State.scanAdvance
  split
  · exact noJobs_scanSetupCell _ r h
  · exact noJobs_scanSetupContents _ r h
  · exact noJobs_scanCell _ _ r h
  · exact h

theorem noJobs_scanRead {s : State} (us : List Upset) (h : NoJobs s) : NoJobs (s.scanRead us) := by
  unfold State.scanRead
  split
  · exact h
  · next l g e _ =>
    obtain ⟨hupsets, hw⟩ := lawFrame_of_arrayOnly (arrayOnly_upsets s l us)
    obtain ⟨hreport, hw'⟩ := lawFrame_report (s.upsets l us) ⟨((s.upsets l us).readGranule l g).1, l, g, e, .scan⟩
    exact noJobs_scanAdvance _ ((h.frame hupsets hw).frame hreport hw')

theorem noJobs_scanRest (n : Nat) {s : State} (h : NoJobs s) : NoJobs (State.scanRest n s) := by
  induction n generalizing s with
  | zero => exact h
  | succ n ih =>
    unfold State.scanRest
    split
    · exact h
    · exact ih (noJobs_scanRead [] h)

theorem noJobs_dropClaim {s : State} (i : Nat) (e : Entry) (h : NoJobs s) : NoJobs (s.dropClaim i e) := by
  have hhome : NoJobs (s.setEntry i (homeEntry i)) := h.setEntry i rfl
  simp only [State.dropClaim]
  split <;> exact hhome

theorem noJobs_dropDoubles (es : List (Nat × Entry)) (seen : List Key) {s : State} (h : NoJobs s) :
    NoJobs (s.dropDoubles seen es) := by
  induction es generalizing s seen with
  | nil => exact h
  | cons x rest ih =>
    obtain ⟨i, e⟩ := x
    unfold State.dropDoubles
    repeat' split
    · exact ih seen (noJobs_dropClaim i e h)
    · exact ih _ h
    · exact ih seen h

theorem noJobs_withoutHome (taken ps : List Nat) {s : State} (h : NoJobs s) : NoJobs (s.withoutHome taken ps) := by
  induction ps generalizing s with
  | nil => exact h
  | cons p rest ih =>
    unfold State.withoutHome
    split
    · exact ih (h.setEntry p (h.jobs p))
    · exact ih h

theorem noJobs_enterReady {s : State} (h : NoJobs s) : NoJobs s.enterReady := by
  have hdrop := noJobs_dropDoubles s.entries [] h
  exact noJobs_withoutHome _ _ (s := { s.dropDoubles [] s.entries with pool := _ }) hdrop

theorem lawful_endScan {s : State} (h : Lawful s) : Lawful s.endScan := by
  unfold State.endScan
  split
  · next hp => exact (noJobs_enterReady (noJobs_scanRest _ (h.noJobs (by rw [hp]; decide)))).lawful
  · exact h

theorem lawful_endScanRead {s : State} (us : List Upset) (h : Lawful s) : Lawful (s.endScanRead us) := by
  unfold State.endScanRead
  split
  · next hp => exact (noJobs_scanRead us (h.noJobs (by rw [hp]; decide))).lawful
  · exact h

/-! ### Resets and holds -/

/-- At the end of the reset hold the capture record is emptied, and there is no job. -/
theorem lawful_endHold {s : State} (h : Lawful s) : Lawful s.endHold := by
  unfold State.endHold
  split
  · next hp =>
    obtain ⟨-, hr, hrest⟩ := h.noJobs (by rw [hp]; decide)
    exact NoJobs.lawful (s := { s with phase := .starting, scan := Scan.start, capture := Capture.emptied })
      ⟨rfl, hr, hrest⟩
  · exact h

theorem lawful_takeRestart {s : State} (p : Port) (args : Bytes) (r : Residue) (h : Lawful s) :
    Lawful (s.takeRestart p args r) := by
  refine lawful_command h fun _ _ => ?_
  cases p with
  | s => exact h
  | m => exact lawful_ite h (noJobs_clearTo _ _).lawful

theorem lawful_expire {s : State} (slot : Fin 8) (h : Lawful s) : Lawful (s.expire slot) := by
  unfold State.expire
  repeat' split
  all_goals exact h

theorem lawful_endInterval {s : State} (h : Lawful s) : Lawful s.endInterval := by
  have hall : ∀ (slots : List (Fin 8)) (t : State), Lawful t → Lawful (slots.foldl State.expire t) := by
    intro slots
    induction slots with
    | nil => exact fun _ ht => ht
    | cons slot rest ih => exact fun t ht => ih _ (lawful_expire slot ht)
  exact lawful_ite (hall allSlots { s with holds := s.holds.map HoldSlot.lower } h) h

theorem lawful_holdLapses {s : State} (slot : Nat) (h : Lawful s) : Lawful (s.holdLapses slot) := by
  unfold State.holdLapses
  repeat' split
  · exact lawful_expire _ h
  · exact h
  · exact h

/-! ### Every command -/

/-- Every command keeps the laws: a split over the commands. Those at the end write neither the capture record, nor the
refresh list, nor the queue, the work, the phase or an entry, and the laws rest on these alone. -/
theorem exec_lawful (c : Instr) (s t : State) (h : Lawful s) (hx : exec c s = .next t) : Lawful t := by
  cases c <;> cases hx
  case read p a => exact lawful_takeRead p a h
  case readComplete us => exact lawful_endRead us h
  case commit p a => exact lawful_takeCommit p a h
  case patch p a => exact lawful_takePatch p a h
  case retire p a => exact lawful_takeRetire p a h
  case fix p a => exact lawful_takeFix p a h
  case setupWrite p a => exact lawful_takeSetupWrite p a h
  case census p a => exact lawful_takeCensus p a h
  case restart p a r => exact lawful_takeRestart p a r h
  case powerOn | resetN => exact (noJobs_clearTo _ _).lawful
  case resetHoldEnd => exact lawful_endHold h
  case scanEnd => exact lawful_endScan h
  case scanGranuleReadEnd us => exact lawful_endScanRead us h
  case jobStart => exact lawful_jobStarts h
  case refreshStart => exact lawful_refreshStarts h
  case recoveryStart => exact lawful_recoveryStarts h
  case engineReadEnd us => exact lawful_endEngineRead us h
  case granuleProgramEnd us => exact lawful_endProgram us h
  case markProgramEnd us => exact lawful_endMark us h
  case cellEraseEnd us => exact lawful_endErase us h
  case censusReadEnd us => exact lawful_endCensusRead us h
  case leaseInterval => exact lawful_endInterval h
  case holdLapsed slot => exact lawful_holdLapses slot h
  case captureClear p a =>
    obtain ⟨-, hrest⟩ := id h
    exact lawful_command h fun _ _ => ⟨rfl, hrest⟩
  case fetch | badFrame | ignoredFrame => exact lawful_ite h h
  case unknownCommand p code a => exact lawful_ite h (lawful_arrive p h h)
  case status p a =>
    refine lawful_arrive p h ?_
    split <;> exact h
  case stage p a =>
    refine lawful_command h fun _ _ => ?_
    split
    · exact h
    · exact lawful_unless h fun _ => h
  case hold p a =>
    refine lawful_command h fun k _ => ?_
    unfold State.holdEntry
    repeat' split
    all_goals exact h
  case ack p a =>
    refine lawful_command h fun m _ => ?_
    dsimp only
    split <;> exact h
  case capture | refreshList | censusResult | setupRead | eventMask => exact lawful_command h fun _ _ => h
  case find | list | discard | result | renew | release | inhibit | censusCancel =>
    refine lawful_command h fun _ _ => ?_
    repeat' split
    all_goals exact h

/-- Settles O57: the step is that of the command at the front of the queue of commands, which the laws do not speak
of. -/
theorem stepKeepsBounds : Obligations.StepKeepsBounds := by
  intro s t hcapture hrefresh hqueue hstep
  have h : Lawful s := ⟨hcapture, hrefresh, hqueue⟩
  unfold step at hstep
  split at hstep
  · cases hstep
    exact h
  · next c rest _ => exact exec_lawful c { s with pending := rest } t h hstep

end Sys2Proof.Machine
end

section
/-! REFRESH (6.5): how the engine takes the head of the refresh list, what the end of each read of its record leads to,
and the sweep of a list that is left empty (R118, R119, R121 to R123). -/

namespace Sys2Proof.Machine

/-! ### Leaving the refresh list (R118, R119) -/

/-- The wanted entries are those of the directory with the flag set. -/
theorem mem_wantedIndices (s : State) (k : Nat) :
    k ∈ s.wantedIndices ↔ k < 512 ∧ ∃ l, (s.entry k).body = .live l ∧ l.refreshWanted = true := by
  rw [State.wantedIndices, List.mem_filter, mem_entryIndices]
  refine and_congr_right fun _ => ?_
  cases h : (s.entry k).body <;> simp [Entry.wanted, h]

/-- Rising lists are told apart by what they hold. -/
theorem eq_of_rising {xs ys : List Nat} (hx : xs.Pairwise (· < ·)) (hy : ys.Pairwise (· < ·))
    (h : ∀ k, k ∈ xs ↔ k ∈ ys) : xs = ys := by
  have hperm : xs.Perm ys :=
    (List.perm_ext_iff_of_nodup (hx.imp Nat.ne_of_lt) (hy.imp Nat.ne_of_lt)).2 h
  exact hperm.eq_of_pairwise (fun _ _ _ _ hab hba => absurd hba (Nat.lt_asymm hab)) hx hy

/-- The wanted entries in index order are the one rising list of them. -/
theorem wantedIndices_unique (s : State) (wanted : List Nat) (hrising : wanted.Pairwise (· < ·))
    (hmem : ∀ k, k ∈ wanted ↔ k < 512 ∧ ∃ l, (s.entry k).body = .live l ∧ l.refreshWanted = true) :
    wanted = s.wantedIndices :=
  eq_of_rising hrising (entryIndices_pairwise_lt.filter _) fun k => (hmem k).trans (mem_wantedIndices s k).symm

/-- The head leaves the list, and nothing else does. -/
theorem filter_head {i : Nat} {rest : List Nat} (h : i ∉ rest) : (i :: rest).filter (fun j => j != i) = rest := by
  have hrest : ∀ j ∈ rest, (j != i) = true := fun j hj => bne_iff_ne.2 fun hji => h (hji ▸ hj)
  simpa using List.filter_eq_self.2 hrest

/-- A removal of the head that asks for no sweep leaves the rest of the list and the overflow flag. -/
theorem remove_head {r : RefreshList} {i : Nat} {rest wanted : List Nat} (hl : r.list = i :: rest) (hi : i ∉ rest)
    (h : rest ≠ [] ∨ r.overflow = false) : r.remove i wanted = ⟨rest, r.overflow⟩ := by
  have hsweep : ¬(rest.isEmpty && r.overflow) = true := by
    rcases h with h | h <;> simp [h]
  simp [RefreshList.remove, hl, filter_head hi, hsweep]

/-- A removal that leaves the list empty with overflow set is taken with a sweep. -/
theorem remove_head_sweeps {r : RefreshList} {i : Nat} {wanted : List Nat} (hl : r.list = [i])
    (ho : r.overflow = true) : r.remove i wanted = sweep wanted := by
  simp [RefreshList.remove, hl, ho]

/-- The refresh list after an entry has left it. -/
theorem unlist_refresh (s : State) (i : Nat) :
    (s.unlist i).refresh = s.refresh.remove i (s.unlist i).wantedIndices := rfl

theorem mapLive_of_not_live {e : Entry} (f : Live → Live) (h : ∀ l, e.body ≠ .live l) : e.mapLive f = e := by
  obtain ⟨b, p, n⟩ := e
  cases b with
  | live l => exact absurd rfl (h l)
  | free | nascent | retiring => rfl

/-! ### The head of the list is taken (R121) -/

/-- With nothing else to choose, and the array free, the engine takes the head of the list. -/
theorem exec_refreshStart {s : State} {i : Nat} {rest : List Nat} (h : s.engineFree) (hr : s.recovery = [])
    (hq : s.queue = []) (hl : s.refresh.list = i :: rest) :
    exec .refreshStart s = .next (s.startRefresh i).grant := by
  obtain ⟨hp, hw, -⟩ := h
  have hmay : s.mayChoose = true := by simp [State.mayChoose, hp, hw]
  simp only [exec, execRefreshStart, State.refreshStarts, hmay, hr, hq, hl]

/-- A LIVE head is dropped when it is fixed, its class has no refresh_ok, or a job names it. -/
theorem dropsRefresh_of_live {s : State} {i : Nat} {l : Live} {p : Option Nat} {n : Nat}
    (he : s.entry i = ⟨.live l, p, n⟩) :
    s.dropsRefresh i = true ↔ l.fixed = true ∨ (s.policy l.cls).refreshOk = false ∨ 0 < n := by
  simp [State.dropsRefresh, he, or_assoc]

/-- A head that is not LIVE is dropped. -/
theorem dropsRefresh_of_not_live {s : State} {i : Nat} (h : ∀ l, (s.entry i).body ≠ .live l) :
    s.dropsRefresh i = true := by
  unfold State.dropsRefresh
  split
  · next l hl => exact absurd hl (h l)
  · rfl

theorem oldCell_of_live {e : Entry} {l : Live} {p n : Nat} (he : e = ⟨.live l, some p, n⟩) :
    e.oldCell = some (p, l.cell) := by
  rw [he]
  rfl

/-- What the drop of the head leaves (R118, R119, R121). -/
def HeadDropped (s : State) (i : Nat) (rest : List Nat) (dropped : Entry) : Prop :=
  ∃ t, exec .refreshStart s = .next t ∧ t.entry i = dropped ∧ (∀ k, k ≠ i → t.entry k = s.entry k) ∧
    (rest ≠ [] ∨ s.refresh.overflow = false → t.refresh = ⟨rest, s.refresh.overflow⟩) ∧
    (∀ wanted : List Nat, rest = [] → s.refresh.overflow = true → wanted.Pairwise (· < ·) →
      (∀ k, k ∈ wanted ↔ k < 512 ∧ ∃ l, (t.entry k).body = .live l ∧ l.refreshWanted = true) →
        t.refresh = ⟨wanted.take 16, decide (16 < wanted.length)⟩) ∧
    t = { s with entries := t.entries, refresh := t.refresh }

/-- A head that is to be dropped leaves the list with refresh_wanted clear. -/
theorem headDropped_of {s : State} {i : Nat} {rest : List Nat} (h : s.engineFree) (hr : s.recovery = [])
    (hq : s.queue = []) (hl : s.refresh.list = i :: rest) (hi : i ∉ rest) (hd : s.dropsRefresh i = true) :
    HeadDropped s i rest ((s.entry i).mapLive fun l => { l with refreshWanted := false }) := by
  obtain ⟨-, -, hfree⟩ := id h
  have hfreed : (s.unlist i).arrayFree := hfree
  have hx : exec .refreshStart s = .next (s.unlist i) := by
    rw [exec_refreshStart h hr hq hl, State.startRefresh, if_pos hd, grant_free _ hfreed]
  refine ⟨s.unlist i, hx, unlist_entry_same s i, fun k hk => unlist_entry_other s i k hk, fun hrest => ?_,
    fun wanted hrest ho hrising hmem => ?_, rfl⟩
  · rw [unlist_refresh, remove_head hl hi hrest]
  · rw [unlist_refresh, remove_head_sweeps (hrest ▸ hl) ho, wantedIndices_unique _ wanted hrising hmem]
    rfl

/-- A head that is not to be dropped is granted the read of data granule 1 of its current cell. -/
theorem refreshStart_reads {s : State} {i p n : Nat} {l : Live} {rest : List Nat} (h : s.engineFree)
    (hr : s.recovery = []) (hq : s.queue = []) (hl : s.refresh.list = i :: rest)
    (he : s.entry i = ⟨.live l, some p, n⟩) (hd : s.dropsRefresh i ≠ true) :
    exec .refreshStart s =
      .next (s.atStep (.refreshRead i p l.cell 1 []) (.read (Loc.num p l.cell) 1 (some i))) := by
  obtain ⟨-, -, hfree⟩ := id h
  rw [exec_refreshStart h hr hq hl, State.startRefresh, if_neg hd, oldCell_of_live he]
  exact congrArg Host.Outcome.next (grant_claims s _ _ hfree)

/-! ### What a REFRESH goes on to (R122, R123) -/

/-- A read before the last data granule leads to the next granule. -/
theorem refreshRead_next {s : State} {i p g : Nat} {c : CellName} {got : List Data} {r : Outcome × Data}
    (hr : r.1 ≠ .uncorrectable) (hg : g < lastGranule (s.entry i).length) :
    s.refreshRead i p c g got r = s.refreshReads i p c (g + 1) (got ++ [r.2]) := by
  rw [State.refreshRead, if_neg hr, if_pos hg]

/-- The read of the last data granule leads to the write of the data read. -/
theorem refreshRead_last {s : State} {i p g : Nat} {c : CellName} {got : List Data} {r : Outcome × Data}
    (hr : r.1 ≠ .uncorrectable) (hg : lastGranule (s.entry i).length ≤ g) :
    s.refreshRead i p c g got r = s.startWrite none i (s.entry i).length (refreshPayload (got ++ [r.2])) := by
  rw [State.refreshRead, if_neg hr, if_neg (Nat.not_lt.2 hg)]

/-- The granules past those read are erased in the payload as they are in a list that ends. -/
theorem refreshPayload_getD (got : List Data) (k : Nat) :
    (refreshPayload got).getD k (BitVec.allOnes 256) = got.getD k (BitVec.allOnes 256) := by
  rw [refreshPayload, List.getD_eq_getElem?_getD, List.getD_eq_getElem?_getD]
  by_cases hk : k < got.length
  · rw [List.getElem?_append_left hk]
  · have hle : got.length ≤ k := Nat.not_lt.1 hk
    rw [List.getElem?_append_right hle, List.getElem?_eq_none hle, List.getElem?_replicate]
    split <;> rfl

/-- What is to be written of a LIVE entry: the next generation of its record (R64, R66). -/
def Live.rewritten (l : Live) (i pair : Nat) (bad : Bool) (payload : List Data) : WriteJob :=
  ⟨i, l.key, l.cls, nextGen l.gen, l.length, payload, some (pair, l.cell), bad, 0, .a, false, []⟩

theorem writeJobFor_of_live {s : State} {i p n : Nat} {l : Live} (he : s.entry i = ⟨.live l, some p, n⟩)
    (payload : List Data) : s.writeJobFor i l.length payload = l.rewritten i p (s.isBad p) payload := by
  simp only [State.writeJobFor, State.classOf, stranded_of_live s i he, he]
  rfl

/-- The write begins on the idle cell of the entry's own pair (R64). -/
theorem startWrite_onPair {s : State} {i p n : Nat} {l : Live} (he : s.entry i = ⟨.live l, some p, n⟩)
    (hb : s.isBad p = false) (payload : List Data) :
    s.startWrite none i l.length payload =
      s.writeClassify none { l.rewritten i p (s.isBad p) payload with pair := p, cell := otherCell l.cell }
        Classifying.start := by
  have husable : s.usablePair i = some p := by simp [State.usablePair, he, hb]
  have hidle : (s.entry i).idleCell = otherCell l.cell := by rw [he]; rfl
  simp only [State.startWrite, husable, hidle, writeJobFor_of_live he]

/-- The write of a stranded entry looks for a spare (R99). -/
theorem startWrite_stranded {s : State} {i p n : Nat} {l : Live} (he : s.entry i = ⟨.live l, some p, n⟩)
    (hb : s.isBad p = true) (payload : List Data) :
    s.startWrite none i l.length payload = s.writeOnSpare none (l.rewritten i p (s.isBad p) payload) := by
  have husable : s.usablePair i = none := by simp [State.usablePair, he, hb]
  simp only [State.startWrite, husable, writeJobFor_of_live he]

/-- A REFRESH without a free spare ends, no pair having failed (R106, R123). -/
theorem writeOnSpare_none {s : State} {w : WriteJob} (hp : s.pool = []) (hw : w.failed = []) :
    s.writeOnSpare none w = (s.unlist w.entry).idle := by
  simp only [State.writeOnSpare, State.takeSpare, hp, State.exhaustCells, hw]
  rfl

/-- The state with the spare `p` reserved and `rest` left in the pool, SPARE_LOW set by the threshold (R99, R101). -/
def State.withSpare (s : State) (p : Nat) (rest : List Nat) : State :=
  let s' := { s with pool := rest, reserved := some p }
  if rest.length ≤ s.setup.contents.spareThreshold.toNat then s'.setFlagBoth .spareLow else s'

theorem takeSpare_cons {s : State} {p : Nat} {rest : List Nat} (hp : s.pool = p :: rest) :
    s.takeSpare = some (p, s.withSpare p rest) := by
  simp only [State.takeSpare, hp]
  rfl

/-- A take of a spare leaves all but the pool, the reservation and the event flags. -/
theorem withSpare_touches (s : State) (p : Nat) (rest : List Nat) :
    ∃ fm fs, s.withSpare p rest =
      { s with
        pool := rest, reserved := some p
        portM := { s.portM with flags := fm }
        portS := { s.portS with flags := fs } } := by
  simp only [State.withSpare]
  split <;> exact ⟨_, _, rfl⟩

theorem withSpare_flags (s : State) (p : Nat) (rest : List Nat) (q : Port) :
    ((s.withSpare p rest).port q).flags =
      if rest.length ≤ s.setup.contents.spareThreshold.toNat then (s.port q).flags ||| Event.spareLow.bit
      else (s.port q).flags := by
  simp only [State.withSpare]
  split <;> cases q <;> rfl

/-- The write begins on cell A of the lowest free spare. -/
theorem writeOnSpare_cons {s : State} {w : WriteJob} {p : Nat} {rest : List Nat} (hp : s.pool = p :: rest) :
    s.writeOnSpare none w =
      (s.withSpare p rest).writeClassify none { w with pair := p, cell := .a, spare := true } Classifying.start := by
  simp only [State.writeOnSpare, takeSpare_cons hp]

/-! ### The end of a read of a REFRESH -/

/-- The REFRESH of the entry `i` ends at the command `c`, with the array as in `after`. -/
def RefreshEnds (s after : State) (i pair n : Nat) (c : Instr) : Prop :=
  ∃ t, exec c s = .next t ∧ t.work = .idle ∧ t.arb.user = none ∧ i ∉ t.refresh.list ∧
    t.entry i = ⟨((after.entry i).mapLive (fun x => { x with refreshWanted := false })).body, some pair, n⟩ ∧
    (∀ k, k ≠ i → t.entry k = s.entry k) ∧ t.granules = after.granules ∧ t.marks = after.marks ∧
    t.queue = s.queue ∧ t.bad = s.bad ∧ t.pool = s.pool ∧ t.census = s.census ∧ t.portM = after.portM ∧
    t.portS = after.portS

section

variable {s after : State} {i pair n : Nat} {l : Live} {step : EngineStep} {c : Instr}

/-- The entry is unlisted and the engine idle, with nobody waiting: the REFRESH has ended. -/
theorem refreshEnds_of (hs : s.engineAlone step) (hl : StepLeaves s after i) (he : s.entry i = ⟨.live l, some pair, n⟩)
    (hx : exec c s = .next ((after.release.unlist i).idle.stepBoundary)) : RefreshEnds s after i pair n c := by
  have hfree : (after.release.unlist i).idle.arrayFree := arrayFree_release hs hl.arb
  obtain ⟨d, w, hlive⟩ := hl.flags.live he
  rw [stepBoundary_quiet _ hfree] at hx
  refine ⟨_, hx, rfl, rfl, not_mem_unlist _ i, ?_, fun k hk => ?_, rfl, rfl, hl.queue, hl.bad, hl.pool, hl.census, rfl,
    rfl⟩
  · refine (unlist_entry_same after.release i).trans ?_
    show (after.entry i).mapLive _ = _
    rw [hlive]
    rfl
  · exact (unlist_entry_other after.release i k hk).trans (hl.others k hk)

end

section

variable {s : State} {i pair n g : Nat} {l : Live} {got : List Data}

/-- The end of a read of a REFRESH is what the engine makes of it, and the boundary after it. -/
theorem exec_refreshRead (us : List Upset) (hs : s.engineAlone (.read (Loc.num pair l.cell) g (some i)))
    (hw : s.work = .refreshRead i pair l.cell g got) :
    exec (.engineReadEnd us) s =
      .next (((s.readEnded (Loc.num pair l.cell) g (some i) us).release.refreshRead i pair l.cell g got
        (s.engineReads (Loc.num pair l.cell) g us)).stepBoundary) := by
  have hwork : (s.readEnded (Loc.num pair l.cell) g (some i) us).release.work = .refreshRead i pair l.cell g got :=
    (stepLeaves_readEnded s _ g i us).work.trans hw
  rw [exec_engineReadEnd s _ g (some i) us hs, State.afterRead, hwork]

/-- The entry under a REFRESH stays LIVE on its pair, with its length. -/
theorem readEnded_live (us : List Upset) (loc : Loc) (he : s.entry i = ⟨.live l, some pair, n⟩) :
    ∃ d w, (s.readEnded loc g (some i) us).release.entry i =
      ⟨.live { l with damaged := d, refreshWanted := w }, some pair, n⟩ :=
  (stepLeaves_readEnded s loc g i us).flags.live he

/-- A stranded entry's write goes to the lowest free spare at the end of the last read. -/
theorem refresh_takes_spare {after : State} {step : EngineStep} {c : Instr} {w : WriteJob} {q : Nat} {left : List Nat}
    (hs : s.engineAlone step) (harb : after.arb = s.arb) (hp : after.pool = q :: left) (hset : after.setup = s.setup)
    (hx : exec c s = .next ((after.release.writeOnSpare none w).stepBoundary)) :
    ∃ t, exec c s = .next t ∧ t.pool = left ∧ t.reserved = some q ∧
      t.work = .write none { w with pair := q, cell := .a, spare := true } (.classify ⟨0, ⟨0, 0, 0⟩, true⟩) ∧
      t.arb.user = some (.engine (.read (Loc.num q .a) 0 none)) ∧ t.entries = after.entries ∧
      t.granules = after.granules ∧ t.marks = after.marks ∧
      ∀ x, (t.port x).flags = if left.length ≤ s.setup.contents.spareThreshold.toNat
        then (after.port x).flags ||| 0x10#8 else (after.port x).flags := by
  have hflags := withSpare_flags after.release q left
  obtain ⟨fm, fs, htouches⟩ := withSpare_touches after.release q left
  have hfree : (after.release.withSpare q left).arrayFree := by
    rw [htouches]
    exact arrayFree_release hs harb
  rw [writeOnSpare_cons (s := after.release) hp, State.writeClassify, stepBoundary_claims _ _ _ hfree] at hx
  rw [htouches] at hx hflags
  refine ⟨_, hx, rfl, rfl, rfl, rfl, rfl, rfl, rfl, fun x => ?_⟩
  rw [← hset]
  cases x
  · exact hflags .m
  · exact hflags .s

/-- The ends of the reads of a REFRESH: an UNCORRECTABLE one ends it, one before the last granule leads to the next, and
the last one begins the write, on the entry's pair, on a spare, or not at all for want of one (R122, R123). -/
theorem refresh_read_ends (us : List Upset) (hs : s.engineAlone (.read (Loc.num pair l.cell) g (some i)))
    (hw : s.work = .refreshRead i pair l.cell g got) (he : s.entry i = ⟨.live l, some pair, n⟩) :
    let r := s.engineReads (Loc.num pair l.cell) g us
    let after := s.readEnded (Loc.num pair l.cell) g (some i) us
    let w := l.rewritten i pair (s.isBad pair) (refreshPayload (got ++ [r.2]))
    (r.1 = .uncorrectable → RefreshEnds s after i pair n (.engineReadEnd us)) ∧
    (r.1 ≠ .uncorrectable → g < lastGranule l.length →
      exec (.engineReadEnd us) s = .next
        (after.atStep (.refreshRead i pair l.cell (g + 1) (got ++ [r.2]))
          (.read (Loc.num pair l.cell) (g + 1) (some i)))) ∧
    (r.1 ≠ .uncorrectable → lastGranule l.length ≤ g →
      (s.isBad pair = false → exec (.engineReadEnd us) s = .next
        (after.atStep (.write none { w with pair := pair, cell := otherCell l.cell } (.classify Classifying.start))
          (.read (Loc.num pair (otherCell l.cell)) 0 (some i)))) ∧
      (s.isBad pair = true →
        exec (.engineReadEnd us) s = .next ((after.release.writeOnSpare none w).stepBoundary))) := by
  intro r after w
  have hl : StepLeaves s after i := stepLeaves_readEnded s _ g i us
  have hx := exec_refreshRead us hs hw
  obtain ⟨d, x, hlive⟩ := readEnded_live (g := g) us (Loc.num pair l.cell) he
  have hlength : (after.release.entry i).length = l.length := by rw [hlive]; rfl
  have hbad : after.release.isBad pair = s.isBad pair := congrArg (List.contains · pair) hl.bad
  refine ⟨fun hr => ?_, fun hr hg => ?_, fun hr hg => ?_⟩
  · rw [State.refreshRead, if_pos hr] at hx
    exact refreshEnds_of hs hl he hx
  · rw [refreshRead_next hr (hlength ▸ hg)] at hx
    exact goesTo_of hs hl.arb hx
  · rw [refreshRead_last hr (hlength ▸ hg), hlength] at hx
    refine ⟨fun hgood => ?_, fun hstranded => ?_⟩
    · refine goesTo_of hs hl.arb (hx.trans ?_)
      have hstart := startWrite_onPair hlive (hbad.trans hgood) (refreshPayload (got ++ [r.2]))
      rw [hbad] at hstart
      exact congrArg (fun t : State => Host.Outcome.next t.stepBoundary) hstart
    · refine hx.trans ?_
      have hstart := startWrite_stranded hlive (hbad.trans hstranded) (refreshPayload (got ++ [r.2]))
      rw [hbad] at hstart
      exact congrArg (fun t : State => Host.Outcome.next t.stepBoundary) hstart

end

/-! ### The statement -/

/-- Settles O46: the head by what `dropsRefresh` says of it, and the reads by `refresh_read_ends`. -/
theorem refreshHeadIsTakenOrDropped : Obligations.RefreshHeadIsTakenOrDropped := by
  unfold Obligations.RefreshHeadIsTakenOrDropped
  refine ⟨fun s i rest h hr hq hl hi => ⟨fun l p n he => ⟨fun hf hok hn => ?_, fun hd => ?_⟩, fun hnot => ?_⟩,
    fun s i pair n l g got us hs hw he => ?_⟩
  · refine refreshStart_reads h hr hq hl he fun hd => ?_
    have := (dropsRefresh_of_live he).1 hd
    simp [hf, hok, hn] at this
  · have hdropped := headDropped_of h hr hq hl hi ((dropsRefresh_of_live he).2 hd)
    rw [he] at hdropped
    exact hdropped
  · have hdropped := headDropped_of h hr hq hl hi (dropsRefresh_of_not_live hnot)
    rw [mapLive_of_not_live _ hnot] at hdropped
    exact hdropped
  · obtain ⟨hends, hnext, hlast⟩ := refresh_read_ends us hs hw he
    have hl : StepLeaves s (s.readEnded (Loc.num pair l.cell) g (some i) us) i := stepLeaves_readEnded s _ g i us
    refine ⟨hends, hnext, fun hr hg => ?_⟩
    obtain ⟨hgood, hstranded⟩ := hlast hr hg
    refine ⟨fun hb => ⟨_, refreshPayload_getD _, hgood hb⟩, fun hb => ⟨fun q left hp => ?_, fun hp => ?_⟩⟩
    · have hset : (s.readEnded (Loc.num pair l.cell) g (some i) us).setup = s.setup := by
        obtain ⟨x, k, es, rl, fm, fs, c, e⟩ := readEnded_touches s (Loc.num pair l.cell) g (some i) us
        rw [e]
      obtain ⟨t, hx, hpool, hreserved, hwork, hrest⟩ :=
        refresh_takes_spare hs hl.arb (hl.pool.trans hp) hset (hstranded hb)
      exact ⟨t, _, hx, refreshPayload_getD _, hpool, hreserved, hwork, hrest⟩
    · have hpool : (s.readEnded (Loc.num pair l.cell) g (some i) us).release.pool = [] := hl.pool.trans hp
      have hx := hstranded hb
      rw [writeOnSpare_none hpool rfl] at hx
      exact refreshEnds_of hs hl he hx

end Sys2Proof.Machine
end

section
/-! Hold slots (7.1): what a slot may become without a HOLD, the three ways in which HOLD writes a slot, and what each
leaves of the law of holds (R125). -/

namespace Sys2Proof.Machine

/-! ### Slots read and written -/

theorem holds_set_same (holds : Vector HoldSlot 8) (i : Fin 8) (h : HoldSlot) : (holds.set i h)[i] = h := by
  simp

theorem holds_set_other (holds : Vector HoldSlot 8) {i j : Fin 8} (h : HoldSlot) (hj : j ≠ i) :
    (holds.set i h)[j] = holds[j] := by
  have hne : i.val ≠ j.val := fun e => hj (Fin.ext e.symm)
  simp [hne]

/-- A slot written with what it holds. -/
theorem holds_set_self (holds : Vector HoldSlot 8) (i : Fin 8) : holds.set i (holds[i]) = holds := by
  simp

/-! ### What a slot can become without a HOLD -/

/-- The slot `h'` claims no more than `h` did: it is owned by the port that owned `h`, on the entry `h` was on, and ACTIVE
only where `h` was, or it is EMPTY. -/
structure HoldSlot.Within (h h' : HoldSlot) : Prop where
  owned : ∀ p, h.ownedBy p = true → h'.ownedBy p = true
  entry : ∀ e, h'.entry? = some e → h.entry? = some e
  active : ∀ e, h'.activeOn e = true → h.activeOn e = true

theorem HoldSlot.Within.refl (h : HoldSlot) : h.Within h := ⟨fun _ => id, fun _ => id, fun _ => id⟩

theorem HoldSlot.Within.trans {h h' h'' : HoldSlot} (a : h.Within h') (b : h'.Within h'') : h.Within h'' :=
  ⟨fun p => b.owned p ∘ a.owned p, fun e => a.entry e ∘ b.entry e, fun e => a.active e ∘ b.active e⟩

/-- A slot may be emptied. -/
theorem within_empty (h : HoldSlot) : h.Within .empty := ⟨fun _ _ => rfl, nofun, nofun⟩

/-- An ACTIVE slot may take another lease. -/
theorem within_lease (q : Port) (e : Nat) (k : Key) (old new : Byte) :
    (HoldSlot.active q e k old).Within (.active q e k new) :=
  ⟨fun _ => id, fun _ => id, fun _ => id⟩

/-- An ACTIVE slot may lapse. -/
theorem within_lapsed (q : Port) (e : Nat) (k : Key) (lease : Byte) :
    (HoldSlot.active q e k lease).Within (.lapsed q e k) :=
  ⟨fun _ => id, fun _ => id, nofun⟩

theorem within_reload (h : HoldSlot) (lease : Byte) : h.Within (h.reload lease) := by
  cases h with
  | active q e k old => exact within_lease q e k old lease
  | empty | lapsed => exact .refl _

theorem within_lower (h : HoldSlot) : h.Within h.lower := by
  cases h with
  | active q e k old => exact within_lease q e k old _
  | empty | lapsed => exact .refl _

theorem within_emptyLapsed (h : HoldSlot) : h.Within h.emptyLapsed := by
  cases h with
  | lapsed => exact within_empty _
  | empty | active => exact .refl _

/-- No slot of the state claims more than the slot of that number in `holds` did. -/
def State.HoldsWithin (s : State) (holds : Vector HoldSlot 8) : Prop :=
  ∀ slot : Fin 8, (holds[slot]).Within (s.holds[slot])

theorem holdsWithin_refl (s : State) : s.HoldsWithin s.holds := fun _ => .refl _

/-- Where every slot claims no more than before, the law of holds is kept. -/
theorem holdLaw_of_within {s : State} {holds : Vector HoldSlot 8} (hl : holdLaw holds) (h : s.HoldsWithin holds) :
    holdLaw s.holds := by
  obtain ⟨howned, hpairs⟩ := hl
  refine ⟨fun i => (h i).owned _ (howned i), fun i j hij e hi hj => ?_⟩
  obtain ⟨hports, hactive⟩ := hpairs i j hij e ((h i).entry e hi) ((h j).entry e hj)
  exact ⟨hports, fun ⟨ai, aj⟩ => hactive ⟨(h i).active e ai, (h j).active e aj⟩⟩

section

variable {s : State} {holds : Vector HoldSlot 8}

/-- What writes no slot keeps what was said of the slots. -/
theorem State.HoldsWithin.of_eq {t : State} (h : s.HoldsWithin holds) (ht : t.holds = s.holds) :
    t.HoldsWithin holds := by
  rw [State.HoldsWithin, ht]
  exact h

/-- A write of one slot with no more than it claims. -/
theorem holdsWithin_setHold (i : Fin 8) {h : HoldSlot} (hw : s.HoldsWithin holds) (hi : (s.holds[i]).Within h) :
    (s.setHold i h).HoldsWithin holds := by
  intro slot
  by_cases hs : slot = i
  · subst hs
    rw [setHold_holds, holds_set_same]
    exact (hw slot).trans hi
  · rw [setHold_holds, holds_set_other _ _ hs]
    exact hw slot

/-- When an entry becomes FREE the slots on it are emptied (R132). -/
theorem holdsWithin_freeEntry (i : Nat) (hw : s.HoldsWithin holds) : (s.freeEntry i).HoldsWithin holds := by
  intro slot
  rw [freeEntry_holds]
  split
  · exact within_empty _
  · exact hw slot

/-- A reset leaves every slot EMPTY (Table 9-1). -/
theorem holdsWithin_clearTo (s : State) (p : Phase) (holds : Vector HoldSlot 8) : (s.clearTo p).HoldsWithin holds := by
  intro slot
  have hempty : (s.clearTo p).holds[slot] = .empty := by
    show (Vector.replicate 8 HoldSlot.empty)[slot] = .empty
    simp
  rw [hempty]
  exact within_empty _

/-- An acknowledged HOLD_LAPSED empties LAPSED slots (R131). -/
theorem holdsWithin_emptyLapsed (p : Port) (hw : s.HoldsWithin holds) : (s.emptyLapsed p).HoldsWithin holds := by
  intro slot
  refine (hw slot).trans ?_
  show HoldSlot.Within _ ((s.holds.mapFinIdx _)[slot])
  simp only [Fin.getElem_fin, Vector.getElem_mapFinIdx]
  split
  · exact within_emptyLapsed _
  · exact .refl _

/-! ### Leases (R128) -/

theorem holdsWithin_expire (slot : Fin 8) (hw : s.HoldsWithin holds) : (s.expire slot).HoldsWithin holds := by
  unfold State.expire
  split
  · next q e k lease heq =>
    split
    · exact holdsWithin_setHold slot hw (heq ▸ within_lapsed q e k lease)
    · exact hw
  · exact hw

theorem holdsWithin_expireAll (slots : List (Fin 8)) {s : State} (hw : s.HoldsWithin holds) :
    (slots.foldl State.expire s).HoldsWithin holds := by
  induction slots generalizing s with
  | nil => exact hw
  | cons slot rest ih => exact ih (holdsWithin_expire slot hw)

theorem holdsWithin_endInterval (hw : s.HoldsWithin holds) : s.endInterval.HoldsWithin holds := by
  unfold State.endInterval
  split
  · refine holdsWithin_expireAll allSlots fun slot => (hw slot).trans ?_
    simpa using within_lower (s.holds[slot])
  · exact hw

theorem holdsWithin_holdLapses (slot : Nat) (hw : s.HoldsWithin holds) : (s.holdLapses slot).HoldsWithin holds := by
  unfold State.holdLapses
  repeat' split
  · exact holdsWithin_expire _ hw
  · exact hw
  · exact hw


end

end Sys2Proof.Machine
end

section
/-! What the engine leaves of the hold slots: between its array steps it empties the slots on an entry that becomes FREE
(R132), and all of them at a deferred RESTART, and writes no other slot. -/

namespace Sys2Proof.Machine

section

variable {s : State} {holds : Vector HoldSlot 8}

/-! ### Completion -/

theorem holdsWithin_freeNascent (b : JobBody) (r : JobResult) (h : s.HoldsWithin holds) :
    (s.freeNascent b r).HoldsWithin holds := by
  unfold State.freeNascent
  repeat' split
  · exact holdsWithin_freeEntry _ h
  · exact h
  · exact h
  · exact h

theorem holdsWithin_completeJob (j : Job) (r : JobResult) (g : Option Gen) (x : Bool) (h : s.HoldsWithin holds) :
    (s.completeJob j r g x).HoldsWithin holds := by
  let popped : State := { s with queue := s.queue.drop 1, work := .idle }.pushResult j.port (j.record r g x)
  obtain ⟨bs, hb⟩ := emptyBufferOf_touches popped j.body
  have hlowered : ((popped.emptyBufferOf j.body).lowerJobsOf j.body).HoldsWithin holds := by
    rw [hb]
    unfold State.lowerJobsOf
    split <;> exact h
  exact holdsWithin_freeNascent j.body r hlowered

/-! ### COMMIT and REFRESH -/

theorem holdsWithin_writeDone (job : Option Job) (w : WriteJob) (h : s.HoldsWithin holds) :
    (s.writeDone job w).HoldsWithin holds := by
  cases job with
  | none => exact h
  | some j => exact holdsWithin_completeJob j _ _ _ h

theorem holdsWithin_writeNoSpare (job : Option Job) (w : WriteJob) (h : s.HoldsWithin holds) :
    (s.writeNoSpare job w).HoldsWithin holds := by
  cases job with
  | none => exact h
  | some j => exact holdsWithin_completeJob j _ _ _ h

theorem holdsWithin_writeBadMarks (job : Option Job) (w : WriteJob) (cells : List (Nat × CellName))
    (h : s.HoldsWithin holds) : (s.writeBadMarks job w cells).HoldsWithin holds := by
  cases cells with
  | nil => exact holdsWithin_writeDone job w h
  | cons => exact h

theorem holdsWithin_writeExhaustMarks (job : Option Job) (w : WriteJob) (cells : List (Nat × CellName))
    (h : s.HoldsWithin holds) : (s.writeExhaustMarks job w cells).HoldsWithin holds := by
  cases cells with
  | nil => exact holdsWithin_writeNoSpare job w h
  | cons => exact h

theorem takeSpare_holds {t : State} {p : Nat} (ht : s.takeSpare = some (p, t)) : t.holds = s.holds := by
  unfold State.takeSpare at ht
  split at ht
  · cases ht
  · obtain ⟨-, rfl⟩ := Prod.mk.inj (Option.some.inj ht)
    split <;> rfl

theorem holdsWithin_writeOnSpare (job : Option Job) (w : WriteJob) (h : s.HoldsWithin holds) :
    (s.writeOnSpare job w).HoldsWithin holds := by
  unfold State.writeOnSpare
  split
  · next p t ht =>
    have hspare : t.HoldsWithin holds := h.of_eq (takeSpare_holds ht)
    exact hspare
  · exact holdsWithin_writeExhaustMarks job w _ h

theorem holdsWithin_pairFails (job : Option Job) (w : WriteJob) (h : s.HoldsWithin holds) :
    (s.pairFails job w).HoldsWithin holds :=
  holdsWithin_writeOnSpare (s := { s.addBad w.pair with reserved := _ }) job _ h

theorem holdsWithin_afterSwitch (job : Option Job) (w : WriteJob) (h : s.HoldsWithin holds) :
    (s.afterSwitch job w).HoldsWithin holds := by
  unfold State.afterSwitch
  repeat' split
  · exact holdsWithin_writeBadMarks job w _ h
  · exact h
  · exact holdsWithin_writeDone job w h

theorem holdsWithin_writeData (job : Option Job) (w : WriteJob) (g : Nat) (h : s.HoldsWithin holds) :
    (s.writeData job w g).HoldsWithin holds := by
  unfold State.writeData
  split <;> exact h

theorem holdsWithin_writeRead (job : Option Job) (w : WriteJob) (st : WriteStep) (r : Outcome × Data)
    (h : s.HoldsWithin holds) : (s.writeRead job w st r).HoldsWithin holds := by
  cases st with
  | classify c =>
    simp only [State.writeRead]
    split <;> exact h
  | verify g =>
    simp only [State.writeRead]
    repeat' split
    · exact h
    · exact h
    · exact holdsWithin_pairFails job w h
  | _ => exact h

theorem holdsWithin_writeProgrammed (job : Option Job) (w : WriteJob) (st : WriteStep) (h : s.HoldsWithin holds) :
    (s.writeProgrammed job w st).HoldsWithin holds := by
  cases st with
  | header | data => exact holdsWithin_writeData job w _ h
  | _ => exact h

theorem holdsWithin_writeMarked (job : Option Job) (w : WriteJob) (st : WriteStep) (took : Bool)
    (h : s.HoldsWithin holds) : (s.writeMarked job w st took).HoldsWithin holds := by
  cases st with
  | commitMark =>
    cases took
    · exact holdsWithin_pairFails job w h
    · exact holdsWithin_afterSwitch (s := s.switch w) job w h
  | supersede => exact holdsWithin_writeDone job w h
  | badMarks rest => exact holdsWithin_writeBadMarks job w rest h
  | exhaustMarks rest => exact holdsWithin_writeExhaustMarks job w rest h
  | _ => exact h

theorem holdsWithin_writeErased (job : Option Job) (w : WriteJob) (st : WriteStep) (took : Bool)
    (h : s.HoldsWithin holds) : (s.writeErased job w st took).HoldsWithin holds := by
  cases st with
  | erase =>
    cases took
    · exact holdsWithin_pairFails job w h
    · exact h
  | _ => exact h

theorem holdsWithin_startWrite (job : Option Job) (i length : Nat) (payload : List Data) (h : s.HoldsWithin holds) :
    (s.startWrite job i length payload).HoldsWithin holds := by
  simp only [State.startWrite]
  split
  · exact h
  · exact holdsWithin_writeOnSpare job _ h

theorem holdsWithin_refreshRead (i p : Nat) (c : CellName) (g : Nat) (got : List Data) (r : Outcome × Data)
    (h : s.HoldsWithin holds) : (s.refreshRead i p c g got r).HoldsWithin holds := by
  unfold State.refreshRead
  repeat' split
  · exact h
  · exact h
  · exact holdsWithin_startWrite none i _ _ h

theorem holdsWithin_startRefresh (i : Nat) (h : s.HoldsWithin holds) : (s.startRefresh i).HoldsWithin holds := by
  unfold State.startRefresh
  repeat' split
  all_goals exact h

/-! ### PATCH -/

theorem patchFlags_holds (s : State) (w : PatchJob) (r : JobResult) : (s.patchFlags w r).holds = s.holds := by
  unfold State.patchFlags
  split <;> rfl

theorem holdsWithin_patchDone (j : Job) (w : PatchJob) (r : JobResult) (h : s.HoldsWithin holds) :
    (s.patchDone j w r).HoldsWithin holds := by
  have hdone := holdsWithin_completeJob j r none false (h.of_eq (patchFlags_holds s w r))
  rw [patchDone_eq]
  split <;> exact hdone

theorem holdsWithin_patchVerify (j : Job) (w : PatchJob) (left : List Changed) (h : s.HoldsWithin holds) :
    (s.patchVerify j w left).HoldsWithin holds := by
  cases left with
  | nil => exact holdsWithin_patchDone j w _ h
  | cons => exact h

theorem holdsWithin_patchProgram (j : Job) (w : PatchJob) (left : List Changed) (h : s.HoldsWithin holds) :
    (s.patchProgram j w left).HoldsWithin holds := by
  cases left with
  | nil => exact holdsWithin_patchVerify j w _ h
  | cons => exact h

theorem holdsWithin_patchForm (j : Job) (w : PatchJob) (h : s.HoldsWithin holds) :
    (s.patchForm j w).HoldsWithin holds := by
  simp only [State.patchForm]
  repeat' split
  · exact holdsWithin_patchDone j w _ h
  · exact holdsWithin_patchProgram j _ _ h
  · exact h
  · exact holdsWithin_patchDone j w _ h

theorem holdsWithin_patchRead (j : Job) (w : PatchJob) (st : PatchStep) (r : Outcome × Data)
    (h : s.HoldsWithin holds) : (s.patchRead j w st r).HoldsWithin holds := by
  cases st with
  | read g =>
    simp only [State.patchRead]
    repeat' split
    · exact holdsWithin_patchDone j w _ h
    · exact h
    · exact holdsWithin_patchForm j _ h
  | verify c rest =>
    simp only [State.patchRead]
    generalize (if c.first = true then verified r c.new else r.2 == c.new) = passes
    cases passes
    · exact holdsWithin_patchDone j w _ h
    · exact holdsWithin_patchVerify j w rest h
  | mark | program => exact h

theorem holdsWithin_patchMarked (j : Job) (w : PatchJob) (st : PatchStep) (took : Bool) (h : s.HoldsWithin holds) :
    (s.patchMarked j w st took).HoldsWithin holds := by
  cases st with
  | mark =>
    cases took
    · exact holdsWithin_patchDone j _ _ h
    · exact holdsWithin_patchProgram j _ _ h
  | _ => exact h

theorem holdsWithin_patchProgrammed (j : Job) (w : PatchJob) (st : PatchStep) (h : s.HoldsWithin holds) :
    (s.patchProgrammed j w st).HoldsWithin holds := by
  cases st with
  | program rest => exact holdsWithin_patchProgram j w rest h
  | _ => exact h

/-! ### RETIRE and FIX -/

theorem holdsWithin_retireDone (job : Option Job) (w : RetireJob) (h : s.HoldsWithin holds) :
    (s.retireDone job w).HoldsWithin holds := by
  have hfreed := holdsWithin_freeEntry w.entry h
  cases job with
  | none => exact hfreed
  | some j => exact holdsWithin_completeJob j _ _ _ hfreed

theorem holdsWithin_retireMarkPair (job : Option Job) (w : RetireJob) (h : s.HoldsWithin holds) :
    (s.retireMarkPair job w).HoldsWithin holds := by
  unfold State.retireMarkPair
  split
  · exact h
  · exact holdsWithin_retireDone job w h

theorem holdsWithin_retireRead (job : Option Job) (w : RetireJob) (st : RetireStep) (r : Outcome × Data)
    (h : s.HoldsWithin holds) : (s.retireRead job w st r).HoldsWithin holds := by
  unfold State.retireRead
  repeat' split
  all_goals exact h

theorem becomeRetiring_holds (s : State) (i : Nat) : (s.becomeRetiring i).holds = s.holds := by
  simp only [State.becomeRetiring]
  split <;> rfl

theorem holdsWithin_retireMarked (job : Option Job) (w : RetireJob) (st : RetireStep) (h : s.HoldsWithin holds) :
    (s.retireMarked job w st).HoldsWithin holds := by
  cases st with
  | retireMark => exact h.of_eq (becomeRetiring_holds s w.entry)
  | badRetired => exact holdsWithin_retireMarkPair job w h
  | badB => exact holdsWithin_retireDone job w h
  | _ => exact h

theorem holdsWithin_retireErased (job : Option Job) (w : RetireJob) (st : RetireStep) (took : Bool)
    (h : s.HoldsWithin holds) : (s.retireErased job w st took).HoldsWithin holds := by
  cases st with
  | eraseOther => cases took <;> exact h
  | eraseRetired =>
    cases took
    · exact h
    · exact holdsWithin_retireMarkPair job w h
  | _ => exact h

theorem holdsWithin_fixMarked (j : Job) (i : Nat) (h : s.HoldsWithin holds) : (s.fixMarked j i).HoldsWithin holds :=
  holdsWithin_completeJob (s := (s.modLive i _).unlist i) j _ _ _ h

/-! ### SETUP -/

/-- A SETUP job names no entry, and a RESTART deferred behind it empties every slot (R152). -/
theorem holdsWithin_setupDone (j : Job) (w : SetupJob) (h : s.HoldsWithin holds) :
    (s.setupDone j w).HoldsWithin holds := by
  unfold State.setupDone State.deferredRestart
  split
  · exact holdsWithin_clearTo _ _ holds
  · exact holdsWithin_completeJob j _ _ _ h

theorem holdsWithin_storageFailure (j : Job) (w : SetupJob) (h : s.HoldsWithin holds) :
    (s.storageFailure j w).HoldsWithin holds :=
  holdsWithin_setupDone (s := (s.setupSwitch w s.setup.currentCell).setFlagBoth .setupDamaged) j w h

theorem holdsWithin_setupInstall (j : Job) (w : SetupJob) (h : s.HoldsWithin holds) :
    (s.setupInstall j w).HoldsWithin holds := by
  simp only [State.setupInstall]
  split <;> exact h

theorem holdsWithin_setupRead (j : Job) (w : SetupJob) (st : SetupStep) (r : Outcome × Data)
    (h : s.HoldsWithin holds) : (s.setupRead j w st r).HoldsWithin holds := by
  cases st with
  | classify c =>
    simp only [State.setupRead]
    split <;> exact h
  | verify g =>
    simp only [State.setupRead]
    repeat' split
    · exact h
    · exact h
    · exact holdsWithin_storageFailure j w h
  | classifyOld c =>
    simp only [State.setupRead]
    split
    · exact h
    · exact h
    · exact holdsWithin_setupDone j w h
  | _ => exact h

theorem holdsWithin_setupProgrammed (j : Job) (w : SetupJob) (st : SetupStep) (h : s.HoldsWithin holds) :
    (s.setupProgrammed j w st).HoldsWithin holds := by
  cases st <;> exact h

theorem holdsWithin_setupMarked (j : Job) (w : SetupJob) (st : SetupStep) (took : Bool) (h : s.HoldsWithin holds) :
    (s.setupMarked j w st took).HoldsWithin holds := by
  cases st with
  | commitMark =>
    cases took
    · exact holdsWithin_storageFailure j w h
    · rw [State.setupMarked, if_pos rfl]
      split
      · exact h
      · exact holdsWithin_setupInstall j w h
  | fixedMark => exact holdsWithin_setupInstall j w h
  | supersede => exact holdsWithin_setupDone j w h
  | _ => exact h

theorem holdsWithin_setupErased (j : Job) (w : SetupJob) (st : SetupStep) (took : Bool) (h : s.HoldsWithin holds) :
    (s.setupErased j w st took).HoldsWithin holds := by
  cases st with
  | erase =>
    cases took
    · exact holdsWithin_storageFailure j w h
    · exact h
  | _ => exact h

end

/-! ### Recovery, which writes no slot -/

theorem debrisPairFails_holds (s : State) (p : Nat) (c : CellName) : (s.debrisPairFails p c).holds = s.holds := by
  simp only [State.debrisPairFails, State.disown]
  repeat' split
  all_goals rfl

theorem debrisErased_holds (s : State) (p : Nat) (c : CellName) (st : DebrisStep) (took : Bool) :
    (s.debrisErased p c st took).holds = s.holds := by
  cases st with
  | erase =>
    cases took
    · exact debrisPairFails_holds s p c
    · rfl
  | badFailed | badOther => rfl

theorem debrisMarked_holds (s : State) (p : Nat) (c : CellName) (st : DebrisStep) :
    (s.debrisMarked p c st).holds = s.holds := by
  unfold State.debrisMarked
  repeat' split
  all_goals rfl

theorem markBadFrom_holds (s : State) (p : Nat) (cells : List CellName) :
    (s.markBadFrom p cells).holds = s.holds := by
  induction cells with
  | nil => rfl
  | cons c rest ih =>
    unfold State.markBadFrom
    split
    · exact ih
    · rfl

theorem markBadMarked_holds (s : State) (p : Nat) (c : CellName) : (s.markBadMarked p c).holds = s.holds := by
  cases c with
  | a => exact markBadFrom_holds s p _
  | b => rfl

theorem startItem_holds (s : State) (item : RecoveryItem) : (s.startItem item).holds = s.holds := by
  cases item with
  | markBad p => exact markBadFrom_holds s p _
  | eraseDebris | supersede | finishRetire => rfl

section

variable {s : State} {holds : Vector HoldSlot 8}

/-! ### The start of a job and the ends of the array steps -/

theorem holdsWithin_startSequence (j : Job) (h : s.HoldsWithin holds) : (s.startSequence j).HoldsWithin holds := by
  have hgone := holdsWithin_completeJob j .gone none false h
  unfold State.startSequence
  split
  · exact holdsWithin_startWrite (some j) _ _ _ h
  · split
    · exact h
    · exact hgone
  · split
    · exact h
    · exact hgone
  · split
    · exact h
    · exact hgone
  · exact h

theorem holdsWithin_startJob (j : Job) (h : s.HoldsWithin holds) : (s.startJob j).HoldsWithin holds := by
  unfold State.startJob
  split
  · exact holdsWithin_completeJob j _ _ _ h
  · exact holdsWithin_startSequence j h

theorem holdsWithin_afterRead (r : Outcome × Data) (h : s.HoldsWithin holds) : (s.afterRead r).HoldsWithin holds := by
  unfold State.afterRead
  split
  · exact holdsWithin_writeRead _ _ _ r h
  · exact holdsWithin_refreshRead _ _ _ _ _ r h
  · exact holdsWithin_patchRead _ _ _ r h
  · exact holdsWithin_retireRead _ _ _ r h
  · exact holdsWithin_setupRead _ _ _ r h
  · exact h

theorem holdsWithin_afterProgram (h : s.HoldsWithin holds) : s.afterProgram.HoldsWithin holds := by
  unfold State.afterProgram
  split
  · exact holdsWithin_writeProgrammed _ _ _ h
  · exact holdsWithin_patchProgrammed _ _ _ h
  · exact holdsWithin_setupProgrammed _ _ _ h
  · exact h

theorem holdsWithin_afterMark (took : Bool) (h : s.HoldsWithin holds) : (s.afterMark took).HoldsWithin holds := by
  unfold State.afterMark
  split
  · exact holdsWithin_writeMarked _ _ _ took h
  · exact holdsWithin_patchMarked _ _ _ took h
  · exact holdsWithin_retireMarked _ _ _ h
  · exact holdsWithin_fixMarked _ _ h
  · exact holdsWithin_setupMarked _ _ _ took h
  · exact h.of_eq (debrisMarked_holds s _ _ _)
  · exact h
  · exact h.of_eq (markBadMarked_holds s _ _)
  · exact h

theorem holdsWithin_afterErase (took : Bool) (h : s.HoldsWithin holds) : (s.afterErase took).HoldsWithin holds := by
  unfold State.afterErase
  split
  · exact holdsWithin_writeErased _ _ _ took h
  · exact holdsWithin_retireErased _ _ _ took h
  · exact holdsWithin_setupErased _ _ _ took h
  · exact h.of_eq (debrisErased_holds s _ _ _ took)
  · exact h

end

end Sys2Proof.Machine
end

section
/-! The law of holds (R125), kept by every step: no command but HOLD makes a slot claim more than before, and HOLD makes a
slot ACTIVE only on an entry on which no other slot of its port is, and no slot of the other port ACTIVE (R126). -/

namespace Sys2Proof.Machine

/-! ### The array, its arbiter, the monitor, the census: they write no slot -/

theorem ArbiterOnly.holds {s t : State} (h : ArbiterOnly s t) : t.holds = s.holds := by
  obtain ⟨a, cn, pm, ps, f, rfl⟩ := h
  rfl

theorem ArrayOnly.holds {s t : State} (h : ArrayOnly s t) : t.holds = s.holds := by
  obtain ⟨g, m, f, rfl⟩ := h
  rfl

theorem upsets_holds (s : State) (l : Loc) (us : List Upset) : (s.upsets l us).holds = s.holds :=
  ArrayOnly.holds (arrayOnly_upsets s l us)

theorem grant_holds (s : State) : s.grant.holds = s.holds := ArbiterOnly.holds (arbiterOnly_grants _ _ s)

theorem report_holds (s : State) (r : Report) : (s.report r).holds = s.holds := by
  obtain ⟨es, rl, fm, fs, h⟩ := report_touches s r
  rw [h]

theorem takeUp_holds (s : State) (c : CensusRun) : (s.takeUp c).holds = s.holds := by
  obtain ⟨a, cn, pm, ps, h⟩ := takeUp_touches s c
  rw [h]

theorem reportReads_holds (s : State) (g : ReadGrant) (reads : List (Nat × Outcome × Data)) :
    (s.reportReads g reads).holds = s.holds := by
  unfold State.reportReads
  induction reads generalizing s with
  | nil => rfl
  | cons r rest ih => exact (ih _).trans (report_holds s _)

theorem endRead_holds (s : State) (us : List Upset) : (s.endRead us).holds = s.holds := by
  unfold State.endRead
  split
  · next g _ =>
    exact (grant_holds _).trans ((reportReads_holds _ g _).trans (upsets_holds s g.loc us))
  · rfl

theorem censusRead_holds (s : State) (g : Nat) (r : Outcome × Data) : (s.censusRead g r).holds = s.holds := by
  unfold State.censusRead
  split
  · rfl
  · split
    · rfl
    · dsimp only
      generalize (if g = 0 then _ else _ : CensusRun) = c
      generalize (if g = 0 then _ else _ : CensusEntry) = e
      split
      · rfl
      · exact takeUp_holds _ _

theorem endCensusRead_holds (s : State) (us : List Upset) : (s.endCensusRead us).holds = s.holds := by
  unfold State.endCensusRead
  split
  · next l g e counts _ =>
    have hread := (report_holds (s.upsets l us) ⟨((s.upsets l us).readGranule l g).1, l, g, some e, .census⟩).trans
      (upsets_holds s l us)
    refine (ArbiterOnly.holds (arbiterOnly_grants _ _ _)).trans ?_
    split
    · exact (censusRead_holds _ g _).trans hread
    · exact hread
  · rfl

theorem claimRead_holds (s : State) (p : Port) (c : ReadClaim) : (s.claimRead p c).holds = s.holds :=
  (grant_holds _).trans (ArbiterOnly.holds (arbiterOnly_suspendFor { s with arb := s.arb.setWaiting p (some c) }))

/-! ### The scan, which writes no slot (R157 to R161) -/

theorem nextSetup_holds (s : State) (c : CellName) : (s.nextSetup c).holds = s.holds := by
  cases c with
  | a => rfl
  | b =>
    simp only [State.nextSetup, State.resolveSetup]
    split <;> rfl

theorem takeClaim_holds (s : State) (c : Claim) (p : Nat) : (s.takeClaim c p).holds = s.holds := by
  simp only [State.takeClaim, State.meetClaim]
  repeat' split
  all_goals rfl

theorem takeResolved_holds (s : State) (p : Nat) (r : Resolved) : (s.takeResolved p r).holds = s.holds := by
  have hbad : (if r.bad then (s.addBad p).leavePool p else s).holds = s.holds := by
    split <;> rfl
  simp only [State.takeResolved]
  split
  · exact (takeClaim_holds _ _ p).trans hbad
  · exact hbad

theorem foundCell_holds (s : State) (p : Nat) (c : CellName) (f : CellFound) : (s.foundCell p c f).holds = s.holds := by
  cases c with
  | a => rfl
  | b =>
    simp only [State.foundCell, State.foundSecond]
    split
    · rfl
    · exact takeResolved_holds s p _

theorem scanAdvance_holds (s : State) (r : Outcome × Data) : (s.scanAdvance r).holds = s.holds := by
  simp only [State.scanAdvance, State.scanSetupCell, State.scanSetupContents, State.scanCell]
  split
  · split
    · rfl
    · split
      · rfl
      · exact nextSetup_holds _ _
  · split
    · exact nextSetup_holds _ _
    · exact nextSetup_holds _ _
  · split
    · rfl
    · exact foundCell_holds s _ _ _
  · rfl

theorem scanRead_holds (s : State) (us : List Upset) : (s.scanRead us).holds = s.holds := by
  unfold State.scanRead
  split
  · rfl
  · next l g e _ => exact (scanAdvance_holds _ _).trans ((report_holds _ _).trans (upsets_holds s l us))

theorem scanRest_holds (n : Nat) (s : State) : (State.scanRest n s).holds = s.holds := by
  induction n generalizing s with
  | zero => rfl
  | succ n ih =>
    unfold State.scanRest
    split
    · rfl
    · exact (ih _).trans (scanRead_holds s [])

theorem dropClaim_holds (s : State) (i : Nat) (e : Entry) : (s.dropClaim i e).holds = s.holds := by
  simp only [State.dropClaim]
  split <;> rfl

theorem dropDoubles_holds (es : List (Nat × Entry)) (seen : List Key) (s : State) :
    (s.dropDoubles seen es).holds = s.holds := by
  induction es generalizing s seen with
  | nil => rfl
  | cons x rest ih =>
    obtain ⟨i, e⟩ := x
    unfold State.dropDoubles
    repeat' split
    · exact (ih seen _).trans (dropClaim_holds s i e)
    · exact ih _ s
    · exact ih seen s

theorem withoutHome_holds (taken ps : List Nat) (s : State) : (s.withoutHome taken ps).holds = s.holds := by
  induction ps generalizing s with
  | nil => rfl
  | cons p rest ih =>
    unfold State.withoutHome
    split
    · exact ih _
    · exact ih s

theorem enterReady_holds (s : State) : s.enterReady.holds = s.holds :=
  (withoutHome_holds _ _ _).trans (dropDoubles_holds s.entries [] s)

section

variable {s : State} {holds : Vector HoldSlot 8}

theorem holdsWithin_endScan (h : s.HoldsWithin holds) : s.endScan.HoldsWithin holds := by
  unfold State.endScan
  split
  · exact h.of_eq ((enterReady_holds _).trans (scanRest_holds _ s))
  · exact h

theorem holdsWithin_endScanRead (us : List Upset) (h : s.HoldsWithin holds) : (s.endScanRead us).HoldsWithin holds := by
  unfold State.endScanRead
  split
  · exact h.of_eq (scanRead_holds s us)
  · exact h

/-! ### The engine's events -/

theorem holdsWithin_grant (h : s.HoldsWithin holds) : s.grant.HoldsWithin holds := h.of_eq (grant_holds s)

theorem holdsWithin_stepBoundary (h : s.HoldsWithin holds) : s.stepBoundary.HoldsWithin holds :=
  h.of_eq (ArbiterOnly.holds (arbiterOnly_stepBoundary s))

theorem holdsWithin_endEngineRead (us : List Upset) (h : s.HoldsWithin holds) :
    (s.endEngineRead us).HoldsWithin holds := by
  unfold State.endEngineRead
  split
  · next l g e _ =>
    have hread := h.of_eq ((report_holds (s.upsets l us) ⟨(s.engineReads l g us).1, l, g, e, .engine⟩).trans
      (upsets_holds s l us))
    exact holdsWithin_stepBoundary (holdsWithin_afterRead (s := State.release _) _ hread)
  · exact h

theorem holdsWithin_endProgram (us : List Upset) (h : s.HoldsWithin holds) : (s.endProgram us).HoldsWithin holds := by
  unfold State.endProgram
  split
  · next l g d _ =>
    have hstep := h.of_eq (ArrayOnly.holds (programEnded_touches s l g d us))
    exact holdsWithin_stepBoundary (holdsWithin_afterProgram (s := State.release _) hstep)
  · exact h

theorem holdsWithin_endMark (us : List Upset) (h : s.HoldsWithin holds) : (s.endMark us).HoldsWithin holds := by
  unfold State.endMark
  split
  · next l m _ =>
    have hstep := h.of_eq (ArrayOnly.holds (arrayOnly_markEnded s l m us))
    exact holdsWithin_stepBoundary (holdsWithin_afterMark (s := State.release _) _ hstep)
  · exact h

theorem holdsWithin_endErase (us : List Upset) (h : s.HoldsWithin holds) : (s.endErase us).HoldsWithin holds := by
  unfold State.endErase
  split
  · next l _ =>
    have hstep := h.of_eq (ArrayOnly.holds (arrayOnly_eraseEnded s l us))
    exact holdsWithin_stepBoundary (holdsWithin_afterErase (s := State.release _) _ hstep)
  · exact h

theorem holdsWithin_jobStarts (h : s.HoldsWithin holds) : s.jobStarts.HoldsWithin holds := by
  unfold State.jobStarts
  split
  · exact holdsWithin_grant (holdsWithin_startJob _ h)
  · exact h

theorem holdsWithin_refreshStarts (h : s.HoldsWithin holds) : s.refreshStarts.HoldsWithin holds := by
  unfold State.refreshStarts
  split
  · exact holdsWithin_grant (holdsWithin_startRefresh _ h)
  · exact h

theorem holdsWithin_recoveryStarts (h : s.HoldsWithin holds) : s.recoveryStarts.HoldsWithin holds := by
  unfold State.recoveryStarts
  split
  · exact holdsWithin_grant (h.of_eq (startItem_holds s _))
  · exact h

/-! ### Taking a frame -/

theorem holdsWithin_arrive {taken : State} (p : Port) (h : s.HoldsWithin holds) (ht : taken.HoldsWithin holds) :
    (s.arrive p taken).HoldsWithin holds := by
  unfold State.arrive
  repeat' split
  · exact h
  · exact h
  · exact ht

theorem holdsWithin_command {α : Type} {p : Port} {args : Option α} {act : α → State} (h : s.HoldsWithin holds)
    (hact : ∀ a, (act a).HoldsWithin holds) : (s.command p args act).HoldsWithin holds := by
  refine holdsWithin_arrive p h ?_
  repeat' split
  · exact h
  · exact h
  · exact hact _

theorem holdsWithin_unless {done : State} {p : Port} {failed : Option Status} (h : s.HoldsWithin holds)
    (hdone : done.HoldsWithin holds) : (s.unless p failed done).HoldsWithin holds := by
  cases failed with
  | some st => exact h
  | none => exact hdone

theorem holdsWithin_ite {c : Prop} [Decidable c] {t u : State} (ht : t.HoldsWithin holds) (hu : u.HoldsWithin holds) :
    (if c then t else u).HoldsWithin holds := by
  split
  · exact ht
  · exact hu

/-! ### The commands that do more than answer -/

theorem holdsWithin_takeRead (p : Port) (args : Bytes) (h : s.HoldsWithin holds) :
    (s.takeRead p args).HoldsWithin holds := by
  refine holdsWithin_command h fun a => ?_
  repeat' split
  · exact h.of_eq (claimRead_holds (s.modPort p _) p _)
  · exact h
  · exact h

theorem holdsWithin_takeCensus (p : Port) (args : Bytes) (h : s.HoldsWithin holds) :
    (s.takeCensus p args).HoldsWithin holds := by
  refine holdsWithin_command h fun b => ?_
  repeat' split
  · exact h
  · exact h
  · exact holdsWithin_grant (h.of_eq (takeUp_holds ({ s with arb := s.arb.withoutCensus }.answer p .ok []) _))

theorem emptyBufferOf_holds (s : State) (b : JobBody) : (s.emptyBufferOf b).holds = s.holds := by
  obtain ⟨bs, h⟩ := emptyBufferOf_touches s b
  rw [h]

theorem acceptCommit_holds (s : State) (p : Port) (t : Target) (a : CommitArgs) (b : Fin 8) :
    (s.acceptCommit p t a b).holds = s.holds := by
  cases t with
  | fresh i c => rfl
  | existing i =>
    simp only [State.acceptCommit]
    split
    · exact emptyBufferOf_holds _ _
    · rfl

theorem holdsWithin_takeCommit (p : Port) (args : Bytes) (h : s.HoldsWithin holds) :
    (s.takeCommit p args).HoldsWithin holds := by
  refine holdsWithin_command h fun a => ?_
  split
  · exact h
  · refine holdsWithin_unless h ?_
    split
    · exact h
    · exact holdsWithin_unless h (h.of_eq (acceptCommit_holds s p _ a _))

theorem holdsWithin_takePatch (p : Port) (args : Bytes) (h : s.HoldsWithin holds) :
    (s.takePatch p args).HoldsWithin holds := by
  refine holdsWithin_command h fun a => holdsWithin_unless h ?_
  repeat' split
  · exact h
  · exact h
  · exact holdsWithin_unless h h

/-- RETIRE and FIX: a command that carries a key and asks for a job on the entry it resolves to. -/
theorem holdsWithin_entryJob {α : Type} (p : Port) (args : Option α) (key : α → Key) (permits : ClassPolicy → Bool)
    (body : α → Nat → JobBody) (h : s.HoldsWithin holds) :
    (s.command p args fun a =>
      if keyValid (key a) then
        match s.resolve (key a) with
        | .error st => s.refuse p st
        | .ok i => s.takeEntryJob p i permits (body a i)
      else s.refuse p .badArg).HoldsWithin holds := by
  refine holdsWithin_command h fun a => ?_
  repeat' split
  · exact h
  · exact holdsWithin_unless h h
  · exact h

theorem holdsWithin_takeRestart (p : Port) (args : Bytes) (r : Residue) (h : s.HoldsWithin holds) :
    (s.takeRestart p args r).HoldsWithin holds := by
  refine holdsWithin_command h fun _ => ?_
  cases p with
  | s => exact h
  | m => exact holdsWithin_ite h (holdsWithin_clearTo _ _ holds)

theorem holdsWithin_takeAck (p : Port) (args : Bytes) (h : s.HoldsWithin holds) :
    (s.takeAck p args).HoldsWithin holds := by
  refine holdsWithin_command h fun mask => ?_
  dsimp only
  split
  · exact holdsWithin_emptyLapsed p (s := s.clearFlags p mask) h
  · exact h

theorem holdsWithin_takeRenew (p : Port) (args : Bytes) (h : s.HoldsWithin holds) :
    (s.takeRenew p args).HoldsWithin holds := by
  refine holdsWithin_command h fun k => ?_
  repeat' split
  · exact h
  · next q e key lease heq => exact holdsWithin_setHold _ h (heq ▸ within_lease q e key lease _)
  · exact holdsWithin_setHold _ h (within_empty _)
  · exact h

theorem holdsWithin_takeRelease (p : Port) (args : Bytes) (h : s.HoldsWithin holds) :
    (s.takeRelease p args).HoldsWithin holds := by
  refine holdsWithin_command h fun k => ?_
  repeat' split
  · exact h
  · exact holdsWithin_setHold _ h (within_empty _)
  · exact holdsWithin_setHold _ h (within_empty _)
  · exact h

end

/-! ### Every command but HOLD -/

/-- The command is a HOLD. -/
def Instr.isHold : Instr → Bool
  | .hold _ _ => true
  | _ => false

/-- No command but HOLD makes a slot claim more than before: a split over the commands. Those at the end write no slot. -/
theorem exec_holdsWithin {c : Instr} {s t : State} (hc : Instr.isHold c = false) (hx : exec c s = .next t) :
    t.HoldsWithin s.holds := by
  have h := holdsWithin_refl s
  cases c <;> cases hx
  case hold => cases hc
  case renew p a => exact holdsWithin_takeRenew p a h
  case release p a => exact holdsWithin_takeRelease p a h
  case ack p a => exact holdsWithin_takeAck p a h
  case leaseInterval => exact holdsWithin_endInterval h
  case holdLapsed slot => exact holdsWithin_holdLapses slot h
  case restart p a r => exact holdsWithin_takeRestart p a r h
  case powerOn | resetN => exact holdsWithin_clearTo _ _ _
  case jobStart => exact holdsWithin_jobStarts h
  case refreshStart => exact holdsWithin_refreshStarts h
  case recoveryStart => exact holdsWithin_recoveryStarts h
  case engineReadEnd us => exact holdsWithin_endEngineRead us h
  case granuleProgramEnd us => exact holdsWithin_endProgram us h
  case markProgramEnd us => exact holdsWithin_endMark us h
  case cellEraseEnd us => exact holdsWithin_endErase us h
  case scanEnd => exact holdsWithin_endScan h
  case scanGranuleReadEnd us => exact holdsWithin_endScanRead us h
  case read p a => exact holdsWithin_takeRead p a h
  case readComplete us => exact h.of_eq (endRead_holds s us)
  case censusReadEnd us => exact h.of_eq (endCensusRead_holds s us)
  case census p a => exact holdsWithin_takeCensus p a h
  case commit p a => exact holdsWithin_takeCommit p a h
  case patch p a => exact holdsWithin_takePatch p a h
  case retire p a => exact holdsWithin_entryJob p _ Prod.fst _ (fun a i => .retire i a.1 a.2) h
  case fix p a => exact holdsWithin_entryJob p _ id _ (fun k i => .fix i k) h
  case fetch | badFrame | ignoredFrame | resetHoldEnd => exact holdsWithin_ite h h
  case unknownCommand p code a => exact holdsWithin_ite h (holdsWithin_arrive p h h)
  case status p a =>
    refine holdsWithin_arrive p h ?_
    split <;> exact h
  case stage p a =>
    refine holdsWithin_command h fun x => ?_
    split
    · exact h
    · exact holdsWithin_unless h h
  case setupWrite p a => exact holdsWithin_command h fun x => holdsWithin_unless h h
  case capture | captureClear | refreshList | censusResult | setupRead | eventMask =>
    exact holdsWithin_command h fun _ => h
  case find | list | discard | result | inhibit | censusCancel =>
    refine holdsWithin_command h fun _ => ?_
    repeat' split
    all_goals exact h

/-! ### HOLD (R126) -/

/-- A search of a port's slots gives one of its slots that passes the test. -/
theorem slotWith_eq_some {s : State} {p : Port} {test : HoldSlot → Bool} {slot : Fin 8}
    (h : s.slotWith p test = some slot) : slotPort slot = p ∧ test (s.holds[slot]) = true :=
  ⟨(mem_slotsOf p slot).1 (List.mem_of_find?_eq_some h),
    List.find?_some (p := fun i : Fin 8 => test (s.holds[i])) h⟩

/-- A search that gives no slot says that no slot of the port passes the test. -/
theorem slotWith_eq_none {s : State} {p : Port} {test : HoldSlot → Bool} (h : s.slotWith p test = none) (j : Fin 8)
    (hj : slotPort j = p) : test (s.holds[j]) = false := by
  simpa using List.find?_eq_none.1 h j ((mem_slotsOf p j).2 hj)

theorem eq_otherPort : ∀ {p q : Port}, q ≠ p → q = otherPort p
  | .m, .s, _ | .s, .m, _ => rfl
  | .m, .m, h | .s, .s, h => absurd rfl h

/-- No slot is ACTIVE on an entry on which neither port has an ACTIVE slot. -/
theorem activeOn_eq_false {s : State} {p : Port} {i : Nat} (hown : s.slotWith p (HoldSlot.activeOn i) = none)
    (hother : s.holdsActive (otherPort p) i ≠ true) (j : Fin 8) : (s.holds[j]).activeOn i = false := by
  by_cases hj : slotPort j = p
  · exact slotWith_eq_none hown j hj
  · exact Bool.eq_false_iff.2 fun ha => hother ((holdsActive_iff s _ i).2 ⟨j, eq_otherPort hj, ha⟩)

/-- A slot that is on an entry is ACTIVE or LAPSED there. -/
theorem active_or_lapsed_of_entry {h : HoldSlot} {e : Nat} (he : h.entry? = some e) :
    h.activeOn e = true ∨ h.lapsedOn e = true := by
  cases h <;> simp_all [HoldSlot.entry?, HoldSlot.activeOn, HoldSlot.lapsedOn]

theorem entry_of_lapsedOn {h : HoldSlot} {e : Nat} (hl : h.lapsedOn e = true) : h.entry? = some e := by
  cases h <;> simp_all [HoldSlot.entry?, HoldSlot.lapsedOn]

/-- A slot of the port may become ACTIVE on an entry that no other slot of the port is on, and that no other slot is ACTIVE
on. -/
theorem holdLaw_set_active {holds : Vector HoldSlot 8} {p : Port} {i : Nat} {slot : Fin 8} (k : Key) (lease : Byte)
    (h : holdLaw holds) (hslot : slotPort slot = p)
    (hport : ∀ j : Fin 8, j ≠ slot → slotPort j = p → (holds[j]).entry? ≠ some i)
    (hactive : ∀ j : Fin 8, j ≠ slot → (holds[j]).activeOn i = false) :
    holdLaw (holds.set slot (.active p i k lease)) := by
  obtain ⟨howned, hpairs⟩ := h
  have hbeside : ∀ j : Fin 8, j ≠ slot → ∀ e, some i = some e → (holds[j]).entry? = some e →
      slotPort j ≠ p ∧ (holds[j]).activeOn e = false := by
    rintro j hj e ⟨⟩ he
    exact ⟨fun hp => hport j hj hp he, hactive j hj⟩
  refine ⟨fun j => ?_, fun a b hab e ha hb => ?_⟩
  · by_cases hj : j = slot
    · subst hj
      rw [holds_set_same, hslot]
      exact beq_self_eq_true p
    · rw [holds_set_other _ _ hj]
      exact howned j
  · by_cases haslot : a = slot
    · subst haslot
      have hb' : b ≠ a := Ne.symm hab
      rw [holds_set_same] at ha ⊢
      rw [holds_set_other _ _ hb'] at hb ⊢
      obtain ⟨hports, hfalse⟩ := hbeside b hb' e ha hb
      exact ⟨fun hp => hports (hp ▸ hslot), fun ⟨_, hactive⟩ => Bool.false_ne_true (hfalse ▸ hactive)⟩
    · by_cases hbslot : b = slot
      · subst hbslot
        rw [holds_set_same] at hb ⊢
        rw [holds_set_other _ _ haslot] at ha ⊢
        obtain ⟨hports, hfalse⟩ := hbeside a haslot e hb ha
        exact ⟨fun hp => hports (hp.trans hslot), fun ⟨hactive, _⟩ => Bool.false_ne_true (hfalse ▸ hactive)⟩
      · rw [holds_set_other _ _ haslot] at ha ⊢
        rw [holds_set_other _ _ hbslot] at hb ⊢
        exact hpairs a b hab e ha hb

/-- HOLD on an entry keeps the law, line by line of Table 7-1: an own ACTIVE slot is reloaded; else, when no slot is ACTIVE
on the entry, the port's LAPSED slot on it becomes ACTIVE, beside which it has no other there, or, when it has none there
at all, an EMPTY one. -/
theorem holdLaw_holdEntry {s : State} (p : Port) (i : Nat) (k : Key) (h : holdLaw s.holds) :
    holdLaw (s.holdEntry p i k).holds := by
  obtain ⟨-, hpairs⟩ := id h
  unfold State.holdEntry
  split
  · next slot _ =>
    exact holdLaw_of_within (s := s.setHold slot _) h
      (holdsWithin_setHold slot (holdsWithin_refl s) (within_reload _ _))
  · next hown =>
    split
    · exact h
    · next hother =>
      have hactive := activeOn_eq_false hown hother
      split
      · next slot hlapsed =>
        obtain ⟨hslot, hon⟩ := slotWith_eq_some hlapsed
        refine holdLaw_set_active k _ h hslot (fun j hj hp he => ?_) fun j _ => hactive j
        obtain ⟨hports, -⟩ := hpairs j slot hj i he (entry_of_lapsedOn hon)
        exact hports (hp.trans hslot.symm)
      · next hlapsed =>
        split
        · next slot hempty =>
          obtain ⟨hslot, -⟩ := slotWith_eq_some hempty
          refine holdLaw_set_active k _ h hslot (fun j _ hp he => ?_) fun j _ => hactive j
          have hnone := slotWith_eq_none hlapsed j hp
          rcases active_or_lapsed_of_entry he with ha | hl
          · rw [hactive j] at ha
            cases ha
          · rw [hnone] at hl
            cases hl
        · exact h

/-- A command keeps the law when its action does. -/
theorem holdLaw_command {α : Type} {s : State} {p : Port} {args : Option α} {act : α → State} (h : holdLaw s.holds)
    (hact : ∀ a, holdLaw (act a).holds) : holdLaw (s.command p args act).holds := by
  unfold State.command State.arrive
  repeat' split
  · exact h
  · exact h
  · exact h
  · exact h
  · exact hact _

theorem holdLaw_takeHold {s : State} (p : Port) (args : Bytes) (h : holdLaw s.holds) :
    holdLaw (s.takeHold p args).holds := by
  refine holdLaw_command h fun k => ?_
  repeat' split
  · exact h
  · exact holdLaw_holdEntry p _ k h
  · exact h

/-- Settles O59: HOLD by its lines, every other command because no slot claims more after it than before. -/
theorem stepKeepsHoldLaw : Obligations.StepKeepsHoldLaw := by
  intro s t hlaw hstep
  unfold step at hstep
  split at hstep
  · cases hstep
    exact hlaw
  · next c rest _ =>
    cases hc : Instr.isHold c with
    | false => exact holdLaw_of_within hlaw (exec_holdsWithin (s := { s with pending := rest }) hc hstep)
    | true =>
      cases c with
      | hold p args =>
        cases hstep
        exact holdLaw_takeHold (s := { s with pending := rest }) p args hlaw
      | _ => cases hc

end Sys2Proof.Machine
end

section
/-! HOLD, RENEW, RELEASE and INHIBIT of a port that takes commands, line by line (7.1.1, 7.1.4, 7.4). -/

namespace Sys2Proof.Machine

/-- The lease of an entry is that of its class. -/
theorem leaseOf_of_cls {s : State} {i : Nat} {c : Cls} (h : (s.entry i).cls? = some c) :
    s.leaseOf i = (s.policy c).lease := by
  rw [State.leaseOf, h, Option.getD_some]

/-! ### HOLD on a resolved entry (Table 7-1, lines 4 to 8) -/

section

variable {s : State} {p : Port} {i : Nat}

/-- An own ACTIVE slot is reloaded. -/
theorem holdEntry_active (key : Key) {slot : Fin 8} {q : Port} {k : Key} {old : Byte}
    (hown : s.slotWith p (HoldSlot.activeOn i) = some slot) (hslot : s.holds[slot] = .active q i k old) :
    s.holdEntry p i key = s.giveHold p slot (.active q i k (s.leaseOf i)) i := by
  simp only [State.holdEntry, hown, hslot, HoldSlot.reload]

theorem holdEntry_held (key : Key) (hown : s.slotWith p (HoldSlot.activeOn i) = none)
    (hother : s.holdsActive (otherPort p) i = true) : s.holdEntry p i key = s.refuse p .held := by
  simp only [State.holdEntry, hown, if_pos hother]

/-- Without an ACTIVE slot on the entry, the port's LAPSED slot on it becomes ACTIVE. -/
theorem holdEntry_lapsed (key : Key) {slot : Fin 8} (hown : s.slotWith p (HoldSlot.activeOn i) = none)
    (hother : ¬s.holdsActive (otherPort p) i = true) (hlapsed : s.slotWith p (HoldSlot.lapsedOn i) = some slot) :
    s.holdEntry p i key = s.giveHold p slot (.active p i key (s.leaseOf i)) i := by
  simp only [State.holdEntry, hown, if_neg hother, hlapsed]

/-- With no slot of the port on the entry, the lowest EMPTY one becomes ACTIVE. -/
theorem holdEntry_empty (key : Key) {slot : Fin 8} (hown : s.slotWith p (HoldSlot.activeOn i) = none)
    (hother : ¬s.holdsActive (otherPort p) i = true) (hlapsed : s.slotWith p (HoldSlot.lapsedOn i) = none)
    (hempty : s.slotWith p (fun h => h == .empty) = some slot) :
    s.holdEntry p i key = s.giveHold p slot (.active p i key (s.leaseOf i)) i := by
  simp only [State.holdEntry, hown, if_neg hother, hlapsed, hempty]

theorem holdEntry_full (key : Key) (hown : s.slotWith p (HoldSlot.activeOn i) = none)
    (hother : ¬s.holdsActive (otherPort p) i = true) (hlapsed : s.slotWith p (HoldSlot.lapsedOn i) = none)
    (hempty : s.slotWith p (fun h => h == .empty) = none) : s.holdEntry p i key = s.refuse p .full := by
  simp only [State.holdEntry, hown, if_neg hother, hlapsed, hempty]

end

/-! ### Commands with a valid key, taken -/

section

variable {s : State} {p : Port} {args : Bytes} {key : Key}

theorem takeHold_refused (h : s.takes p) (ha : keyArg args = some key) (hk : keyValid key = true) {st : Status}
    (hr : s.resolve key = .error st) : s.takeHold p args = s.refuse p st := by
  simp only [State.takeHold, ha, command_takes s p key _ h, if_pos hk, hr]

theorem takeHold_resolved (h : s.takes p) (ha : keyArg args = some key) (hk : keyValid key = true) {i : Nat}
    (hi : s.activeIndex key = some i) : s.takeHold p args = s.holdEntry p i key := by
  simp only [State.takeHold, ha, command_takes s p key _ h, if_pos hk, resolve_active hi]

theorem takeRenew_notHeld (h : s.takes p) (ha : keyArg args = some key) (hk : keyValid key = true)
    (hnone : s.slotForKey p key = none) : s.takeRenew p args = s.refuse p .notHeld := by
  simp only [State.takeRenew, ha, command_takes s p key _ h, if_pos hk, hnone]

theorem takeRelease_notHeld (h : s.takes p) (ha : keyArg args = some key) (hk : keyValid key = true)
    (hnone : s.slotForKey p key = none) : s.takeRelease p args = s.refuse p .notHeld := by
  simp only [State.takeRelease, ha, command_takes s p key _ h, if_pos hk, hnone]

theorem takeRenew_active (h : s.takes p) (ha : keyArg args = some key) (hk : keyValid key = true) {slot : Fin 8}
    {q : Port} {i : Nat} {k : Key} {old : Byte} (hfor : s.slotForKey p key = some slot)
    (hslot : s.holds[slot] = .active q i k old) :
    s.takeRenew p args = (s.setHold slot (.active q i k (s.leaseOf i))).answer p .ok [s.leaseOf i] := by
  simp only [State.takeRenew, ha, command_takes s p key _ h, if_pos hk, hfor, hslot]

theorem takeRelease_active (h : s.takes p) (ha : keyArg args = some key) (hk : keyValid key = true) {slot : Fin 8}
    {q : Port} {i : Nat} {k : Key} {old : Byte} (hfor : s.slotForKey p key = some slot)
    (hslot : s.holds[slot] = .active q i k old) :
    s.takeRelease p args = (s.setHold slot .empty).answer p .ok [] := by
  simp only [State.takeRelease, ha, command_takes s p key _ h, if_pos hk, hfor, hslot]

theorem takeRenew_lapsed (h : s.takes p) (ha : keyArg args = some key) (hk : keyValid key = true) {slot : Fin 8}
    {q : Port} {i : Nat} {k : Key} (hfor : s.slotForKey p key = some slot) (hslot : s.holds[slot] = .lapsed q i k) :
    s.takeRenew p args = (s.setHold slot .empty).refuse p .expired := by
  simp only [State.takeRenew, ha, command_takes s p key _ h, if_pos hk, hfor, hslot]

theorem takeRelease_lapsed (h : s.takes p) (ha : keyArg args = some key) (hk : keyValid key = true) {slot : Fin 8}
    {q : Port} {i : Nat} {k : Key} (hfor : s.slotForKey p key = some slot) (hslot : s.holds[slot] = .lapsed q i k) :
    s.takeRelease p args = (s.setHold slot .empty).refuse p .expired := by
  simp only [State.takeRelease, ha, command_takes s p key _ h, if_pos hk, hfor, hslot]

end

/-- Settles O30, line by line of Table 7-1. -/
theorem holdActsByTable : Obligations.HoldActsByTable := by
  intro s p args key h ha hk answers
  refine ⟨fun hi hr => ?_, fun hi hr => ?_, ?_⟩
  · exact congrArg Host.Outcome.next (takeHold_refused h ha hk (resolve_gone hi hr))
  · exact congrArg Host.Outcome.next (takeHold_refused h ha hk (resolve_notFound hi hr))
  · intro i c hi hc lease takes mine
    have hlease : s.leaseOf i = lease := leaseOf_of_cls hc
    have hx : exec (.hold p args) s = .next (s.holdEntry p i key) :=
      congrArg Host.Outcome.next (takeHold_resolved h ha hk hi)
    have hgives : ∀ (slot : Fin 8) (new : HoldSlot), s.holdEntry p i key = s.giveHold p slot new i → takes slot new := by
      intro slot new hgive
      rw [hgive, State.giveHold, hlease] at hx
      exact hx
    have hrefuses : ∀ st, s.holdEntry p i key = s.refuse p st → answers st := fun st hst => hx.trans (hst ▸ rfl)
    refine ⟨fun slot q k old hown hslot => ?_, fun hown hother => ?_, fun hown hother => ?_⟩
    · exact hgives slot _ (hlease ▸ holdEntry_active key hown hslot)
    · exact hrefuses .held (holdEntry_held key hown hother)
    · have hfree : ¬s.holdsActive (otherPort p) i = true := Bool.eq_false_iff.1 hother
      refine ⟨fun slot hlapsed => ?_, fun hlapsed => ⟨fun slot hempty => ?_, fun hempty => ?_⟩⟩
      · exact hgives slot _ (hlease ▸ holdEntry_lapsed key hown hfree hlapsed)
      · exact hgives slot _ (hlease ▸ holdEntry_empty key hown hfree hlapsed hempty)
      · exact hrefuses .full (holdEntry_full key hown hfree hlapsed hempty)

/-- Settles O31: the three outcomes by what the port's slot for the key is. -/
theorem renewAndReleaseBySlot : Obligations.RenewAndReleaseBySlot := by
  intro s p args key h ha hk answered
  refine ⟨fun hnone => ⟨?_, ?_⟩, fun slot q i k lease c hfor hslot hc => ⟨?_, ?_⟩, fun slot q i k hfor hslot => ⟨?_, ?_⟩⟩
  · exact congrArg Host.Outcome.next (takeRenew_notHeld h ha hk hnone)
  · exact congrArg Host.Outcome.next (takeRelease_notHeld h ha hk hnone)
  · have hrenew := takeRenew_active h ha hk hfor hslot
    rw [leaseOf_of_cls hc] at hrenew
    exact congrArg Host.Outcome.next hrenew
  · exact congrArg Host.Outcome.next (takeRelease_active h ha hk hfor hslot)
  · exact congrArg Host.Outcome.next (takeRenew_lapsed h ha hk hfor hslot)
  · exact congrArg Host.Outcome.next (takeRelease_lapsed h ha hk hfor hslot)

/-! ### INHIBIT (R139) -/

/-- A class named in both masks is refused. -/
theorem takeInhibit_badArg {s : State} {p : Port} {set clear : Byte} (h : s.takes p) (hboth : set &&& clear ≠ 0) :
    s.takeInhibit p [set, clear] = s.refuse p .badArg := by
  simp only [State.takeInhibit, maskArgs, command_takes s p _ _ h, if_neg hboth]

theorem takeInhibit_ok {s : State} {p : Port} {set clear : Byte} (h : s.takes p) (hboth : set &&& clear = 0) :
    s.takeInhibit p [set, clear] =
      { s with inhibit := (s.inhibit ||| set) &&& ~~~clear }.answer p .ok [(s.inhibit ||| set) &&& ~~~clear] := by
  simp only [State.takeInhibit, maskArgs, command_takes s p _ _ h, if_pos hboth]

/-- A class of the set mask, when none is in both masks, is not cleared. -/
theorem inhibit_getLsbD {inhibit set clear : Byte} (hboth : set &&& clear = 0) {c : Nat} (hc : c < 8) :
    ((inhibit ||| set) &&& ~~~clear).getLsbD c = (set.getLsbD c || (inhibit.getLsbD c && !clear.getLsbD c)) := by
  have hnot : (set.getLsbD c && clear.getLsbD c) = false := by
    rw [← BitVec.getLsbD_and, hboth]
    exact BitVec.getLsbD_zero
  simp only [BitVec.getLsbD_and, BitVec.getLsbD_or, BitVec.getLsbD_not, hc, decide_true, Bool.true_and]
  revert hnot
  cases set.getLsbD c <;> cases clear.getLsbD c <;> simp

/-- Settles O33: the two outcomes of the command, and the mask bit by bit. -/
theorem inhibitSetsAndClears : Obligations.InhibitSetsAndClears := by
  intro s p set clear h
  refine ⟨fun hboth => ?_, fun hboth => ⟨_, congrArg Host.Outcome.next (takeInhibit_ok h hboth), fun c hc => ?_, rfl⟩⟩
  · exact congrArg Host.Outcome.next (takeInhibit_badArg h hboth)
  · exact inhibit_getLsbD hboth hc

end Sys2Proof.Machine
end

section
/-! Leases (7.1.3): what the end of a lease interval leaves in each slot and in the flags of each port, and the expiry of
one slot. -/

namespace Sys2Proof.Machine

/-! ### One slot -/

/-- The slot expires for the port: it is ACTIVE, owned by the port, with a lease of 0. -/
def HoldSlot.expiresFor (p : Port) : HoldSlot → Bool
  | .active q _ _ lease => q == p && lease == 0
  | _ => false

/-- A slot after its expiry: LAPSED when it is ACTIVE with a lease of 0, else as it was. -/
def HoldSlot.expired : HoldSlot → HoldSlot
  | .active q e k lease => if lease = 0 then .lapsed q e k else .active q e k lease
  | h => h

/-- A slot at the end of a lease interval keeps what is above 1 of its lease. -/
theorem lower_expired_of_two_le (q : Port) (e : Nat) (k : Key) {lease : Byte} (h : 2 ≤ lease.toNat) :
    (HoldSlot.active q e k lease).lower.expired = .active q e k (lease - 1) := by
  have hpos : lease ≠ 0 := by bv_omega
  have hleft : lease - 1 ≠ 0 := by bv_omega
  simp only [HoldSlot.lower, HoldSlot.expired, if_neg hpos, if_neg hleft]

theorem lowered_eq_zero {lease : Byte} : (if lease = 0 then 0 else lease - 1) = 0 ↔ lease.toNat ≤ 1 := by
  by_cases h : lease = 0
  · simp [h]
  · rw [if_neg h]
    constructor <;> intro hl <;> bv_omega

/-- A slot at the end of a lease interval lapses with a lease of 1 or less. -/
theorem lower_expired_of_le_one (q : Port) (e : Nat) (k : Key) {lease : Byte} (h : lease.toNat ≤ 1) :
    (HoldSlot.active q e k lease).lower.expired = .lapsed q e k := by
  simp only [HoldSlot.lower, HoldSlot.expired, if_pos (lowered_eq_zero.2 h)]

theorem lower_expired_of_not_active {h : HoldSlot} (hn : ∀ q e k lease, h ≠ .active q e k lease) :
    h.lower.expired = h := by
  cases h with
  | active q e k lease => exact absurd rfl (hn q e k lease)
  | empty | lapsed => rfl

/-- The slots that lapse at the end of a lease interval are the ACTIVE ones with a lease of 1 or less. -/
theorem lower_expiresFor (p : Port) (h : HoldSlot) :
    h.lower.expiresFor p = true ↔ ∃ e k lease, h = .active p e k lease ∧ lease.toNat ≤ 1 := by
  cases h with
  | active q e k lease =>
    simp only [HoldSlot.lower, HoldSlot.expiresFor, Bool.and_eq_true, beq_iff_eq, lowered_eq_zero]
    constructor
    · rintro ⟨rfl, hl⟩
      exact ⟨e, k, lease, rfl, hl⟩
    · rintro ⟨_, _, _, ⟨⟩, hl⟩
      exact ⟨rfl, hl⟩
  | empty | lapsed => exact ⟨nofun, nofun⟩

/-! ### The expiry of one slot -/

/-- The flags of a port, with HOLD_LAPSED set when a slot of it has expired. -/
def lapsedFlags (expires : Bool) (flags : Byte) : Byte :=
  if expires then flags ||| Event.holdLapsed.bit else flags

theorem lapsedFlags_lapsedFlags (a b : Bool) (flags : Byte) :
    lapsedFlags b (lapsedFlags a flags) = lapsedFlags (a || b) flags := by
  cases a <;> cases b <;> simp [lapsedFlags, BitVec.or_assoc]

/-- An ACTIVE slot whose lease is 0 becomes LAPSED and sets HOLD_LAPSED on its port. -/
theorem expire_active {s : State} {slot : Fin 8} {q : Port} {e : Nat} {k : Key}
    (h : s.holds[slot] = .active q e k 0) :
    s.expire slot = (s.setHold slot (.lapsed q e k)).setFlag q .holdLapsed := by
  simp only [State.expire, h, if_true]

/-- A slot that expires for no port is left as it is. -/
theorem expired_or_unexpired (h : HoldSlot) :
    (∃ q e k, h = .active q e k 0) ∨ h.expired = h ∧ ∀ p, h.expiresFor p = false := by
  cases h with
  | active q e k lease =>
    by_cases hl : lease = 0
    · exact .inl ⟨q, e, k, by rw [hl]⟩
    · exact .inr ⟨if_neg hl, fun p => by simpa [HoldSlot.expiresFor] using fun _ => hl⟩
  | empty | lapsed => exact .inr ⟨rfl, fun _ => rfl⟩

theorem expire_of_unexpired {s : State} {slot : Fin 8} (h : ∀ p, (s.holds[slot]).expiresFor p = false) :
    s.expire slot = s := by
  unfold State.expire
  split
  · next q e k lease heq =>
    have hl : ¬lease = 0 := by simpa [heq, HoldSlot.expiresFor] using h q
    exact if_neg hl
  · rfl

/-- The expiry of a slot writes that slot and the flags. -/
theorem expire_eq (s : State) (slot : Fin 8) :
    s.expire slot =
      { s with
        holds := s.holds.set slot (s.holds[slot]).expired
        portM := { s.portM with flags := lapsedFlags ((s.holds[slot]).expiresFor .m) s.portM.flags }
        portS := { s.portS with flags := lapsedFlags ((s.holds[slot]).expiresFor .s) s.portS.flags } } := by
  rcases expired_or_unexpired (s.holds[slot]) with ⟨q, e, k, h⟩ | ⟨hsame, hnone⟩
  · rw [expire_active h, h]
    cases q <;> rfl
  · rw [expire_of_unexpired hnone, hsame, hnone, hnone, holds_set_self]
    rfl

/-! ### The expiry of all slots -/

/-- A slot of the port is among those given that expire. -/
def State.anyExpires (s : State) (slots : List (Fin 8)) (p : Port) : Bool :=
  slots.any fun j => (s.holds[j]).expiresFor p

/-- The slots given expire one after another: those of them that are ACTIVE with a lease of 0 become LAPSED, and set
HOLD_LAPSED on their ports. -/
theorem expireAll_eq (slots : List (Fin 8)) (hdistinct : slots.Nodup) (s : State) :
    ∃ holds : Vector HoldSlot 8,
      (∀ j : Fin 8, holds[j] = if j ∈ slots then (s.holds[j]).expired else s.holds[j]) ∧
      slots.foldl State.expire s =
        { s with
          holds := holds
          portM := { s.portM with flags := lapsedFlags (s.anyExpires slots .m) s.portM.flags }
          portS := { s.portS with flags := lapsedFlags (s.anyExpires slots .s) s.portS.flags } } := by
  induction slots generalizing s with
  | nil => exact ⟨s.holds, fun j => rfl, rfl⟩
  | cons slot rest ih =>
    obtain ⟨hslot, hrest⟩ := List.nodup_cons.1 hdistinct
    obtain ⟨holds, hholds, hfold⟩ := ih hrest (s.expire slot)
    have hsame : (s.expire slot).holds[slot] = (s.holds[slot]).expired := by
      rw [expire_eq]
      exact holds_set_same _ _ _
    have hother : ∀ j : Fin 8, j ≠ slot → (s.expire slot).holds[j] = s.holds[j] := by
      intro j hj
      rw [expire_eq]
      exact holds_set_other _ _ hj
    have hany : ∀ p, (s.expire slot).anyExpires rest p = s.anyExpires rest p := by
      intro p
      rw [Bool.eq_iff_iff, State.anyExpires, State.anyExpires, List.any_eq_true, List.any_eq_true]
      exact exists_congr fun j => and_congr_right fun hj => by rw [hother j fun h => hslot (h ▸ hj)]
    refine ⟨holds, fun j => ?_, ?_⟩
    · rw [hholds]
      by_cases hj : j = slot
      · subst hj
        rw [if_neg hslot, if_pos List.mem_cons_self, hsame]
      · simp only [hother j hj, List.mem_cons, hj, false_or]
    · rw [List.foldl_cons, hfold, hany, hany, expire_eq]
      simp only [lapsedFlags_lapsedFlags]
      rfl

theorem allSlots_nodup : allSlots.Nodup := by decide

theorem mem_allSlots : ∀ j : Fin 8, j ∈ allSlots := by decide

/-- The end of a lease interval in READY: every slot is lowered and expires where that leaves it 0. -/
theorem endInterval_eq {s : State} (h : s.phase = .ready) :
    ∃ holds : Vector HoldSlot 8, (∀ j : Fin 8, holds[j] = ((s.holds[j]).lower).expired) ∧
      s.endInterval =
        { s with
          holds := holds
          portM := { s.portM with
            flags := lapsedFlags (allSlots.any fun j => (s.holds[j]).lower.expiresFor .m) s.portM.flags }
          portS := { s.portS with
            flags := lapsedFlags (allSlots.any fun j => (s.holds[j]).lower.expiresFor .s) s.portS.flags } } := by
  obtain ⟨holds, hholds, hall⟩ :=
    expireAll_eq allSlots allSlots_nodup { s with holds := s.holds.map HoldSlot.lower }
  have hlower : ∀ j : Fin 8, (s.holds.map HoldSlot.lower)[j] = (s.holds[j]).lower := fun j => by simp
  refine ⟨holds, fun j => ?_, ?_⟩
  · rw [hholds, if_pos (mem_allSlots j), hlower]
  · rw [State.endInterval, if_pos h, hall]
    simp only [State.anyExpires, hlower]

/-- A port has a slot that lapses at the end of the interval. -/
theorem any_lower_expiresFor (s : State) (p : Port) :
    (allSlots.any fun j => (s.holds[j]).lower.expiresFor p) = true ↔
      ∃ (slot : Fin 8) (i : Nat) (k : Key) (lease : Byte), s.holds[slot] = .active p i k lease ∧ lease.toNat ≤ 1 := by
  simp only [List.any_eq_true, mem_allSlots, true_and, lower_expiresFor]

/-- Settles O32: the interval by `endInterval_eq`, slot by slot and port by port, and the single expiry by
`expire_active`. -/
theorem leasesCountDownAndLapse : Obligations.LeasesCountDownAndLapse := by
  refine ⟨fun s hready => ?_, fun s slot q i k hready hslot => ?_, fun s n hnot => ⟨?_, ?_⟩⟩
  · intro lapses
    obtain ⟨holds, hholds, hx⟩ := endInterval_eq hready
    refine ⟨_, congrArg Host.Outcome.next hx, fun slot q i k lease hslot hl => ?_, fun slot q i k lease hslot hl => ?_,
      fun slot hn => ?_, fun p hp => ?_, fun p hp => ?_, rfl⟩
    · exact (hholds slot).trans (hslot ▸ lower_expired_of_two_le q i k hl)
    · exact (hholds slot).trans (hslot ▸ lower_expired_of_le_one q i k hl)
    · exact (hholds slot).trans (lower_expired_of_not_active hn)
    · have hany := (any_lower_expiresFor s p).2 hp
      cases p <;> exact congrArg (lapsedFlags · _) hany
    · have hany := Bool.eq_false_iff.2 fun h => hp ((any_lower_expiresFor s p).1 h)
      cases p <;> exact congrArg (lapsedFlags · _) hany
  · have hx : s.holdLapses slot.val = s.expire slot := by
      rw [State.holdLapses, dif_pos slot.isLt, if_pos hready]
    exact congrArg Host.Outcome.next (hx.trans (expire_active hslot))
  · exact congrArg Host.Outcome.next (if_neg hnot)
  · refine congrArg Host.Outcome.next (?_ : s.holdLapses n = s)
    by_cases hn : n < 8
    · rw [State.holdLapses, dif_pos hn, if_neg hnot]
    · rw [State.holdLapses, dif_neg hn]

end Sys2Proof.Machine
end

section
/-! The census (Chapter 8): CENSUS and CENSUS_CANCEL of a port that takes commands, and the walk. First what the search
for the next entry finds, then what the unit and the arbiter make of it together, then the ends of the reads. -/

namespace Sys2Proof.Machine

/-! ### The next entry of the scope (R143) -/

theorem inScope_iff (scope : Option Cls) (c : Cls) : inScope scope c = true ↔ scope = none ∨ scope = some c := by
  cases scope with
  | none => simp [inScope]
  | some c' => simp [inScope, eq_comm (a := c)]

/-- A census visits the LIVE entries of its scope. -/
theorem visitable_iff (e : Entry) (scope : Option Cls) :
    e.visitable scope = true ↔ ∃ l, e.body = .live l ∧ (scope = none ∨ scope = some l.cls) := by
  cases h : e.body <;> simp [Entry.visitable, h, inScope_iff]

/-- The entry is one that the search for the next visit may find. -/
abbrev State.visits (s : State) (scope : Option Cls) (cursor i : Nat) : Prop :=
  i < 512 ∧ cursor ≤ i ∧ ∃ l, (s.entry i).body = .live l ∧ (scope = none ∨ scope = some l.cls)

theorem visits_iff (s : State) (scope : Option Cls) (cursor i : Nat) :
    s.visits scope cursor i ↔ i < 512 ∧ (decide (cursor ≤ i) && (s.entry i).visitable scope) = true := by
  rw [Bool.and_eq_true, decide_eq_true_eq, visitable_iff]

theorem nextVisit_eq_some (s : State) (scope : Option Cls) (cursor i : Nat) :
    s.nextVisit scope cursor = some i ↔
      s.visits scope cursor i ∧ ∀ j, j < i → ¬s.visits scope cursor j := by
  simp only [visits_iff]
  rw [State.nextVisit, find?_entryIndices_eq_some, ← and_assoc]
  refine and_congr_right fun ⟨hi, _⟩ => forall₂_congr fun j hj => ?_
  rw [and_iff_right (Nat.lt_trans hj hi), Bool.not_eq_true]

theorem nextVisit_eq_none (s : State) (scope : Option Cls) (cursor : Nat) :
    s.nextVisit scope cursor = none ↔ ∀ i, ¬s.visits scope cursor i := by
  simp only [visits_iff]
  rw [State.nextVisit, find?_entryIndices_eq_none]
  simp only [not_and, Bool.not_eq_true]

/-- The search does not rest on the flags of the entries. -/
theorem nextVisit_of_flagsOnly {s u : State} (h : ∀ i, FlagsOnly (s.entry i) (u.entry i)) (scope : Option Cls)
    (cursor : Nat) : u.nextVisit scope cursor = s.nextVisit scope cursor := by
  simp only [State.nextVisit, fun i => (h i).visitable scope]

/-! ### An entry is taken up and its header read granted (R143, R144, R147) -/

theorem takeUp_next {s : State} {c : CensusRun} {k : Nat} (h : s.nextVisit c.scope c.cursor = some k) :
    s.takeUp c =
      { s with
        census := some { c with cursor := k, current := none }
        arb := { s.arb with waitCensus := some (.header k) } } := by
  rw [State.takeUp, h]

theorem takeUp_done {s : State} {c : CensusRun} (h : s.nextVisit c.scope c.cursor = none) :
    s.takeUp c =
      { s with
        census := some { c with cursor := 512, current := none, state := .done }
        arb := { s.arb with waitCensus := none } }.setFlag c.port .censusDone := by
  rw [State.takeUp, h]
  rfl

/-- The census alone claims the array, which nobody uses and of which no boundary is owed. -/
abbrev State.censusWaits (s : State) (claim : CensusClaim) : Prop :=
  s.arb.user = none ∧ s.arb.suspended = none ∧ s.arb.boundary = none ∧ s.arb.waitM = none ∧ s.arb.waitS = none ∧
    s.arb.waitCensus = some claim ∧ s.arb.waitEngine = none

/-- The census, waiting alone, is granted its claim (R41). -/
theorem arbiterMove_census (e : Bool) {s : State} {claim : CensusClaim} (h : s.censusWaits claim) :
    s.arbiterMove e = s.grantCensus claim := by
  obtain ⟨hu, hs, hb, hm, hp, hc, he⟩ := h
  rw [arbiterMove_free e s hu hs hb, grantFree_census e s claim hm hp hc he]

/-- The grant of the census's read, which it claims alone, is the whole grant. -/
theorem grants_census (e : Bool) (m : Nat) {s : State} {claim : CensusClaim} (h : s.censusWaits claim)
    (hu : (s.grantCensus claim).arb.user.isSome = true) : State.grants e (m + 1) s = s.grantCensus claim :=
  grants_one e m s _ h.1 (arbiterMove_census e h) hu

/-- An arbiter for which the census does not wait, its claim withdrawn. -/
theorem unclaimed_eq {a : Arbiter} (h : a.waitCensus = none) : { a with waitCensus := none } = a := by
  rw [← h]

/-- The unit takes up a LIVE entry with the array free: its header read is granted. -/
theorem grants_takeUp_next (e : Bool) (m : Nat) {s : State} {c : CensusRun} {k pair n : Nat} {l : Live}
    (hfree : s.arrayFree) (hk : s.nextVisit c.scope c.cursor = some k) (he : s.entry k = ⟨.live l, some pair, n⟩) :
    State.grants e (m + 1) (s.takeUp c) =
      { s with
        census := some { c with cursor := k, current := some (CensusEntry.of k l (Loc.num pair l.cell)) }
        arb := { s.arb with user := some (.census (Loc.num pair l.cell) 0 k true) } } := by
  obtain ⟨hu, hs, hb, hm, hp, hc, hen⟩ := hfree
  have hwaits : (s.takeUp c).censusWaits (.header k) := by
    rw [takeUp_next hk]
    exact ⟨hu, hs, hb, hm, hp, rfl, hen⟩
  have hcensus : (s.takeUp c).census = some { c with cursor := k, current := none } := by rw [takeUp_next hk]
  have hentry : (s.takeUp c).entry k = ⟨.live l, some pair, n⟩ := (congrArg (State.entry · k) (takeUp_next hk)).trans he
  have hgrant := grantCensus_header _ _ k l pair n hcensus hentry
  rw [grants_census e m hwaits (by rw [hgrant]; rfl), hgrant, takeUp_next hk, ← hc]

/-- The unit finds no entry to take up, with the array free: the walk is DONE, and nothing is granted. -/
theorem grants_takeUp_done (e : Bool) (m : Nat) {s : State} {c : CensusRun} (hfree : s.arrayFree)
    (hnone : s.nextVisit c.scope c.cursor = none) :
    State.grants e m (s.takeUp c) =
      { s with census := some { c with cursor := 512, current := none, state := .done } }.setFlag c.port .censusDone := by
  obtain ⟨-, hs, hb, hm, hp, hc, hen⟩ := hfree
  rw [takeUp_done hnone, unclaimed_eq hc]
  exact grants_quiet e m _ ⟨hs, hm, hp, hc, hen⟩ hb

/-! ### CENSUS and CENSUS_CANCEL (R142, R148) -/

theorem censusRunning_iff (s : State) : s.censusRunning = true ↔ ∃ r, s.census = some r ∧ r.state = .running := by
  cases h : s.census <;> simp [State.censusRunning, h]

theorem exec_census_busy {s : State} {p : Port} {b : Byte} {scope : Option Cls} (h : s.takes p)
    (hb : scopeOfByte b = some scope) (hrun : s.censusRunning = true) :
    exec (.census p [b]) s = .next (s.refuse p .busy) := by
  refine congrArg Host.Outcome.next ((command_takes s p b _ h).trans ?_)
  simp only [hb, hrun, if_true]

/-- A CENSUS that finds none RUNNING and the array free begins its walk there. -/
theorem exec_census_starts {s : State} {p : Port} {b : Byte} {scope : Option Cls} (h : s.takes p)
    (hb : scopeOfByte b = some scope) (hrun : s.censusRunning = false) (hfree : s.arrayFree) :
    exec (.census p [b]) s = .next ((s.answer p .ok []).takeUp (CensusRun.start scope p)).grant := by
  have harb : s.arb.withoutCensus = s.arb := by
    obtain ⟨hu, -, hb, -, -, hc, -⟩ := hfree
    rw [Arbiter.withoutCensus, hu, hb, Option.map_none, Option.map_none, ← hu, ← hb, unclaimed_eq hc]
  refine congrArg Host.Outcome.next ((command_takes s p b _ h).trans ?_)
  simp only [hb, hrun, harb, Bool.false_eq_true, if_false]

theorem exec_censusCancel {s : State} {p : Port} (h : s.takes p) (hrun : s.censusRunning = true) :
    exec (.censusCancel p []) s = .next (s.cancelCensus.answer p .ok []) := by
  refine congrArg Host.Outcome.next ((command_takes s p () _ h).trans ?_)
  rw [if_pos hrun]

/-- An answer is in the slot of its port, and leaves the other port. -/
theorem answer_ports (s : State) (p : Port) (st : Status) (d : Bytes) :
    ((s.answer p st d).port p).slot = .ready st d ∧ (s.answer p st d).port (otherPort p) = s.port (otherPort p) := by
  cases p <;> exact ⟨rfl, rfl⟩

/-- An answer sets no event flag. -/
theorem answer_flags (s : State) (p q : Port) (st : Status) (d : Bytes) :
    ((s.answer p st d).port q).flags = (s.port q).flags := by
  cases p <;> cases q <;> rfl

/-- Settles O37: a RUNNING census answers BUSY and is cancelled; else the first entry of the scope is taken up. -/
theorem censusStartsAndCancels : Obligations.CensusStartsAndCancels := by
  intro s p b scope htakes hscope
  refine ⟨fun r hr hstate => ?_, fun hnot hfree => ?_⟩
  · have hrun : s.censusRunning = true := (censusRunning_iff s).2 ⟨r, hr, hstate⟩
    have hcancelled : s.cancelCensus.census = some { r with state := .cancelled } := by rw [State.cancelCensus, hr]; rfl
    have hports : ∀ q, s.cancelCensus.port q = s.port q := fun q => by cases q <;> rfl
    obtain ⟨hslot, hother⟩ := answer_ports s.cancelCensus p .ok []
    refine ⟨exec_census_busy htakes hscope hrun, _, exec_censusCancel htakes hrun, hcancelled, rfl, hslot, ?_, ?_⟩
    · exact (answer_flags s.cancelCensus p p .ok []).trans (congrArg PortState.flags (hports p))
    · exact hother.trans (hports _)
  · have hrun : s.censusRunning = false := by
      rw [Bool.eq_false_iff, Ne, censusRunning_iff]
      exact fun ⟨r, hr, hstate⟩ => hnot r hr hstate
    have hx := exec_census_starts htakes hscope hrun hfree
    refine ⟨fun hnone => ⟨_, hx, ?_⟩, fun i l pair hi hl hp => ⟨_, hx, ?_⟩⟩
    · have hdone := grants_takeUp_done false grantMoves (s := s.answer p .ok []) (c := .start scope p) hfree hnone
      rw [State.grant, hdone]
      cases p <;> exact ⟨rfl, rfl, rfl⟩
    · have hgranted :=
        grants_takeUp_next false 11 (s := s.answer p .ok []) (c := .start scope p) hfree hi (entry_eq hl hp)
      rw [State.grant, grantMoves, hgranted]
      exact ⟨rfl, rfl, (answer_ports s p .ok []).1⟩

end Sys2Proof.Machine
end

section
/-! The walk of a census (8.3, 8.4): what the end of a counted read enters in the record, and what the unit claims
next. -/

namespace Sys2Proof.Machine

/-! ### What a counted read enters in the record (R144, R145) -/

/-- The record with the outcome of a read of granule `g` in its counts. -/
def CensusRun.counted (r : CensusRun) (g : Nat) (o : Outcome) : CensusRun :=
  { r with
    visited := if g = 0 then r.visited + 1 else r.visited
    corrected := if o = .corrected then r.corrected + 1 else r.corrected
    uncorrectable := if o = .uncorrectable then r.uncorrectable + 1 else r.uncorrectable
    unguarded := if o = .unguarded then r.unguarded + 1 else r.unguarded }

/-- The entry recorded, with the bytes of a read of granule `g`. -/
def CensusEntry.grown (e : CensusEntry) (g : Nat) (d : Data) : CensusEntry :=
  { e with payload := if g = 0 then e.payload else e.payload ++ bytesAt d 0 32 }

theorem counted_eq (r : CensusRun) (g : Nat) (o : Outcome) :
    (if g = 0 then { r.count o with visited := (r.count o).visited + 1 } else r.count o) = r.counted g o := by
  by_cases hg : g = 0 <;> cases o <;> simp [CensusRun.counted, CensusRun.count, hg]

theorem grown_eq (e : CensusEntry) (g : Nat) (d : Data) :
    (if g = 0 then e else { e with payload := e.payload ++ bytesAt d 0 32 }) = e.grown g d := by
  by_cases hg : g = 0 <;> simp [CensusEntry.grown, hg]

/-- A counted read enters the record; before the last data granule the unit claims the next granule, and at the last it
folds the entry and takes up the next (R143 to R145). -/
theorem censusRead_eq {s : State} {r : CensusRun} {e : CensusEntry} (g : Nat) (o : Outcome × Data)
    (hr : s.census = some r) (he : r.current = some e) :
    s.censusRead g o =
      if g < 1 + (e.length - 1) / 32 then
        { s with
          census := some { r.counted g o.1 with current := some (e.grown g o.2) }
          arb := { s.arb with waitCensus := some (.data (g + 1)) } }
      else
        s.takeUp { r.counted g o.1 with
          cursor := r.cursor + 1
          crc := crc32Bytes r.crc (e.grown g o.2).folded } := by
  have hlast : lastGranule (e.grown g o.2).length = 1 + (e.length - 1) / 32 := rfl
  have hcrc : (r.counted g o.1).crc = r.crc := rfl
  have hcursor : (r.counted g o.1).cursor = r.cursor := rfl
  simp only [State.censusRead, hr, he, counted_eq, grown_eq, hlast, hcrc, hcursor]

/-- A counted read touches what a move of the arbiter can touch. -/
theorem arbiterOnly_censusRead {s : State} {r : CensusRun} {e : CensusEntry} (g : Nat) (o : Outcome × Data)
    (hr : s.census = some r) (he : r.current = some e) : ArbiterOnly s (s.censusRead g o) := by
  rw [censusRead_eq g o hr he]
  split
  · exact ⟨_, _, s.portM, s.portS, s.free, rfl⟩
  · obtain ⟨a, cn, pm, ps, h⟩ := takeUp_touches s
      { r.counted g o.1 with cursor := r.cursor + 1, crc := crc32Bytes r.crc (e.grown g o.2).folded }
    exact ⟨a, cn, pm, ps, s.free, h⟩

/-! ### What the end of a read leaves of the walk: the entries it visits and the flag CENSUS_DONE (R147) -/

/-- CENSUS_DONE stands on each port as before, and of the entries only the damaged and refresh_wanted flags may have
changed. -/
structure WalkKept (s u : State) : Prop where
  entries : ∀ i, FlagsOnly (s.entry i) (u.entry i)
  done : ∀ p, (u.port p).flags.getLsbD 3 = (s.port p).flags.getLsbD 3

theorem WalkKept.refl (s : State) : WalkKept s s := ⟨fun _ => FlagsOnly.refl _, fun _ => rfl⟩

theorem WalkKept.trans {s t u : State} (h : WalkKept s t) (h' : WalkKept t u) : WalkKept s u :=
  ⟨fun i => (h.entries i).trans (h'.entries i), fun p => (h'.done p).trans (h.done p)⟩

theorem walkKept_upsets (s : State) (l : Loc) (us : List Upset) : WalkKept s (s.upsets l us) := by
  obtain ⟨g, m, h⟩ := upsets_touches s l us
  rw [h]
  exact ⟨fun _ => FlagsOnly.refl _, fun p => by cases p <;> rfl⟩

/-- A report may set UNCORRECTABLE, and no other event flag. -/
theorem walkKept_report (s : State) (r : Report) : WalkKept s (s.report r) := by
  refine ⟨flagsOnly_report s r, fun p => ?_⟩
  by_cases h : r.outcome = .uncorrectable ∧ r.place.party ≠ .scan
  · rw [report_flags h.2 h.1]
    simp [Event.bit, Event.number]
  · rw [State.report, State.reportEvent, if_neg h, reportEntry_port]
    cases p <;> rfl

theorem walkKept_reportReads (s : State) (g : ReadGrant) (rs : List (Nat × Outcome × Data)) :
    WalkKept s (s.reportReads g rs) := by
  unfold State.reportReads
  induction rs generalizing s with
  | nil => exact .refl s
  | cons r rs ih => exact (walkKept_report _ _).trans (ih _)

/-- The ports and the entries do not rest on the arbiter. -/
theorem walkKept_arb (s : State) (a : Arbiter) : WalkKept s { s with arb := a } :=
  ⟨fun _ => FlagsOnly.refl _, fun p => by cases p <;> rfl⟩

theorem walkKept_answer (s : State) (p : Port) (st : Status) (d : Bytes) : WalkKept s (s.answer p st d) :=
  ⟨fun _ => FlagsOnly.refl _, fun q => by rw [answer_flags]⟩

theorem walkKept_readAnswered (s : State) (g : ReadGrant) : WalkKept s (s.readAnswered g) :=
  ((walkKept_reportReads s g _).trans (walkKept_answer _ g.port .ok _)).trans (walkKept_arb _ _)

theorem setFlag_censusDone (s : State) (p q : Port) :
    ((s.setFlag q .censusDone).port p).flags.getLsbD 3 = ((s.port p).flags.getLsbD 3 || decide (p = q)) := by
  cases p <;> cases q <;> simp [State.setFlag, State.modPort, State.port, Event.bit, Event.number]

/-! ### The unit takes up the next entry -/

/-- From `s` on the unit has taken up the next entry for the record `c`, which leaves `t`: the first LIVE entry of the
scope from the cursor on is recorded with its header read granted, or the walk is DONE. -/
abbrev TakesUp (s t : State) (c : CensusRun) : Prop :=
  (∀ k l pair n, s.nextVisit c.scope c.cursor = some k → s.entry k = ⟨.live l, some pair, n⟩ →
    t.census = some
      { c with
        cursor := k
        current := some ⟨k, l.key, l.cls, l.gen, l.length, Loc.num pair l.cell, []⟩ } ∧
    t.arb.user = some (.census (Loc.num pair l.cell) 0 k true) ∧
    ∀ p, (t.port p).flags.getLsbD 3 = (s.port p).flags.getLsbD 3) ∧
  (s.nextVisit c.scope c.cursor = none →
    t.census = some { c with cursor := 512, current := none, state := .done } ∧ t.arb.user = none ∧
    ∀ p, (t.port p).flags.getLsbD 3 = ((s.port p).flags.getLsbD 3 || decide (p = c.port)))

/-- The taking up after a read sees the entries as they were before it. -/
theorem takesUp_of_walkKept (e : Bool) (m : Nat) {s u : State} (c : CensusRun) (hkept : WalkKept s u)
    (hfree : u.arrayFree) : TakesUp s (State.grants e (m + 1) (u.takeUp c)) c := by
  rw [TakesUp, ← nextVisit_of_flagsOnly hkept.entries]
  refine ⟨fun k l pair n hk he => ?_, fun hnone => ?_⟩
  · obtain ⟨d, w, hu⟩ := (hkept.entries k).live he
    rw [grants_takeUp_next e m hfree hk hu]
    exact ⟨rfl, rfl, hkept.done⟩
  · rw [grants_takeUp_done e (m + 1) hfree hnone]
    refine ⟨rfl, hfree.1, fun p => ?_⟩
    rw [setFlag_censusDone, ← hkept.done p]
    cases p <;> rfl

/-! ### The end of a census read -/

theorem upsets_arb_census_capture (s : State) (l : Loc) (us : List Upset) :
    (s.upsets l us).arb = s.arb ∧ (s.upsets l us).census = s.census ∧ (s.upsets l us).capture = s.capture := by
  obtain ⟨g, m, h⟩ := upsets_touches s l us
  rw [h]
  exact ⟨rfl, rfl, rfl⟩

/-- A read of the census reported, before it enters the record. -/
def State.censusReported (s : State) (loc : Loc) (g i : Nat) : State :=
  let u := s.report ⟨(s.readGranule loc g).1, loc, g, some i, .census⟩
  { u with arb := { u.arb with user := none } }

theorem exec_censusReadEnd {s : State} (us : List Upset) {loc : Loc} {g i : Nat}
    (hu : s.arb.user = some (.census loc g i true)) :
    exec (.censusReadEnd us) s =
      .next (((s.upsets loc us).censusReported loc g i).censusRead g
        ((s.upsets loc us).readGranule loc g)).grantAfterCensus := by
  simp only [exec, execCensusReadEnd, State.endCensusRead, hu]
  rfl

theorem censusReported_facts (s : State) (loc : Loc) (g i : Nat) :
    let t := s.censusReported loc g i
    t.arb = { s.arb with user := none } ∧ t.census = s.census ∧ t.granules = s.granules ∧ t.marks = s.marks ∧
      t.capture = s.capture.take ⟨(s.readGranule loc g).1, loc, g, some i, .census⟩ := by
  obtain ⟨es, rl, fm, fs, h⟩ := report_touches s ⟨(s.readGranule loc g).1, loc, g, some i, .census⟩
  simp only [State.censusReported, h, and_self]

theorem walkKept_censusReported (s : State) (loc : Loc) (g i : Nat) : WalkKept s (s.censusReported loc g i) :=
  (walkKept_report s _).trans (walkKept_arb _ _)

/-- The arbiter is as after a reset, but for a last-granted port. -/
theorem arrayFree_of_reset {s : State} {q : Port} (h : s.arb = { Arbiter.reset with lastPort := q }) : s.arrayFree := by
  rw [State.arrayFree, h]
  exact ⟨rfl, rfl, rfl, rfl, rfl, rfl, rfl⟩

/-- The walk goes on within a record: the next granule's read is granted. -/
theorem grants_censusRead_within {u : State} {r : CensusRun} {e : CensusEntry} {g : Nat} (o : Outcome × Data)
    (hfree : u.arrayFree) (hr : u.census = some r) (he : r.current = some e) (hg : g < 1 + (e.length - 1) / 32) :
    (u.censusRead g o).grantAfterCensus =
      { u with
        census := some { r.counted g o.1 with current := some (e.grown g o.2) }
        arb := { u.arb with user := some (.census e.loc (g + 1) e.entry true) } } := by
  obtain ⟨hu, hs, hb, hm, hp, hc, hen⟩ := hfree
  have hread := (censusRead_eq g o hr he).trans (if_pos hg)
  have hwaits : (u.censusRead g o).censusWaits (.data (g + 1)) := by
    rw [hread]
    exact ⟨hu, hs, hb, hm, hp, rfl, hen⟩
  have hcensus : (u.censusRead g o).census = some { r.counted g o.1 with current := some (e.grown g o.2) } := by
    rw [hread]
  have hgrant := grantCensus_data _ _ (g + 1) (e.grown g o.2) hcensus rfl
  rw [State.grantAfterCensus, grantMoves, grants_census true 11 hwaits (by rw [hgrant]; rfl), hgrant, hread, ← hc]
  rfl

/-- The end of a counted read, with nobody else waiting. -/
theorem censusRead_walks {s : State} {r : CensusRun} {e : CensusEntry} {g : Nat} {q : Port} (us : List Upset)
    (hr : s.census = some r)
    (harb : s.arb = { Arbiter.reset with user := some (.census e.loc g e.entry true), lastPort := q })
    (he : r.current = some e) :
    let o := (s.upsets e.loc us).readGranule e.loc g
    ∃ t, exec (.censusReadEnd us) s = .next t ∧
      t.capture = s.capture.take ⟨o.1, e.loc, g, some e.entry, .census⟩ ∧
      t.granules = (s.upsets e.loc us).granules ∧ t.marks = (s.upsets e.loc us).marks ∧
      (g < 1 + (e.length - 1) / 32 →
        t.census = some { r.counted g o.1 with current := some (e.grown g o.2) } ∧
          t.arb.user = some (.census e.loc (g + 1) e.entry true)) ∧
      (g = 1 + (e.length - 1) / 32 →
        TakesUp s t { r.counted g o.1 with
          cursor := r.cursor + 1
          crc := crc32Bytes r.crc (e.grown g o.2).folded }) := by
  intro o
  obtain ⟨huparb, hupcensus, hupcapture⟩ := upsets_arb_census_capture s e.loc us
  obtain ⟨huarb, hucensus, hugranules, humarks, hucapture⟩ := censusReported_facts (s.upsets e.loc us) e.loc g e.entry
  have hkept := (walkKept_upsets s e.loc us).trans (walkKept_censusReported (s.upsets e.loc us) e.loc g e.entry)
  have hx := exec_censusReadEnd (s := s) us (loc := e.loc) (g := g) (i := e.entry) (by rw [harb])
  generalize (s.upsets e.loc us).censusReported e.loc g e.entry = u at *
  have hr' : u.census = some r := hucensus.trans (hupcensus.trans hr)
  have hfree : u.arrayFree := arrayFree_of_reset (q := q) (by rw [huarb, huparb, harb]; rfl)
  obtain ⟨a, cn, pm, ps, f, ht⟩ := (arbiterOnly_censusRead g o hr' he).trans (arbiterOnly_grants true grantMoves _)
  refine ⟨_, hx, ?_, ?_, ?_, fun hg => ?_, fun hg => ?_⟩
  · exact (congrArg State.capture ht).trans (hucapture.trans (by rw [hupcapture]))
  · exact (congrArg State.granules ht).trans hugranules
  · exact (congrArg State.marks ht).trans humarks
  · rw [grants_censusRead_within _ hfree hr' he hg]
    exact ⟨rfl, rfl⟩
  · rw [censusRead_eq g _ hr' he, if_neg (Nat.not_lt_of_ge (Nat.le_of_eq hg.symm))]
    exact takesUp_of_walkKept true 11 _ hkept hfree

/-! ### An entry that is gone at its grant (R144) -/

/-- The end of a READ frees the array for the arbiter's grants, and leaves what waits and the record. -/
theorem readAnswered_arb_census (s : State) (g : ReadGrant) :
    (s.readAnswered g).arb = { s.arb with user := none } ∧ (s.readAnswered g).census = s.census := by
  obtain ⟨es, rl, fm, fs, c, h⟩ := reportReads_touches s g (s.grantReads g)
  simp only [State.readAnswered, h]
  exact ⟨rfl, rfl⟩

/-- The header read of an entry that is no longer LIVE would be granted: the unit takes up the next entry. -/
theorem grants_gone (e : Bool) (m : Nat) {s : State} {r : CensusRun} {i : Nat} (hr : s.census = some r)
    (hwaits : s.censusWaits (.header i)) (hgone : ∀ l, (s.entry i).body ≠ .live l) :
    State.grants e (m + 1) s =
      State.grants e m ({ s with arb := { s.arb with waitCensus := none } }.takeUp r) := by
  rw [grants_succ e m s hwaits.1, arbiterMove_census e hwaits, grantCensus_gone s r i hr hgone]

/-- The end of a READ with the header read of an entry waiting that is no longer LIVE: the unit takes up the next. -/
theorem readComplete_walks {s : State} {r : CensusRun} {g : ReadGrant} {i : Nat} {q : Port} (us : List Upset)
    (hr : s.census = some r)
    (harb : s.arb = { Arbiter.reset with user := some (.port g), waitCensus := some (.header i), lastPort := q })
    (hgone : ∀ l, (s.entry i).body ≠ .live l) : ∃ t, exec (.readComplete us) s = .next t ∧ TakesUp s t r := by
  obtain ⟨huparb, hupcensus, -⟩ := upsets_arb_census_capture s g.loc us
  obtain ⟨huarb, hucensus⟩ := readAnswered_arb_census (s.upsets g.loc us) g
  have hkept := (walkKept_upsets s g.loc us).trans (walkKept_readAnswered (s.upsets g.loc us) g)
  have hx := exec_readComplete s us g (by rw [harb])
  generalize (s.upsets g.loc us).readAnswered g = u at *
  rw [huparb, harb] at huarb
  have hwaits : u.censusWaits (.header i) := by
    rw [State.censusWaits, huarb]
    exact ⟨rfl, rfl, rfl, rfl, rfl, rfl, rfl⟩
  have hgone' : ∀ l, (u.entry i).body ≠ .live l := by
    rw [(hkept.entries i).other hgone]
    exact hgone
  refine ⟨_, hx, ?_⟩
  rw [State.grant, grantMoves, grants_gone false 11 (hucensus.trans (hupcensus.trans hr)) hwaits hgone']
  exact takesUp_of_walkKept false 10 r (hkept.trans (walkKept_arb u _))
    (arrayFree_of_reset (q := q) (congrArg (fun a : Arbiter => { a with waitCensus := none }) huarb))

/-- Settles O38: the search by its two equations, then the end of a counted read and of a READ. -/
theorem censusHeaderReadEnters : Obligations.CensusHeaderReadEnters := by
  refine ⟨fun s scope cursor => ⟨nextVisit_eq_some s scope cursor, nextVisit_eq_none s scope cursor⟩, ?_⟩
  intro s r us q hr takesUp
  exact ⟨fun e g harb he _ _ => censusRead_walks us hr harb he,
    fun g i harb hgone => readComplete_walks us hr harb hgone⟩

end Sys2Proof.Machine
end

section
/-! Commands to a part that is not READY (9.2), the comparison of generations (R154), and the state after reset
(Table 9-1). -/

namespace Sys2Proof.Machine

/-! ### Generations compared (R154) -/

/-- The successor of a generation is the next number, and that of 65535 is 1. -/
theorem eq_nextGen_iff (g h : Gen) :
    h = nextGen g ↔ (g ≠ 0xFFFF#16 ∧ h.toNat = g.toNat + 1) ∨ (g = 0xFFFF#16 ∧ h = 1#16) := by
  unfold nextGen
  split <;> bv_omega

/-- No two generations are each the successor of the other. -/
theorem nextGen_not_both {g h : Gen} (hs : h = nextGen g) : g ≠ nextGen h := by
  rw [eq_nextGen_iff] at hs
  rw [Ne, eq_nextGen_iff]
  bv_omega

/-- Settles O43: the three branches of the comparison, of which the first two exclude each other. -/
theorem successorRule : Obligations.SuccessorRule := by
  intro g h _ _ successor
  have hsucc : ∀ x y : Gen, successor x y ↔ y = nextGen x := fun x y => by
    rw [eq_nextGen_iff]
    show (y.toNat = x.toNat + 1 ∨ x = 0xFFFF#16 ∧ y = 1#16) ↔ _
    bv_omega
  rw [hsucc, hsucc]
  refine ⟨fun hs => ?_, fun hs => ?_, fun hn hn' => ?_⟩
  · simp [keepsSecond, fallsBack, hs.symm]
  · have hne : h ≠ nextGen g := nextGen_not_both hs
    simp [keepsSecond, fallsBack, hs.symm, hne]
  · simp [keepsSecond, fallsBack, hn, hn']

/-! ### The state after reset (Table 9-1) -/

theorem port_reset (p : Port) : State.reset.port p = PortState.reset := by cases p <;> rfl

/-- A part without an occupied slot meets the law of holds. -/
theorem holdLaw_empty : holdLaw (Vector.replicate 8 HoldSlot.empty) := by
  have hempty : ∀ i : Fin 8, (Vector.replicate 8 HoldSlot.empty)[i] = HoldSlot.empty := by simp
  refine ⟨fun i => by rw [hempty]; rfl, fun i j _ e he => ?_⟩
  rw [hempty] at he
  cases he

/-- Settles O60: a reset leaves no jobs and no occupied slot, and the rest is read off the state after reset. -/
theorem resetMeetsTheLaws : Obligations.ResetMeetsTheLaws := by
  have hlawful : Lawful State.reset := (noJobs_clearTo State.reset .starting).lawful
  obtain ⟨hcapture, hrefresh, hqueue⟩ := hlawful
  refine ⟨⟨rfl, hcapture, hrefresh, hqueue, rfl, holdLaw_empty⟩, rfl, rfl, fun _ _ => rfl, fun p => ?_, rfl, rfl, rfl,
    ⟨rfl, rfl, rfl, rfl, rfl, rfl, rfl⟩, rfl, rfl, fun b => ?_, rfl, rfl, rfl, fun slot => ?_, rfl, rfl, rfl, rfl,
    fun p => ?_⟩
  · show p ∈ List.range' 512 32 ↔ _
    simp
  · show (Vector.replicate 8 Buffer.emptied)[b] = _
    simp [Buffer.emptied]
  · show (Vector.replicate 8 HoldSlot.empty)[slot] = _
    simp
  · rw [port_reset]
    exact ⟨rfl, rfl, rfl, rfl, rfl, rfl⟩

/-! ### Commands to a part that is not READY (R152, R153) -/

theorem noArgs_of_length {a : Bytes} (h : a.length = 0) : noArgs a = some () := by
  rw [List.eq_nil_of_length_eq_zero h]
  rfl

theorem byteArg_of_length {a : Bytes} (h : a.length = 1) : ∃ b, byteArg a = some b := by
  match a, h with
  | [b], _ => exact ⟨b, rfl⟩

theorem maskArgs_of_length {a : Bytes} (h : a.length = 2) : ∃ m, maskArgs a = some m := by
  match a, h with
  | [_, _], _ => exact ⟨_, rfl⟩

theorem listArgs_of_length {a : Bytes} (h : a.length = 3) : ∃ r, listArgs a = some r := by
  match a, h with
  | [_, _, _], _ => exact ⟨_, rfl⟩

theorem setupArgs_of_length {a : Bytes} (h : a.length = 26) : ∃ r, setupArgs a = some r :=
  ⟨_, if_pos h⟩

/-- The argument bytes of a STAGE whose count byte agrees with them. -/
theorem stageArgs_of_count {a : Bytes} (hlow : 4 ≤ a.length) (hhigh : a.length ≤ 227)
    (hcount : a.length = 3 + (a.getD 2 0).toNat) : ∃ r, stageArgs a = some r := by
  match a, hlow, hhigh, hcount with
  | b :: o :: n :: data, hlow, hhigh, hcount =>
    have hfit : data.length = n.toNat ∧ 1 ≤ n.toNat ∧ n.toNat ≤ 224 := by
      simp only [List.length_cons, List.getD_cons_succ, List.getD_cons_zero] at hlow hhigh hcount
      omega
    exact ⟨_, if_pos hfit⟩

/-- A command whose arguments are accepted is answered NOT_READY, whatever it would do. -/
theorem command_notReady_of_args {α : Type} {s : State} {p : Port} {args : Option α} (act : α → State)
    (ha : ∃ x, args = some x) (h : s.takesNotReady p) :
    (.next (s.command p args act) : Host.Outcome State Fault Refusal) =
      .next (s.modPort p (fun ps => { ps with slot := .ready .notReady [] })) := by
  obtain ⟨x, rfl⟩ := ha
  exact congrArg Host.Outcome.next (command_notReady s p x act h)

/-- Settles O4: every command but STATUS takes its arguments first, which a listed count gives, and then asks whether the
part is READY. -/
theorem notReadyIsAnswered : Obligations.NotReadyIsAnswered := by
  intro c p a s hc hstatus hcount h
  cases c
  case status => cases hstatus
  case find | hold | renew | release | fix =>
    cases hc
    exact command_notReady_of_args _ ⟨_, keyArg_of_length (eq_of_beq hcount)⟩ h
  case list =>
    cases hc
    exact command_notReady_of_args _ (listArgs_of_length (eq_of_beq hcount)) h
  case read =>
    cases hc
    exact command_notReady_of_args _ ((readArgs_of_length (eq_of_beq hcount)).imp fun _ => And.left) h
  case retire =>
    cases hc
    obtain ⟨g, ha⟩ := retireArgs_of_length (eq_of_beq hcount)
    exact command_notReady_of_args _ ⟨_, ha⟩ h
  case commit =>
    cases hc
    exact command_notReady_of_args _ ((commitArgs_of_length (eq_of_beq hcount)).imp fun _ => And.left) h
  case stage =>
    cases hc
    obtain ⟨hlow, hhigh, hn⟩ := of_decide_eq_true hcount
    exact command_notReady_of_args _ (stageArgs_of_count hlow hhigh hn) h
  case patch =>
    cases hc
    obtain ⟨hlow, hhigh, hn⟩ := of_decide_eq_true hcount
    exact command_notReady_of_args _ ((patchArgs_of_count hlow hhigh hn).imp fun _ => And.left) h
  case discard | census | ack | eventMask =>
    cases hc
    exact command_notReady_of_args _ (byteArg_of_length (eq_of_beq hcount)) h
  case inhibit =>
    cases hc
    exact command_notReady_of_args _ (maskArgs_of_length (eq_of_beq hcount)) h
  case setupWrite =>
    cases hc
    exact command_notReady_of_args _ (setupArgs_of_length (eq_of_beq hcount)) h
  case result | capture | captureClear | refreshList | censusResult | censusCancel | setupRead | restart =>
    cases hc
    exact command_notReady_of_args _ ⟨_, noArgs_of_length (eq_of_beq hcount)⟩ h
  all_goals cases hc

end Sys2Proof.Machine
end

section
/-! The three kinds of reset (9.1): what an abandoned engine step leaves of the array (R47), and the values the blocks
take. -/

namespace Sys2Proof.Machine

/-! ### What an abandoned step leaves (R47) -/

/-- What an abandoned step leaves in granules of one cell is no change of another. -/
theorem onlyCell_interruptGranules (l : Loc) (new : Granule → Granule) (rs : List GranuleResidue) (s : State)
    (h : ∀ x ∈ rs, x.granule < 8) : OnlyCell l s (rs.foldl (fun s x => s.interruptGranule l new x) s) := by
  induction rs generalizing s with
  | nil => exact OnlyCell.refl l s
  | cons x rs ih =>
    obtain ⟨hx, hrs⟩ := List.forall_mem_cons.1 h
    exact OnlyCell.trans (onlyCell_setGranule s l x.granule _ hx) (ih _ hrs)

/-- An abandoned step leaves every cell but its own. -/
theorem onlyCell_abandonStep (s : State) (r : Residue) (step : EngineStep) (hr : r.wf = true) :
    OnlyCell step.loc s (s.abandonStep r step) := by
  have hwf : ∀ x ∈ r.granules, x.granule < 8 := by
    simp only [Residue.wf, Bool.and_eq_true, List.all_eq_true, decide_eq_true_eq] at hr
    exact hr.1
  cases step with
  | read l g e => exact OnlyCell.refl _ _
  | program l g d =>
    exact onlyCell_interruptGranules l _ _ { s with free := s.free + 1 } fun x hx => hwf x (List.mem_filter.1 hx).1
  | mark l m => exact onlyCell_setMarkField _ _ _
  | erase l =>
    exact (onlyCell_interruptGranules l _ _ s fun x hx => hwf x (List.mem_filter.1 hx).1).trans
      (onlyCell_setMarkField _ _ _)

/-- Each bit of a mixture is the old one or the new one. -/
theorem getLsbD_mixBits {n : Nat} (moved old new : BitVec n) (b : Nat) :
    (mixBits moved old new).getLsbD b = old.getLsbD b ∨ (mixBits moved old new).getLsbD b = new.getLsbD b := by
  by_cases hb : b < n
  · simp only [mixBits, BitVec.getLsbD_or, BitVec.getLsbD_and, BitVec.getLsbD_not, decide_eq_true hb]
    cases moved.getLsbD b <;> simp
  · simp [BitVec.getLsbD_of_ge _ _ (Nat.le_of_not_lt hb)]

/-- Bit `b` is as it was, or as a program of `d` would have left it (R47). -/
def BitAbandoned (d : Data) (b : Nat) (old new : Data) : Prop :=
  new.getLsbD b = old.getLsbD b ∨ new.getLsbD b = (old &&& d).getLsbD b

theorem BitAbandoned.trans {d x y z : Data} {b : Nat} (h : BitAbandoned d b x y) (h' : BitAbandoned d b y z) :
    BitAbandoned d b x z := by
  unfold BitAbandoned at *
  rw [BitVec.getLsbD_and] at *
  rcases h with h | h <;> rw [h] at h'
  · exact h'
  · rcases h' with h' | h' <;> simp [h']

/-- Through any number of residues of its granule, an abandoned program of `d` leaves each data bit as it was, or as the
program would have left it. -/
theorem bitAbandoned_interruptGranules (l : Loc) (g : Nat) (d : Data) (tag b : Nat) (rs : List GranuleResidue) (s : State)
    (h : ∀ x ∈ rs, x.granule = g) :
    BitAbandoned d b (s.granule l g).data
      ((rs.foldl (fun s x => s.interruptGranule l (fun old => old.program d tag) x) s).granule l g).data := by
  induction rs generalizing s with
  | nil => exact Or.inl rfl
  | cons x rs ih =>
    obtain ⟨rfl, hrs⟩ := List.forall_mem_cons.1 h
    have hgran : ((s.interruptGranule l (fun old => old.program d tag) x).granule l x.granule).data =
        mixBits x.moved (s.granule l x.granule).data ((s.granule l x.granule).data &&& d) :=
      congrArg Granule.data (granule_setGranule_same s l x.granule _)
    refine BitAbandoned.trans ?_ (ih (s.interruptGranule l (fun old => old.program d tag) x) hrs)
    rw [hgran]
    exact getLsbD_mixBits x.moved _ _ b

theorem arrayOnly_abandonStep (s : State) (r : Residue) (step : EngineStep) : ArrayOnly s (s.abandonStep r step) := by
  have hfold : ∀ (l : Loc) (new : Granule → Granule) (rs : List GranuleResidue) (s : State),
      ArrayOnly s (rs.foldl (fun s x => s.interruptGranule l new x) s) := by
    intro l new rs
    induction rs with
    | nil => exact fun s => ⟨_, _, _, rfl⟩
    | cons x rs ih =>
      intro s
      obtain ⟨g, m, f, h⟩ := ih (s.interruptGranule l new x)
      exact ⟨g, m, f, h⟩
  cases step with
  | read l g e => exact ⟨_, _, _, rfl⟩
  | program l g d =>
    obtain ⟨x, m, f, h⟩ := hfold l (fun old => old.program d s.free) (r.granules.filter (fun x => x.granule == g))
      { s with free := s.free + 1 }
    exact ⟨x, m, f, h⟩
  | mark l m => exact ⟨_, _, _, rfl⟩
  | erase l =>
    obtain ⟨g, m, f, h⟩ := hfold l (fun _ => Granule.erased) (r.granules.filter (fun x => x.granule < 8)) s
    exact ⟨g, _, f, by rw [State.abandonStep, h]; rfl⟩

/-! ### The step that a reset abandons -/

theorem arrayOnly_abandon (s : State) (r : Residue) : ArrayOnly s (s.abandon r) := by
  unfold State.abandon
  split
  · exact arrayOnly_abandonStep _ _ _
  · exact arrayOnly_abandonStep _ _ _
  · exact ⟨_, _, _, rfl⟩

/-- With no engine step in progress or suspended a reset leaves the array. -/
theorem abandon_none (s : State) (r : Residue) (hu : ∀ st, s.arb.user ≠ some (.engine st)) (hs : s.arb.suspended = none) :
    s.abandon r = s := by
  unfold State.abandon
  rw [hs]
  split
  · next h => cases h
  · next h => exact absurd h (hu _)
  · rfl

theorem abandon_inProgress (s : State) (r : Residue) {st : EngineStep} (hs : s.arb.suspended = none)
    (hu : s.arb.user = some (.engine st)) : s.abandon r = s.abandonStep r st := by
  simp only [State.abandon, hs, hu]

/-- A reset leaves every cell on which no engine step is in progress or suspended. -/
theorem abandon_otherCell (s : State) (r : Residue) (hr : r.wf = true) (l : Loc)
    (hsusp : ∀ sp, s.arb.suspended = some sp → sp.step.loc ≠ l)
    (huser : ∀ st, s.arb.suspended = none → s.arb.user = some (.engine st) → st.loc ≠ l) :
    (∀ g, g < 8 → (s.abandon r).granule l g = s.granule l g) ∧ (s.abandon r).markField l = s.markField l := by
  unfold State.abandon
  split
  · next sp h => exact onlyCell_abandonStep s r sp.step hr l (hsusp sp h).symm
  · next st h hu => exact onlyCell_abandonStep s r st hr l (huser st h hu).symm
  · exact ⟨fun _ _ => rfl, rfl⟩

/-- A granule program that a reset abandons leaves each data bit as it was or as the program would have left it. -/
theorem abandon_programBit (s : State) (r : Residue) (l : Loc) (g : Nat) (d : Data) (b : Nat)
    (hs : s.arb.suspended = none) (hu : s.arb.user = some (.engine (.program l g d))) :
    ((s.abandon r).granule l g).data.getLsbD b = (s.granule l g).data.getLsbD b ∨
      ((s.abandon r).granule l g).data.getLsbD b = ((s.granule l g).data &&& d).getLsbD b := by
  rw [abandon_inProgress s r hs hu]
  exact bitAbandoned_interruptGranules l g d s.free b _ { s with free := s.free + 1 } fun x hx =>
    eq_of_beq (List.mem_filter.1 hx).2

/-- Every block takes its reset value; the array, the counter of free values and the waiting commands stay. -/
theorem clearTo_abandon_eq (s : State) (r : Residue) (ph : Phase) :
    (s.abandon r).clearTo ph =
      { State.reset with
        phase := ph, granules := (s.abandon r).granules, marks := (s.abandon r).marks, free := (s.abandon r).free
        pending := s.pending } := by
  have hp : (s.abandon r).pending = s.pending := by
    obtain ⟨g, m, f, h⟩ := arrayOnly_abandon s r
    rw [h]
  rw [← hp]
  rfl

/-! ### The statements -/

theorem setupRuns_iff (s : State) : s.setupRuns = true ↔ ∃ j w st, s.work = .setup j w st := by
  unfold State.setupRuns
  split
  · next j w st h => exact ⟨fun _ => ⟨j, w, st, h⟩, fun _ => rfl⟩
  · next h => exact ⟨fun hf => absurd hf (by decide), fun ⟨j, w, st, hw⟩ => absurd hw (h j w st)⟩

/-- A RESTART of Port M is deferred behind a SETUP job, and else carried out. -/
theorem exec_restart_m (s : State) (r : Residue) (h : s.takes .m) :
    exec (.restart .m [] r) s =
      .next (if s.setupRuns then { s with restartDeferred := true }.answer .m .ok [] else s.restart r) :=
  congrArg Host.Outcome.next (command_takes s .m () _ h)

/-- Settles O39: by the port, and on Port M by whether a SETUP job runs. -/
theorem restartByPortAndWork : Obligations.RestartByPortAndWork := by
  intro s r
  refine ⟨fun p h => ?_, fun h => ?_, fun h hw => ?_, fun h hw => ⟨s.restart r, ?_, ?_, ?_, ?_, ?_⟩⟩
  · exact congrArg Host.Outcome.next (command_notReady s p () _ h)
  · exact congrArg Host.Outcome.next (command_takes s .s () _ h)
  · rw [exec_restart_m s r h, if_pos ((setupRuns_iff s).2 hw)]
    rfl
  · rw [exec_restart_m s r h, if_neg fun hr => by
      obtain ⟨j, w, st, hwork⟩ := (setupRuns_iff s).1 hr
      exact hw j w st hwork]
  · exact clearTo_abandon_eq s r .starting
  · intro hu hs
    rw [State.restart, abandon_none s r hu hs]
    exact ⟨rfl, rfl⟩
  · exact fun hr l hsusp huser => abandon_otherCell s r hr l hsusp huser
  · exact fun _ l g d b hs hu => abandon_programBit s r l g d b hs hu

/-- Settles O40: both resets abandon the array step and clear the blocks; the end of the hold begins the scan. -/
theorem resetHoldsThenStarts : Obligations.ResetHoldsThenStarts := by
  intro s r c
  refine ⟨fun hc hr => ⟨s.holdReset r, ?_, clearTo_abandon_eq s r .held, abandon_otherCell s r hr,
    abandon_programBit s r⟩, fun hp => ?_⟩
  · rcases hc with rfl | rfl <;> rfl
  · exact congrArg Host.Outcome.next (if_pos hp)

end Sys2Proof.Machine
end

section
/-! The recovery items (9.4): how the engine takes the head of the recovery list (R162), what the end of each array step
of an item leads to, and the failed erase of debris (R163). -/

namespace Sys2Proof.Machine

/-! ### The head of the list is taken (R162) -/

section

variable {s : State} {item : RecoveryItem} {rest : List RecoveryItem}

/-- The engine, free to choose, takes the head of the recovery list. -/
theorem exec_recoveryStart (h : s.engineFree) (hr : s.recovery = item :: rest) :
    exec .recoveryStart s = .next (s.startItem item).grant := by
  obtain ⟨hp, hw, -⟩ := h
  have hmay : s.mayChoose = true := by simp [State.mayChoose, hp, hw]
  simp only [exec, execRecoveryStart, State.recoveryStarts, hmay, hr]

/-- An item that begins with an array step is granted it. -/
theorem recoveryStart_grants (h : s.engineFree) (hr : s.recovery = item :: rest) {w : Work} {step : EngineStep}
    (hi : s.startItem item = s.claims w step) : exec .recoveryStart s = .next (s.atStep w step) := by
  obtain ⟨-, -, hfree⟩ := id h
  rw [exec_recoveryStart h hr, hi, grant_claims s w step hfree]

/-- A MARK_BAD of which both cells carry the mark leaves the list without a step (R164). -/
theorem recoveryStart_markedBad (h : s.engineFree) (hr : s.recovery = item :: rest)
    (hi : s.startItem item = s.itemDone) : exec .recoveryStart s = .next { s with recovery := rest } := by
  obtain ⟨-, hw, hfree⟩ := id h
  have hdone : s.itemDone = { s with recovery := rest } := by
    rw [State.itemDone, hr, ← hw]
    rfl
  rw [exec_recoveryStart h hr, hi, hdone, grant_free { s with recovery := rest } hfree]

end

/-- A MARK_BAD item skips a cell that carries the mark, and marks one that does not (R164). -/
theorem markBadFrom_cons (s : State) (p : Nat) (c : CellName) (cells : List CellName) :
    s.markBadFrom p (c :: cells) =
      if (s.markField (Loc.num p c)).has .bad then s.markBadFrom p cells
      else s.claims (.markBad p c) (.mark (Loc.num p c) (markBit .bad)) := rfl

/-! ### The ends of the array steps of an item -/

section

variable {s after : State} {item : RecoveryItem} {rest : List RecoveryItem} {step : EngineStep} {c : Instr}

/-- An item that is done leaves the list, and the engine is idle on a free array. -/
theorem exec_itemDone (hs : s.engineAlone step) (ha : ArrayOnly s after) (hr : s.recovery = item :: rest)
    (hx : exec c s = .next after.release.itemDone.stepBoundary) :
    exec c s = .next { after.engineDone with recovery := rest } := by
  obtain ⟨g, m, f, rfl⟩ := ha
  have hfree : (State.release { s with granules := g, marks := m, free := f }).itemDone.arrayFree :=
    arrayFree_release (t := { s with granules := g, marks := m, free := f }) hs rfl
  rw [hx, stepBoundary_quiet _ hfree]
  simp only [State.itemDone, State.release, hr, List.drop_succ_cons, List.drop_zero]

variable {l : Loc} {m : BitVec 12} {p : Nat} {cell : CellName}

/-- The end of the supersede mark of a SUPERSEDE item, COMPLETE or FAILED. -/
theorem exec_supersedeMarked (us : List Upset) (hs : s.engineAlone (.mark l m)) (hw : s.work = .supersede p cell) :
    exec (.markProgramEnd us) s = .next (s.markEnded l m us).release.itemDone.stepBoundary := by
  have hwork : (s.markEnded l m us).release.work = .supersede p cell := (stepLeaves_markEnded s l m us 0).work.trans hw
  rw [exec_markProgramEnd s l m us hs, State.afterMark, hwork]

/-- The end of a bad mark of a MARK_BAD item, COMPLETE or FAILED. -/
theorem exec_markBadMarked (us : List Upset) (hs : s.engineAlone (.mark l m)) (hw : s.work = .markBad p cell) :
    exec (.markProgramEnd us) s =
      .next ((s.markEnded l m us).release.markBadMarked p cell).stepBoundary := by
  have hwork : (s.markEnded l m us).release.work = .markBad p cell := (stepLeaves_markEnded s l m us 0).work.trans hw
  rw [exec_markProgramEnd s l m us hs, State.afterMark, hwork]

/-- The end of a bad mark of an ERASE_DEBRIS item, COMPLETE or FAILED. -/
theorem exec_debrisMarked (us : List Upset) {st : DebrisStep} (hs : s.engineAlone (.mark l m))
    (hw : s.work = .eraseDebris p cell st) :
    exec (.markProgramEnd us) s =
      .next ((s.markEnded l m us).release.debrisMarked p cell st).stepBoundary := by
  have hwork : (s.markEnded l m us).release.work = .eraseDebris p cell st :=
    (stepLeaves_markEnded s l m us 0).work.trans hw
  rw [exec_markProgramEnd s l m us hs, State.afterMark, hwork]

/-- The end of the erase of an ERASE_DEBRIS item. -/
theorem exec_debrisErased (us : List Upset) (hs : s.engineAlone (.erase l)) (hw : s.work = .eraseDebris p cell .erase) :
    exec (.cellEraseEnd us) s =
      .next (((s.eraseEnded l us).release.debrisErased p cell .erase
        ((s.eraseEnded l us).eraseTook l)).stepBoundary) := by
  have hwork : (s.eraseEnded l us).release.work = .eraseDebris p cell .erase :=
    (stepLeaves_of_arrayOnly (arrayOnly_eraseEnded s l us) 0).work.trans hw
  rw [exec_cellEraseEnd s l us hs, State.afterErase, hwork]

end

/-! ### The pair of an erase that failed (R163) -/

theorem currentLoc_eq_some (e : Entry) (p : Nat) (c : CellName) :
    e.currentLoc = some (Loc.num p c) ↔ ∃ l n, e = ⟨.live l, some p, n⟩ ∧ l.cell = c := by
  obtain ⟨b, q, n⟩ := e
  constructor
  · intro h
    unfold Entry.currentLoc at h
    split at h
    · next l p' hb hp =>
      dsimp only at hb hp
      subst hb hp
      cases h
      exact ⟨l, n, rfl, rfl⟩
    · cases h
  · rintro ⟨l, n', h, rfl⟩
    cases h
    rfl

/-- The cell is the current cell of a LIVE entry. -/
theorem isCurrentCell_iff (s : State) (p : Nat) (c : CellName) : s.isCurrentCell (Loc.num p c) = true ↔
    ∃ i, i < 512 ∧ ∃ l n, s.entry i = ⟨.live l, some p, n⟩ ∧ l.cell = c := by
  simp only [State.isCurrentCell, List.any_eq_true, mem_entryIndices, beq_iff_eq, currentLoc_eq_some]

/-- The entry that the failed pair is taken from is FREE, and the pair is its own. -/
theorem freeOwner_spec {s : State} {p i : Nat} (h : s.freeOwner p = some i) :
    (s.entry i).body = .free ∧ (s.entry i).pair = some p := by
  have ht := List.find?_some h
  simpa [Entry.isFree] using ht

/-- A FREE entry that the pair alone is the pair of takes pair NONE. -/
theorem disown_entry_owner (s : State) (p i n : Nat) (hi : i < 512) (he : s.entry i = ⟨.free, some p, n⟩)
    (hu : ∀ k, k ≠ i → (s.entry k).pair ≠ some p) : (s.disown p).entry i = ⟨.free, none, n⟩ := by
  have howner : s.freeOwner p = some i := by
    rw [State.freeOwner, find?_entryIndices_eq_some]
    refine ⟨hi, by simp [he, Entry.isFree], fun j hj => ?_⟩
    simp [hu j (Nat.ne_of_lt hj)]
  rw [State.disown, howner]
  exact (entry_setEntry_same _ _ _).trans (by rw [he])

/-- Every other entry stays. -/
theorem disown_entry_other (s : State) (p i : Nat) (h : (s.entry i).body ≠ .free ∨ (s.entry i).pair ≠ some p) :
    (s.disown p).entry i = s.entry i := by
  unfold State.disown
  split
  · next k hk =>
    obtain ⟨hfree, hpair⟩ := freeOwner_spec hk
    refine entry_setEntry_other _ _ _ _ fun hik => ?_
    subst hik
    exact h.elim (· hfree) (· hpair)
  · rfl

theorem disown_touches (s : State) (p : Nat) : ∃ es, s.disown p = { s with entries := es } := by
  unfold State.disown
  split <;> exact ⟨_, rfl⟩

/-- The state with a pair whose debris could not be erased in the BAD set, before a FREE entry loses it. -/
abbrev State.debrisFailed (s : State) (p : Nat) (c : CellName) : State :=
  { s with
    bad := insertNum p s.bad, pool := s.pool.filter (fun q => q != p)
    recovery := s.recovery.filter (fun x => x != .eraseDebris p (otherCell c) && x != .supersede p (otherCell c)) }

/-- A pair whose debris could not be erased is disowned unless its other cell holds a record. -/
theorem debrisPairFails_eq (s : State) (p : Nat) (c : CellName) :
    s.debrisPairFails p c =
      if s.isCurrentCell (Loc.num p (otherCell c)) then s.debrisFailed p c else (s.debrisFailed p c).disown p := rfl

theorem debrisPairFails_touches (s : State) (p : Nat) (c : CellName) :
    ∃ es, s.debrisPairFails p c = { s.debrisFailed p c with entries := es } := by
  rw [debrisPairFails_eq]
  split
  · exact ⟨_, rfl⟩
  · exact disown_touches _ p

/-- What a failed erase of debris leaves of the entries (R163). -/
theorem debrisPairFails_entry (s : State) (p : Nat) (c : CellName) :
    (∀ i n, s.isCurrentCell (Loc.num p (otherCell c)) ≠ true → i < 512 → s.entry i = ⟨.free, some p, n⟩ →
      (∀ k, k ≠ i → (s.entry k).pair ≠ some p) → (s.debrisPairFails p c).entry i = ⟨.free, none, n⟩) ∧
    ∀ i, s.isCurrentCell (Loc.num p (otherCell c)) = true ∨ (s.entry i).body ≠ .free ∨ (s.entry i).pair ≠ some p →
      (s.debrisPairFails p c).entry i = s.entry i := by
  rw [debrisPairFails_eq]
  refine ⟨fun i n hc hi he hu => ?_, fun i h => ?_⟩
  · rw [if_neg hc]
    exact disown_entry_owner (s.debrisFailed p c) p i n hi he hu
  · split
    · rfl
    · next hc => exact disown_entry_other (s.debrisFailed p c) p i (h.resolve_left hc)

/-- The erase of an ERASE_DEBRIS item ends FAILED: the bad mark of its cell is granted, with the pair BAD. -/
theorem debrisErase_fails {s : State} {p : Nat} {c : CellName} (us : List Upset)
    (hs : s.engineAlone (.erase (Loc.num p c))) (hw : s.work = .eraseDebris p c .erase)
    (hf : ¬(s.eraseEnded (Loc.num p c) us).cellErased (Loc.num p c)) :
    exec (.cellEraseEnd us) s =
      .next (((s.eraseEnded (Loc.num p c) us).release.debrisPairFails p c).atStep (.eraseDebris p c .badFailed)
        (.mark (Loc.num p c) (markBit .bad))) := by
  have hfree : ((s.eraseEnded (Loc.num p c) us).release.debrisPairFails p c).arrayFree := by
    obtain ⟨es, h⟩ := debrisPairFails_touches (s.eraseEnded (Loc.num p c) us).release p c
    rw [h]
    exact arrayFree_release hs (eraseEnded_arb s _ us)
  have htook : (s.eraseEnded (Loc.num p c) us).eraseTook (Loc.num p c) = false :=
    Bool.eq_false_iff.2 fun ht => hf ((eraseTook_iff _ _).1 ht)
  rw [exec_debrisErased us hs hw, htook]
  exact congrArg Host.Outcome.next (stepBoundary_claims _ _ _ hfree)

/-! ### The statement -/

/-- The start of each kind of item (R162 to R164). -/
theorem recoveryItem_starts {s : State} {item : RecoveryItem} {rest : List RecoveryItem} (h : s.engineFree)
    (hr : s.recovery = item :: rest) :
    let starts := fun (w : Work) (step : EngineStep) => exec .recoveryStart s = .next (s.atStep w step)
    (∀ p c, item = .eraseDebris p c → starts (.eraseDebris p c .erase) (.erase (Loc.num p c))) ∧
    (∀ p c, item = .supersede p c → starts (.supersede p c) (.mark (Loc.num p c) (markBit .supersede))) ∧
    (∀ e p c, item = .finishRetire e p c →
      starts (.retire none ⟨e, p, c, s.isBad p⟩ (.classify ⟨0, ⟨0, 0, 0⟩, true⟩))
        (.read (Loc.num p (otherCell c)) 0 (some e))) ∧
    ∀ p, item = .markBad p →
      ((s.markField (Loc.num p .a)).has .bad = false → starts (.markBad p .a) (.mark (Loc.num p .a) (markBit .bad))) ∧
      ((s.markField (Loc.num p .a)).has .bad = true → (s.markField (Loc.num p .b)).has .bad = false →
        starts (.markBad p .b) (.mark (Loc.num p .b) (markBit .bad))) ∧
      ((s.markField (Loc.num p .a)).has .bad = true → (s.markField (Loc.num p .b)).has .bad = true →
        exec .recoveryStart s = .next { s with recovery := rest }) := by
  refine ⟨?_, ?_, ?_, ?_⟩
  · rintro p c rfl
    exact recoveryStart_grants h hr rfl
  · rintro p c rfl
    exact recoveryStart_grants h hr rfl
  · rintro e p c rfl
    exact recoveryStart_grants h hr rfl
  · rintro p rfl
    have hstart : s.startItem (.markBad p) = s.markBadFrom p [.a, .b] := rfl
    refine ⟨fun ha => recoveryStart_grants h hr ?_, fun ha hb => recoveryStart_grants h hr ?_,
      fun ha hb => recoveryStart_markedBad h hr ?_⟩
    · rw [hstart, markBadFrom_cons, if_neg (Bool.eq_false_iff.1 ha)]
    · rw [hstart, markBadFrom_cons, if_pos ha, markBadFrom_cons, if_neg (Bool.eq_false_iff.1 hb)]
    · rw [hstart, markBadFrom_cons, if_pos ha, markBadFrom_cons, if_pos hb]
      rfl

/-- The ends of the mark programs of SUPERSEDE and MARK_BAD items, whether the mark took or not (R164). -/
theorem recoveryMark_ends {s : State} {item : RecoveryItem} {rest : List RecoveryItem} {loc : Loc} {m : BitVec 12}
    (us : List Upset) (hs : s.engineAlone (.mark loc m)) (hr : s.recovery = item :: rest) :
    let after := s.markEnded loc m us
    let completes := exec (.markProgramEnd us) s = .next { after.engineDone with recovery := rest }
    (∀ p c, s.work = .supersede p c → completes) ∧
    ∀ p, (s.work = .markBad p .a →
        ((after.markField (Loc.num p .b)).has .bad = false →
          exec (.markProgramEnd us) s = .next (after.atStep (.markBad p .b) (.mark (Loc.num p .b) (markBit .bad)))) ∧
        ((after.markField (Loc.num p .b)).has .bad = true → completes)) ∧
      (s.work = .markBad p .b → completes) := by
  intro after completes
  have ha : ArrayOnly s after := arrayOnly_markEnded s loc m us
  refine ⟨fun p c hw => exec_itemDone hs ha hr (exec_supersedeMarked us hs hw), fun p => ⟨fun hw => ?_, fun hw =>
    exec_itemDone hs ha hr (exec_markBadMarked us hs hw)⟩⟩
  have hx : exec (.markProgramEnd us) s = .next (after.release.markBadFrom p [.b]).stepBoundary :=
    exec_markBadMarked us hs hw
  have hcell : after.release.markField (Loc.num p .b) = after.markField (Loc.num p .b) := rfl
  rw [markBadFrom_cons, hcell] at hx
  refine ⟨fun hb => goesTo_of hs (markEnded_arb s loc m us) ?_, fun hb => exec_itemDone hs ha hr ?_⟩
  · rw [hx, if_neg (Bool.eq_false_iff.1 hb)]
  · rw [hx, if_pos hb]
    rfl

/-- The entries after an array step are those before it. -/
theorem release_entry_of_arrayOnly {s after : State} (h : ArrayOnly s after) (i : Nat) :
    after.release.entry i = s.entry i := by
  obtain ⟨g, m, f, rfl⟩ := h
  rfl

/-- An array step changes no current cell. -/
theorem release_isCurrentCell_iff {s after : State} (h : ArrayOnly s after) (p : Nat) (c : CellName) :
    after.release.isCurrentCell (Loc.num p c) = true ↔
      ∃ i, i < 512 ∧ ∃ l n, s.entry i = ⟨.live l, some p, n⟩ ∧ l.cell = c := by
  simp only [isCurrentCell_iff, release_entry_of_arrayOnly h]

/-- Settles O47: the starts of the items, the ends of their marks, and the erase of debris with what follows when it
failed. -/
theorem recoveryItemStarts : Obligations.RecoveryItemStarts := by
  refine ⟨fun s item rest h hr => recoveryItem_starts h hr, fun s item rest loc m us hs hr => recoveryMark_ends us hs hr, ?_⟩
  intro s p c rest us hr loc other current
  refine ⟨fun hs hw => ?_, fun hs hw => ?_, fun hs hw => ?_⟩
  · intro after
    have ha : ArrayOnly s after := arrayOnly_eraseEnded s loc us
    have hcurrent := release_isCurrentCell_iff ha p (otherCell c)
    refine ⟨fun htook => exec_itemDone hs ha hr ?_, fun hfailed => ⟨_, debrisErase_fails us hs hw hfailed, ?_⟩⟩
    · rw [exec_debrisErased us hs hw, (eraseTook_iff _ _).2 htook]
      rfl
    · obtain ⟨howner, hothers⟩ := debrisPairFails_entry after.release p c
      simp only [release_entry_of_arrayOnly ha] at howner hothers
      refine ⟨fun q => ?_, fun q => ?_, fun q => ?_, ?_, rfl, rfl,
        fun i n hc => howner i n (fun h => hc (hcurrent.1 h)), fun i h => hothers i (h.imp_left hcurrent.2)⟩
      all_goals
        obtain ⟨es, ht⟩ := debrisPairFails_touches after.release p c
        obtain ⟨g, m, f, h⟩ := ha
        rw [ht, h]
      · simp [State.isBad, mem_insertNum, or_comm]
      · simp
      · cases q <;> rfl
      · rfl
  · intro after
    have ha : ArrayOnly s after := arrayOnly_markEnded s loc (markBit .bad) us
    have hcurrent := release_isCurrentCell_iff ha p (otherCell c)
    have hx := exec_debrisMarked us hs hw
    refine ⟨fun hc => exec_itemDone hs ha hr ?_, fun hc => goesTo_of hs (markEnded_arb s loc _ us) ?_⟩
    · rw [hx, State.debrisMarked, if_pos (hcurrent.2 hc)]
    · rw [hx, State.debrisMarked, if_neg fun h => hc (hcurrent.1 h)]
  · exact exec_itemDone hs (arrayOnly_markEnded s other _ us) hr (exec_debrisMarked us hs hw)

end Sys2Proof.Machine
end

section
/-! What the scan leaves alone (9.2, 9.3): the phase, the queue, the engine's work, the buffers, and of each port all but
the flag SETUP_DAMAGED. -/

namespace Sys2Proof.Machine

/-- The reads of the scan are reported to the capture record alone (R114 to R116). -/
theorem report_scan (s : State) (o : Outcome) (l : Loc) (g : Nat) (e : Option Nat) :
    s.report ⟨o, l, g, e, .scan⟩ = { s with capture := s.capture.take ⟨o, l, g, e, .scan⟩ } := by
  simp [State.report, State.reportEntry, State.reportEvent]

/-- One read of the scan, with no bit changing of itself: its report enters the capture record and the scan goes on. -/
theorem scanRead_nil (s : State) {l : Loc} {g : Nat} {e : Option Nat} (h : s.scan.target = some (l, g, e)) :
    s.scanRead [] =
      { s with capture := s.capture.take ⟨(s.readGranule l g).1, l, g, e, .scan⟩ }.scanAdvance (s.readGranule l g) := by
  simp only [State.scanRead, h, upsets_nil, report_scan]

/-! ### Claims and placements touch the directory and the pairs -/

/-- What the resolution of the pairs and of the entries can touch. -/
abbrev ResolvesOnly (s t : State) : Prop :=
  ∃ es pool bad items sc, t = { s with entries := es, pool := pool, bad := bad, recovery := items, scan := sc }

theorem resolvesOnly_takeClaim (s : State) (c : Claim) (p : Nat) : ResolvesOnly s (s.takeClaim c p) := by
  simp only [State.takeClaim, State.meetClaim]
  repeat' split
  all_goals exact ⟨_, _, _, _, _, rfl⟩

theorem resolvesOnly_takeResolved (s : State) (p : Nat) (r : Resolved) : ResolvesOnly s (s.takeResolved p r) := by
  have hbad : ResolvesOnly s (if r.bad then (s.addBad p).leavePool p else s) := by
    split <;> exact ⟨_, _, _, _, _, rfl⟩
  obtain ⟨es, pool, bad, items, sc, h⟩ := hbad
  simp only [State.takeResolved, h]
  split
  · next c _ =>
    obtain ⟨es', pool', bad', items', sc', h'⟩ := resolvesOnly_takeClaim
      { s with entries := es, pool := pool, bad := bad, recovery := items ++ r.items, scan := sc } c p
    exact ⟨es', pool', bad', items', sc', h'⟩
  · exact ⟨_, _, _, _, _, rfl⟩

theorem resolvesOnly_foundCell (s : State) (p : Nat) (c : CellName) (f : CellFound) :
    ResolvesOnly s (s.foundCell p c f) := by
  cases c with
  | a => exact ⟨_, _, _, _, _, rfl⟩
  | b =>
    simp only [State.foundCell, State.foundSecond]
    split
    · exact ⟨_, _, _, _, _, rfl⟩
    · next a _ =>
      obtain ⟨es, pool, bad, items, sc, h⟩ := resolvesOnly_takeResolved s p (resolvePair p a f)
      exact ⟨es, pool, bad, items, _, by rw [h]⟩

theorem resolvesOnly_enterReady (s : State) :
    ∃ es pool items, s.enterReady = { s with entries := es, pool := pool, recovery := items, phase := .ready } := by
  obtain ⟨es, items, h⟩ := dropClaims_touches (droppedClaims [] s.entries) s
  simp only [State.enterReady, State.placePairs, dropDoubles_eq, h]
  obtain ⟨es', h'⟩ := withoutHome_touches
    (({ s with entries := es, recovery := items } : State).claimedPairs ++ s.bad)
    (({ s with entries := es, recovery := items } : State).claimedPairs ++ s.bad)
    { s with entries := es, recovery := items, pool := ({ s with entries := es, recovery := items } : State).scannedPool }
  rw [h']
  exact ⟨_, _, _, rfl⟩

/-! ### What stays through the reads -/

/-- What the scan's reads leave: all but flag 5, SETUP_DAMAGED, of the event flags. -/
structure ScanFrame (s t : State) : Prop where
  phase : t.phase = s.phase
  queue : t.queue = s.queue
  work : t.work = s.work
  buffers : t.buffers = s.buffers
  flags : ∀ p n, n ≠ 5 → (t.port p).flags.getLsbD n = (s.port p).flags.getLsbD n

theorem ScanFrame.refl (s : State) : ScanFrame s s := ⟨rfl, rfl, rfl, rfl, fun _ _ _ => rfl⟩

theorem ScanFrame.trans {s t u : State} (h : ScanFrame s t) (h' : ScanFrame t u) : ScanFrame s u :=
  ⟨h'.phase.trans h.phase, h'.queue.trans h.queue, h'.work.trans h.work, h'.buffers.trans h.buffers,
    fun p n hn => (h'.flags p n hn).trans (h.flags p n hn)⟩

theorem scanFrame_of_resolvesOnly {s t : State} (h : ResolvesOnly s t) : ScanFrame s t := by
  obtain ⟨es, pool, bad, items, sc, rfl⟩ := h
  exact ⟨rfl, rfl, rfl, rfl, fun p _ _ => by cases p <;> rfl⟩

/-- SETUP_DAMAGED is flag 5. -/
theorem getLsbD_setupDamaged (f : Byte) (n : Nat) (hn : n ≠ 5) :
    (f ||| Event.setupDamaged.bit).getLsbD n = f.getLsbD n := by
  have hbit : Event.setupDamaged.bit = BitVec.twoPow 8 5 := rfl
  simp [hbit, BitVec.getLsbD_or, Ne.symm hn]

/-- The resolution of the setup pair fills the store, and sets SETUP_DAMAGED when it must. -/
theorem scanFrame_resolveSetup (s : State) : ScanFrame s s.resolveSetup := by
  unfold State.resolveSetup
  dsimp only
  split
  · refine ⟨rfl, rfl, rfl, rfl, fun p n hn => ?_⟩
    cases p <;> exact getLsbD_setupDamaged _ n hn
  · exact ⟨rfl, rfl, rfl, rfl, fun p _ _ => by cases p <;> rfl⟩

theorem scanFrame_foundSetup (s : State) (c : CellName) (f : SetupFound) :
    ScanFrame s ((s.setSetupFound c f).nextSetup c) := by
  have hset : ScanFrame s (s.setSetupFound c f) := ⟨rfl, rfl, rfl, rfl, fun p _ _ => by cases p <;> rfl⟩
  cases c with
  | a => exact ⟨rfl, rfl, rfl, rfl, fun p _ _ => by cases p <;> rfl⟩
  | b => exact hset.trans (scanFrame_resolveSetup _)

theorem scanFrame_scanAdvance (s : State) (r : Outcome × Data) : ScanFrame s (s.scanAdvance r) := by
  simp only [State.scanAdvance, State.scanSetupCell, State.scanSetupContents, State.scanCell]
  split
  · split
    · exact scanFrame_of_resolvesOnly ⟨_, _, _, _, _, rfl⟩
    · split
      · exact scanFrame_of_resolvesOnly ⟨_, _, _, _, _, rfl⟩
      · exact scanFrame_foundSetup _ _ _
  · next c _ =>
    split
    · exact scanFrame_foundSetup _ _ _
    · cases c with
      | a => exact scanFrame_of_resolvesOnly ⟨_, _, _, _, _, rfl⟩
      | b => exact scanFrame_resolveSetup s
  · split
    · exact scanFrame_of_resolvesOnly ⟨_, _, _, _, _, rfl⟩
    · exact scanFrame_of_resolvesOnly (resolvesOnly_foundCell s _ _ _)
  · exact ScanFrame.refl s

theorem scanFrame_scanRead (s : State) : ScanFrame s (s.scanRead []) := by
  cases h : s.scan.target with
  | none =>
    have hstay : s.scanRead [] = s := by simp only [State.scanRead, h]
    rw [hstay]
    exact ScanFrame.refl s
  | some x =>
    obtain ⟨l, g, e⟩ := x
    rw [scanRead_nil s h]
    refine ScanFrame.trans ?_ (scanFrame_scanAdvance _ _)
    exact ⟨rfl, rfl, rfl, rfl, fun p _ _ => by cases p <;> rfl⟩

theorem scanFrame_scanRest (n : Nat) (s : State) : ScanFrame s (State.scanRest n s) := by
  induction n generalizing s with
  | zero => exact ScanFrame.refl s
  | succ n ih =>
    unfold State.scanRest
    split
    · exact ScanFrame.refl s
    · exact (scanFrame_scanRead s).trans (ih _)

/-- When all pairs are read nothing is left to read. -/
theorem scanRest_done (n : Nat) (s : State) (h : s.scan.pos = .done) : State.scanRest n s = s := by
  cases n <;> simp [State.scanRest, h]

end Sys2Proof.Machine
end

section
/-! The end of the scan (R160, R161): the entries whose key a lower index holds, the places of the unclaimed pairs, and
the recovery list as the part enters READY. -/

namespace Sys2Proof.Machine

/-! ### The pairs are placed (R161) -/

/-- In canonical form an entry is what is listed of it. -/
theorem entry_of_mem_entries {s : State} (h : entriesWf s.entries = true) {i : Nat} {e : Entry}
    (hm : (i, e) ∈ s.entries) : s.entry i = e :=
  ((sparse_mem homeEntry s.entries h i e).1 hm).2

/-- The pairs claimed are those of the entries that are not FREE. -/
theorem mem_claimedPairs (s : State) (h : entriesWf s.entries = true) (p : Nat) :
    p ∈ s.claimedPairs ↔ ∃ j, (s.entry j).body ≠ .free ∧ (s.entry j).pair = some p := by
  simp only [State.claimedPairs, List.mem_filterMap, List.mem_filter, Prod.exists]
  constructor
  · rintro ⟨j, e, ⟨hmem, hfree⟩, hp⟩
    obtain rfl := entry_of_mem_entries h hmem
    exact ⟨j, by simpa [Entry.isFree] using hfree, hp⟩
  · rintro ⟨j, hfree, hp⟩
    have hhome : s.entry j ≠ homeEntry j := fun heq => hfree (by rw [heq]; rfl)
    exact ⟨j, s.entry j, ⟨(sparse_mem homeEntry s.entries h j _).2 ⟨hhome, rfl⟩, by simpa [Entry.isFree] using hfree⟩, hp⟩

/-- The pairs placed in the spare pool. -/
theorem mem_scannedPool (s : State) (p : Nat) : p ∈ s.scannedPool ↔
    p < 544 ∧ s.isBad p = false ∧ p ∉ s.claimedPairs ∧ (p < 512 → (s.entry p).body ≠ .free) := by
  simp [State.scannedPool, pairNumbers, State.homeFree, Entry.isFree, and_assoc, Decidable.imp_iff_not_or]

theorem placePairs_pool (s : State) : s.placePairs.pool = s.scannedPool := by
  unfold State.placePairs
  obtain ⟨es, h⟩ := withoutHome_touches (s.claimedPairs ++ s.bad) (s.claimedPairs ++ s.bad)
    { s with pool := s.scannedPool }
  dsimp only
  rw [h]

/-- The entries after the placement. -/
theorem placePairs_entry_eq (s : State) (k : Nat) :
    s.placePairs.entry k =
      if k ∈ s.claimedPairs ++ s.bad ∧ k < 512 ∧ (s.entry k).isFree = true ∧ k ∈ s.claimedPairs ++ s.bad then
        { s.entry k with pair := none }
      else s.entry k :=
  withoutHome_entry _ _ { s with pool := s.scannedPool } k

/-- A FREE entry whose home pair is claimed or BAD loses it. -/
theorem placePairs_entry_taken (s : State) {k : Nat} (hk : k < 512) (hf : (s.entry k).body = .free)
    (ht : k ∈ s.claimedPairs ∨ s.isBad k = true) : s.placePairs.entry k = { s.entry k with pair := none } := by
  have hmem : k ∈ s.claimedPairs ++ s.bad := by simpa [State.isBad] using ht
  rw [placePairs_entry_eq, if_pos ⟨hmem, hk, by simp [Entry.isFree, hf], hmem⟩]

/-- Every other entry stays. -/
theorem placePairs_entry_other (s : State) {k : Nat}
    (h : (s.entry k).body ≠ .free ∨ k ∉ s.claimedPairs ∧ s.isBad k = false) : s.placePairs.entry k = s.entry k := by
  rw [placePairs_entry_eq, if_neg]
  rintro ⟨hmem, -, hfree, -⟩
  rcases h with h | h
  · exact h (by simpa [Entry.isFree] using hfree)
  · simp_all [State.isBad]

/-! ### Of the LIVE entries with one key the lowest stays (R160) -/

/-- The entry is LIVE with a key that a lower LIVE entry has. -/
def State.doubled (s : State) (i : Nat) : Prop :=
  ∃ l j l', (s.entry i).body = .live l ∧ j < i ∧ (s.entry j).body = .live l' ∧ l'.key = l.key

/-- In canonical form the LIVE entries are listed. -/
theorem mem_entries_of_live {s : State} (h : entriesWf s.entries = true) {i : Nat} {l : Live}
    (hl : (s.entry i).body = .live l) : (i, s.entry i) ∈ s.entries := by
  refine (sparse_mem homeEntry s.entries h i _).2 ⟨fun heq => ?_, rfl⟩
  rw [heq] at hl
  cases hl

/-- The claims dropped are those of the doubled entries. -/
theorem mem_droppedClaims_iff {s : State} (h : entriesWf s.entries = true) (i : Nat) (e : Entry) :
    (i, e) ∈ droppedClaims [] s.entries ↔ s.entry i = e ∧ s.doubled i := by
  rw [mem_droppedClaims _ _ (sparse_rising homeEntry s.entries h)]
  constructor
  · rintro ⟨hm, l, hl, hseen | ⟨j, e', l', hm', hj, hl', hkey⟩⟩
    · cases hseen
    · obtain rfl := entry_of_mem_entries h hm
      obtain rfl := entry_of_mem_entries h hm'
      exact ⟨rfl, l, j, l', hl, hj, hl', hkey⟩
  · rintro ⟨rfl, l, j, l', hl, hj, hl', hkey⟩
    exact ⟨mem_entries_of_live h hl, l, hl, Or.inr ⟨j, s.entry j, l', mem_entries_of_live h hl', hj, hl', hkey⟩⟩

/-- A doubled entry is FREE on its home pair afterwards. -/
theorem dropDoubles_entry_doubled {s : State} (h : entriesWf s.entries = true) {k : Nat} (hd : s.doubled k) :
    (s.dropDoubles [] s.entries).entry k = homeEntry k := by
  rw [dropDoubles_eq, dropClaims_entry, if_pos ⟨(k, s.entry k), (mem_droppedClaims_iff h k _).2 ⟨rfl, hd⟩, rfl⟩]

/-- Every other entry stays. -/
theorem dropDoubles_entry_other {s : State} (h : entriesWf s.entries = true) {k : Nat} (hd : ¬s.doubled k) :
    (s.dropDoubles [] s.entries).entry k = s.entry k := by
  rw [dropDoubles_eq, dropClaims_entry, if_neg]
  rintro ⟨⟨i, e⟩, hm, rfl⟩
  obtain ⟨-, hdbl⟩ := (mem_droppedClaims_iff h i e).1 hm
  exact hd hdbl

theorem dropDoubles_wf {s : State} (h : entriesWf s.entries = true) :
    entriesWf (s.dropDoubles [] s.entries).entries = true := by
  rw [dropDoubles_eq]
  exact dropClaims_wf _ _ h

theorem dropDoubles_touches (s : State) :
    ∃ es items, s.dropDoubles [] s.entries = { s with entries := es, recovery := items } := by
  rw [dropDoubles_eq]
  exact dropClaims_touches _ _

/-- The entries that are FREE afterwards. -/
theorem dropDoubles_free_iff {s : State} (h : entriesWf s.entries = true) (k : Nat) :
    ((s.dropDoubles [] s.entries).entry k).body = .free ↔ (s.entry k).body = .free ∨ s.doubled k := by
  by_cases hd : s.doubled k
  · rw [dropDoubles_entry_doubled h hd]
    exact ⟨fun _ => Or.inr hd, fun _ => rfl⟩
  · rw [dropDoubles_entry_other h hd, or_iff_left hd]

/-- An entry that is FREE afterwards is on its home pair, when the FREE ones were. -/
theorem dropDoubles_entry_freed {s : State} (h : entriesWf s.entries = true)
    (hhome : ∀ i, (s.entry i).body = .free → s.entry i = ⟨.free, some i, 0⟩) {k : Nat}
    (hf : (s.entry k).body = .free ∨ s.doubled k) : (s.dropDoubles [] s.entries).entry k = ⟨.free, some k, 0⟩ := by
  by_cases hd : s.doubled k
  · exact dropDoubles_entry_doubled h hd
  · rw [dropDoubles_entry_other h hd]
    exact hhome k (hf.resolve_right hd)

/-- The pairs that stay claimed are those of the entries that keep their claim. -/
theorem mem_claimedPairs_dropDoubles {s : State} (h : entriesWf s.entries = true) (p : Nat) :
    p ∈ (s.dropDoubles [] s.entries).claimedPairs ↔
      ∃ j, (s.entry j).body ≠ .free ∧ ¬s.doubled j ∧ (s.entry j).pair = some p := by
  rw [mem_claimedPairs _ (dropDoubles_wf h)]
  refine exists_congr fun j => ?_
  rw [Ne, dropDoubles_free_iff h, not_or, and_assoc]
  refine and_congr_right fun _ => and_congr_right fun hd => ?_
  rw [dropDoubles_entry_other h hd]

theorem mem_debrisItem (p : Nat) (c : CellName) (cls : Classification) (x : RecoveryItem) :
    x ∈ debrisItem p c cls ↔ cls ≠ .erased ∧ x = .eraseDebris p c := by
  unfold debrisItem
  split
  · next h => exact ⟨fun hx => absurd hx List.not_mem_nil, fun hx => absurd h hx.1⟩
  · next h => exact List.mem_singleton.trans ⟨fun hx => ⟨h, hx⟩, And.right⟩

/-- ERASE_DEBRIS stands for each cell of the pair that was found not ERASED. -/
theorem mem_debrisItems (p : Nat) (found : List (Nat × Classification × Classification)) (x : RecoveryItem) :
    x ∈ debrisItems p found ↔ ∃ a b, found.find? (fun f => f.1 == p) = some (p, a, b) ∧
      (a ≠ .erased ∧ x = .eraseDebris p .a ∨ b ≠ .erased ∧ x = .eraseDebris p .b) := by
  unfold debrisItems
  cases hfind : found.find? (fun f => f.1 == p) with
  | none => exact ⟨fun hx => absurd hx List.not_mem_nil, fun ⟨_, _, h, _⟩ => nomatch h⟩
  | some f =>
    obtain ⟨q, a, b⟩ := f
    have hq : (q == p) = true := List.find?_some (p := fun f : Nat × Classification × Classification => f.1 == p) hfind
    obtain rfl : q = p := eq_of_beq hq
    dsimp only
    rw [List.mem_append, mem_debrisItem, mem_debrisItem]
    refine ⟨fun hx => ⟨a, b, rfl, hx⟩, ?_⟩
    rintro ⟨a', b', h, hx⟩
    cases h
    exact hx

/-- The items that take the place of those of a dropped claim's pair (R160). -/
theorem mem_droppedItems (s : State) (p : Nat) (x : RecoveryItem) : x ∈ droppedItems s p ↔
    s.isBad p = true ∧ x = .markBad p ∨
      s.isBad p = false ∧ ∃ a b, s.scan.found.find? (fun f => f.1 == p) = some (p, a, b) ∧
        (a ≠ .erased ∧ x = .eraseDebris p .a ∨ b ≠ .erased ∧ x = .eraseDebris p .b) := by
  unfold droppedItems
  split
  · next hb =>
    rw [List.mem_singleton]
    exact ⟨fun hx => Or.inl ⟨hb, hx⟩, fun h => h.elim And.right fun hn => absurd hb (Bool.eq_false_iff.1 hn.1)⟩
  · next hb =>
    rw [mem_debrisItems]
    exact ⟨fun hx => Or.inr ⟨Bool.eq_false_iff.2 hb, hx⟩, fun h => h.elim (fun hn => absurd hn.1 hb) And.right⟩

/-- What is in the recovery list after the doubled claims were dropped. -/
theorem mem_dropDoubles_recovery {s : State} (h : entriesWf s.entries = true) (x : RecoveryItem) :
    x ∈ (s.dropDoubles [] s.entries).recovery ↔
      x ∈ s.recovery ∧ (∀ i, s.doubled i → (s.entry i).pair ≠ some x.pair) ∨
        ∃ i p, s.doubled i ∧ (s.entry i).pair = some p ∧ x ∈ droppedItems s p := by
  rw [dropDoubles_eq, dropClaims_recovery]
  simp only [Prod.forall, Prod.exists, mem_droppedClaims_iff h]
  refine or_congr (and_congr_right fun _ => ⟨fun hd i hi => hd i _ ⟨rfl, hi⟩, ?_⟩) ⟨?_, ?_⟩
  · rintro hd i e ⟨rfl, hi⟩
    exact hd i hi
  · rintro ⟨i, e, ⟨rfl, hi⟩, p, hp, hx⟩
    exact ⟨i, p, hi, hp, hx⟩
  · rintro ⟨i, p, hi, hp, hx⟩
    exact ⟨i, _, ⟨rfl, hi⟩, p, hp, hx⟩

/-! ### The part enters READY -/

/-- What the entry to READY leaves: the directory, the spare pool and the recovery list are as the placement left them. -/
theorem enterReady_eq (s : State) : s.enterReady = { (s.dropDoubles [] s.entries).placePairs with phase := .ready } := rfl

theorem enterReady_pool (s : State) : s.enterReady.pool = (s.dropDoubles [] s.entries).scannedPool :=
  placePairs_pool _

theorem enterReady_entry (s : State) (k : Nat) :
    s.enterReady.entry k = (s.dropDoubles [] s.entries).placePairs.entry k := rfl

theorem enterReady_recovery (s : State) : s.enterReady.recovery = (s.dropDoubles [] s.entries).recovery := by
  rw [enterReady_eq, State.placePairs]
  obtain ⟨es, h⟩ := withoutHome_touches ((s.dropDoubles [] s.entries).claimedPairs ++ (s.dropDoubles [] s.entries).bad)
    ((s.dropDoubles [] s.entries).claimedPairs ++ (s.dropDoubles [] s.entries).bad)
    { s.dropDoubles [] s.entries with pool := (s.dropDoubles [] s.entries).scannedPool }
  rw [h]

theorem dropDoubles_isBad (s : State) (p : Nat) : (s.dropDoubles [] s.entries).isBad p = s.isBad p := by
  obtain ⟨es, items, h⟩ := dropDoubles_touches s
  rw [h]
  rfl

/-- SCAN_END in STARTING. -/
theorem exec_scanEnd {s : State} (h : s.phase = .starting) :
    exec .scanEnd s = .next (State.scanRest scanReads s).enterReady :=
  congrArg Host.Outcome.next (if_pos h)

/-- The entry to READY leaves what the reads of the scan left alone, and no BAD pair is spare. -/
theorem enterReady_frame {s u : State} (hf : ScanFrame s u) :
    let t := u.enterReady
    t.phase = .ready ∧
      (∀ p, (t.port p).flags.getLsbD 4 = (s.port p).flags.getLsbD 4 ∧
        (t.port p).flags.getLsbD 2 = (s.port p).flags.getLsbD 2) ∧
      (∀ q, q ∈ t.pool → q < 544 ∧ t.isBad q = false) ∧ t.queue = s.queue ∧ t.work = s.work ∧ t.buffers = s.buffers := by
  intro t
  have hpool : ∀ q, q ∈ t.pool → q < 544 ∧ u.isBad q = false := by
    intro q hq
    rw [enterReady_pool, mem_scannedPool, dropDoubles_isBad] at hq
    exact ⟨hq.1, hq.2.1⟩
  obtain ⟨es, pool, items, ht⟩ : ∃ es pool items, t = _ := resolvesOnly_enterReady u
  clear_value t
  subst ht
  refine ⟨rfl, fun p => ?_, hpool, hf.queue, hf.work, hf.buffers⟩
  have h4 := hf.flags p 4 (by decide)
  have h2 := hf.flags p 2 (by decide)
  cases p <;> exact ⟨h4, h2⟩

/-- In STARTING the end of the scan leads to READY, with the array and what the scan does not touch as they were. -/
theorem scanEnd_enters {s : State} (h : s.phase = .starting) :
    ∃ t, exec .scanEnd s = .next t ∧ t.phase = .ready ∧ t.granules = s.granules ∧ t.marks = s.marks ∧
      (∀ p, (t.port p).flags.getLsbD 4 = (s.port p).flags.getLsbD 4 ∧
        (t.port p).flags.getLsbD 2 = (s.port p).flags.getLsbD 2) ∧
      (∀ q, q ∈ t.pool → q < 544 ∧ t.isBad q = false) ∧ t.queue = s.queue ∧ t.work = s.work ∧ t.buffers = s.buffers := by
  obtain ⟨hg, hm, -⟩ := same_scanRest scanReads s
  obtain ⟨hg', hm', -⟩ := same_enterReady (State.scanRest scanReads s)
  obtain ⟨hphase, hrest⟩ := enterReady_frame (scanFrame_scanRest scanReads s)
  exact ⟨_, exec_scanEnd h, hphase, hg'.trans hg, hm'.trans hm, hrest⟩

/-- The entries after the end of a scan of which all pairs are read (R160, R161). -/
theorem enterReady_entries {s : State} (hwf : entriesWf s.entries = true)
    (hhome : ∀ i, (s.entry i).body = .free → s.entry i = ⟨.free, some i, 0⟩) (i : Nat) :
    let claimed := ∃ j, (s.entry j).body ≠ .free ∧ ¬s.doubled j ∧ (s.entry j).pair = some i
    let freed := (s.entry i).body = .free ∨ s.doubled i
    (¬freed → s.enterReady.entry i = s.entry i) ∧
    (i < 512 → freed → s.isBad i = true ∨ claimed → s.enterReady.entry i = ⟨.free, none, 0⟩) ∧
    (i < 512 → freed → s.isBad i = false → ¬claimed → s.enterReady.entry i = ⟨.free, some i, 0⟩) := by
  intro claimed freed
  have hclaimed : i ∈ (s.dropDoubles [] s.entries).claimedPairs ↔ claimed := mem_claimedPairs_dropDoubles hwf i
  have hfree : ((s.dropDoubles [] s.entries).entry i).body = .free ↔ freed := dropDoubles_free_iff hwf i
  have hbad := dropDoubles_isBad s i
  rw [enterReady_entry]
  refine ⟨fun hf => ?_, fun hi hf hb => ?_, fun _ hf hb hc => ?_⟩
  · rw [placePairs_entry_other _ (Or.inl fun h => hf (hfree.1 h)), dropDoubles_entry_other hwf fun hd => hf (Or.inr hd)]
  · rw [placePairs_entry_taken _ hi (hfree.2 hf) (by rw [hclaimed, hbad]; exact hb.symm),
      dropDoubles_entry_freed hwf hhome hf]
  · rw [placePairs_entry_other _ (Or.inr ⟨fun h => hc (hclaimed.1 h), hbad.trans hb⟩),
      dropDoubles_entry_freed hwf hhome hf]

/-- Settles O42: what the scan's reads leave, and where the entry to READY puts the claims and the pairs. -/
theorem scanEndEntersReady : Obligations.ScanEndEntersReady := by
  refine ⟨fun s h => scanEnd_enters h, ?_⟩
  intro s h hpos hwf hhome doubled claims freed
  have hx : exec .scanEnd s = .next s.enterReady := by rw [exec_scanEnd h, scanRest_done _ s hpos]
  have hentries := enterReady_entries hwf hhome
  obtain ⟨es, pool, items, ht⟩ := resolvesOnly_enterReady s
  refine ⟨s.enterReady, hx, by rw [ht], by rw [ht], by rw [ht], fun p => by rw [ht]; cases p <;> rfl, fun i => ?_,
    fun i => ?_, fun i hi hf hb hc => ?_, fun p => ?_, ?_, fun item => ?_⟩
  · obtain ⟨hkept, -, -⟩ := hentries i
    exact hkept
  · obtain ⟨-, hlost, -⟩ := hentries i
    exact hlost
  · obtain ⟨-, -, hhomed⟩ := hentries i
    exact hhomed hi hf hb fun ⟨j, hj⟩ => hc j hj
  · rw [enterReady_pool, mem_scannedPool, dropDoubles_isBad, mem_claimedPairs_dropDoubles hwf, Ne,
      dropDoubles_free_iff hwf, not_exists]
    rfl
  · rw [enterReady_pool]
    exact List.Pairwise.filter _ List.pairwise_lt_range'
  · rw [enterReady_recovery, mem_dropDoubles_recovery hwf]
    simp only [mem_droppedItems]
    rfl

end Sys2Proof.Machine
end

section
/-! The reads of the scan (9.3): the classification of the cells of a pair, its resolution by Table 9-2 and R158, and the
claim it takes by R159. -/

namespace Sys2Proof.Machine

/-! ### One read -/

/-- SCAN_GRANULE_READ_END in STARTING. -/
theorem exec_scanGranuleReadEnd {s : State} (us : List Upset) (h : s.phase = .starting) :
    exec (.scanGranuleReadEnd us) s = .next (s.scanRead us) :=
  congrArg Host.Outcome.next (if_pos h)

/-- The report of the scan's read of a cell of a numbered pair. -/
abbrev State.scanReport (s : State) (p : Nat) (c : CellName) : Report :=
  ⟨(s.readGranule (Loc.num p c) s.scan.now.granule).1, Loc.num p c, s.scan.now.granule,
    if p < 512 then some p else none, .scan⟩

/-- A read of a cell of a numbered pair: it is reported, and the classification goes on with it. -/
theorem scanRead_cell {s : State} {p : Nat} {c : CellName} (h : s.scan.pos = .cell p c) :
    s.scanRead [] =
      { s with capture := s.capture.take (s.scanReport p c) }.scanCell p c
        (s.readGranule (Loc.num p c) s.scan.now.granule) := by
  have htarget : s.scan.target = some (Loc.num p c, s.scan.now.granule, if p < 512 then some p else none) := by
    simp only [Scan.target, h]
  simp only [scanRead_nil s htarget, State.scanAdvance, h]

section

variable {s : State} {p : Nat} {c : CellName} {r : Outcome × Data}

theorem scanCell_more {now : Classifying}
    (h : s.scan.now.take (s.markField (Loc.num p c)) (headerOf r).isSome r = .more now) :
    s.scanCell p c r = { s with scan := { s.scan with now := now } } := by
  simp only [State.scanCell, h]

theorem scanCell_found {cls : Classification}
    (h : s.scan.now.take (s.markField (Loc.num p c)) (headerOf r).isSome r = .found cls) :
    s.scanCell p c r =
      s.foundCell p c ⟨cls, if s.scan.now.granule = 0 then headerOf r else none,
        (s.scan.now.marksNow (s.markField (Loc.num p c))).voted⟩ := by
  simp only [State.scanCell, h]

/-- A read that leaves the cell unclassified. -/
theorem scanRead_more (hpos : s.scan.pos = .cell p c) (hr : s.readGranule (Loc.num p c) s.scan.now.granule = r)
    {now : Classifying} (h : s.scan.now.take (s.markField (Loc.num p c)) (headerOf r).isSome r = .more now) :
    s.scanRead [] = { s with capture := s.capture.take (s.scanReport p c), scan := { s.scan with now := now } } := by
  rw [scanRead_cell hpos, hr]
  exact scanCell_more (s := { s with capture := s.capture.take (s.scanReport p c) }) h

/-- A read that classifies the cell. -/
theorem scanRead_found (hpos : s.scan.pos = .cell p c) (hr : s.readGranule (Loc.num p c) s.scan.now.granule = r)
    {cls : Classification}
    (h : s.scan.now.take (s.markField (Loc.num p c)) (headerOf r).isSome r = .found cls) :
    s.scanRead [] =
      ({ s with capture := s.capture.take (s.scanReport p c) } : State).foundCell p c
        ⟨cls, if s.scan.now.granule = 0 then headerOf r else none,
          (s.scan.now.marksNow (s.markField (Loc.num p c))).voted⟩ := by
  rw [scanRead_cell hpos, hr]
  exact scanCell_found (s := { s with capture := s.capture.take (s.scanReport p c) }) h

end

/-- The last data granule classifies the cell by the marks read with its header (R32). -/
theorem take_last (c : Classifying) (f : MarkField) (v : Bool) (r : Outcome × Data) (h : c.granule = 7) :
    c.take f v r = .found (classify c.marks false (c.erased && readsErased r)) := by
  rw [Classifying.take, if_neg (by omega), if_neg (by omega)]

/-! ### The header of cell A -/

/-- The header read of cell A (R156): an erased header leads to data granule 1, any other classifies the cell. -/
theorem scan_headerA {s : State} {pair : Nat} (h : s.phase = .starting) (hpos : s.scan.pos = .cell pair .a)
    (hg : s.scan.now.granule = 0) :
    let r := s.readGranule (Loc.num pair .a) 0
    let report : Report := ⟨r.1, Loc.num pair .a, 0, if pair < 512 then some pair else none, .scan⟩
    (readsErased r = true →
      exec (.scanGranuleReadEnd []) s =
        .next { s with scan := { s.scan with now := ⟨1, s.markField (Loc.num pair .a), true⟩ } }) ∧
    (readsErased r = false →
      ∃ f, f.cls = classify (s.markField (Loc.num pair .a)) (headerOf r).isSome false ∧ f.header = headerOf r ∧
        exec (.scanGranuleReadEnd []) s =
          .next { s with
            capture := s.capture.take report
            scan := { s.scan with pos := .cell pair .b, now := Classifying.start, first := some f } }) := by
  intro r report
  have hr : s.readGranule (Loc.num pair .a) s.scan.now.granule = r := by rw [hg]
  have hreport : s.scanReport pair .a = report := by rw [State.scanReport, hr, hg]
  rw [exec_scanGranuleReadEnd [] h]
  refine ⟨fun he => ?_, fun he => ?_⟩
  · have herased : r = erasedRead := (readsErased_iff _).1 he
    rw [scanRead_more hpos (hr.trans herased) (take_erasedHeader _ _ _ hg), hreport]
    simp only [report, herased]
    rfl
  · have hne : r ≠ erasedRead := fun heq => Bool.eq_false_iff.1 he ((readsErased_iff _).2 heq)
    rw [scanRead_found hpos hr (take_header _ _ _ _ hg hne), hreport]
    simp only [hg, if_true]
    exact ⟨_, rfl, rfl, rfl⟩

/-! ### What a pair is found to be -/

/-- What the read that classifies cell B finds. -/
def State.foundOfB (s : State) (pair : Nat) : CellFound :=
  let loc := Loc.num pair .b
  let r := s.readGranule loc s.scan.now.granule
  if s.scan.now.granule = 0 then
    ⟨classify (s.markField loc) (headerOf r).isSome false, headerOf r, (s.markField loc).voted⟩
  else ⟨classify s.scan.now.marks false (s.scan.now.erased && readsErased r), none, s.scan.now.marks.voted⟩

/-- What was found of each cell of a pair. -/
def foundOf (a b : CellFound) : CellName → CellFound
  | .a => a
  | .b => b

/-- The read that classifies cell B resolves the pair, and the scan goes on to the next (R156). -/
theorem scan_resolves {s : State} {pair : Nat} {a : CellFound} (h : s.phase = .starting)
    (hpos : s.scan.pos = .cell pair .b) (hfirst : s.scan.first = some a)
    (hr : s.scan.now.granule = 0 ∧ s.readGranule (Loc.num pair .b) s.scan.now.granule ≠ erasedRead ∨
      s.scan.now.granule = 7) :
    ∃ cap sc, sc.pos = nextPos pair ∧
      exec (.scanGranuleReadEnd []) s =
        .next { ({ s with capture := cap } : State).takeResolved pair (resolvePair pair a (s.foundOfB pair)) with
          scan := sc } := by
  have hfound : s.scanRead [] =
      ({ s with capture := s.capture.take (s.scanReport pair .b) } : State).foundCell pair .b (s.foundOfB pair) := by
    rcases hr with ⟨hg, hne⟩ | hg
    · rw [scanRead_found hpos rfl (take_header _ _ _ _ hg hne)]
      simp only [State.foundOfB, Classifying.marksNow, if_pos hg]
    · have hg0 : s.scan.now.granule ≠ 0 := by omega
      rw [scanRead_found hpos rfl (take_last _ _ _ _ hg)]
      simp only [State.foundOfB, Classifying.marksNow, if_neg hg0]
  rw [exec_scanGranuleReadEnd [] h, hfound]
  simp only [State.foundCell, State.foundSecond, hfirst]
  exact ⟨_, { Scan.remember _ pair a.cls (s.foundOfB pair).cls with
    pos := nextPos pair, now := Classifying.start, first := none }, rfl, rfl⟩

/-! ### The resolution takes effect (R159) -/

/-- The pair's place in the BAD set and its items, before its claim is taken. -/
def State.placed (s : State) (p : Nat) (r : Resolved) : State :=
  let s := if r.bad then (s.addBad p).leavePool p else s
  { s with recovery := s.recovery ++ r.items }

theorem takeResolved_none (s : State) (p : Nat) (items : List RecoveryItem) (bad : Bool) :
    s.takeResolved p ⟨none, items, bad⟩ = s.placed p ⟨none, items, bad⟩ := rfl

/-- A claim is taken once the pair is placed. -/
theorem takeResolved_some (s : State) (p : Nat) (c : Claim) (items : List RecoveryItem) (bad : Bool) :
    s.takeResolved p ⟨some c, items, bad⟩ = (s.placed p ⟨some c, items, bad⟩).takeClaim c p := rfl

theorem placed_entries (s : State) (p : Nat) (r : Resolved) : (s.placed p r).entries = s.entries := by
  simp only [State.placed]
  split <;> rfl

theorem placed_entry (s : State) (p : Nat) (r : Resolved) (i : Nat) : (s.placed p r).entry i = s.entry i :=
  entry_congr (placed_entries s p r) i

theorem placed_recovery (s : State) (p : Nat) (r : Resolved) : (s.placed p r).recovery = s.recovery ++ r.items := by
  simp only [State.placed]
  split <;> rfl

theorem placed_isBad (s : State) (p : Nat) (r : Resolved) (q : Nat) :
    (s.placed p r).isBad q = true ↔ s.isBad q = true ∨ r.bad = true ∧ q = p := by
  simp only [State.placed]
  split
  · next h => simp [h, State.isBad, State.leavePool, State.addBad, mem_insertNum, or_comm]
  · next h => simp [h, State.isBad]

/-- A pair that is not kept is in the BAD set. -/
theorem dropPair_isBad (s : State) (p : Nat) : (s.dropPair p).isBad p = true := by
  simp [State.dropPair, State.leavePool, State.addBad, State.isBad, mem_insertNum]

/-- A pair that is not kept has one MARK_BAD for its items. -/
theorem mem_dropPair_recovery (s : State) (p : Nat) (x : RecoveryItem) :
    x ∈ (s.dropPair p).recovery ↔ x = .markBad p ∨ x ∈ s.recovery ∧ x.pair ≠ p := by
  refine (mem_replaceItems p [.markBad p] s.recovery x).trans ?_
  rw [List.mem_singleton]

/-- A FREE entry takes the claim. -/
theorem takeClaim_free {s : State} {c : Claim} (p : Nat) (h : (s.entry c.entry).body = .free) :
    s.takeClaim c p = s.installClaim c p := by
  simp [State.takeClaim, Entry.isFree, h]

theorem isFree_of_gen {e : Entry} {g : Gen} (h : e.gen? = some g) : e.isFree = false := by
  unfold Entry.gen? at h
  unfold Entry.isFree
  split at h <;> simp_all

/-- Of two claims the later is kept: its pair is the entry's, and the other is dropped. -/
theorem takeClaim_later {s : State} {c : Claim} (p : Nat) {q : Nat} {g : Gen} (hp : (s.entry c.entry).pair = some q)
    (hg : (s.entry c.entry).gen? = some g) (hk : keepsSecond g c.gen = true) :
    s.takeClaim c p = (s.installClaim { c with body := keptBody c.body (fallsBack g c.gen) } p).dropPair q := by
  simp [State.takeClaim, isFree_of_gen hg, hp, State.meetClaim, hg, hk]

/-- Of two claims the earlier is kept: the entry stays on its pair, and the later pair is dropped. -/
theorem takeClaim_earlier {s : State} {c : Claim} (p : Nat) {q : Nat} {g : Gen} (hp : (s.entry c.entry).pair = some q)
    (hg : (s.entry c.entry).gen? = some g) (hk : keepsSecond g c.gen = false) :
    s.takeClaim c p = (s.setEntry c.entry
      { s.entry c.entry with body := keptBody (s.entry c.entry).body (fallsBack g c.gen) }).dropPair p := by
  simp [State.takeClaim, isFree_of_gen hg, hp, State.meetClaim, hg, hk]

/-- A claim touches no other entry. -/
theorem takeClaim_entry_other (s : State) (c : Claim) (p : Nat) {i : Nat} (h : i ≠ c.entry) :
    (s.takeClaim c p).entry i = s.entry i := by
  simp only [State.takeClaim, State.meetClaim]
  repeat' split
  all_goals exact entry_setEntry_other s c.entry i _ h

theorem resolvesOnly_port {s t : State} (h : ResolvesOnly s t) (p : Port) : t.port p = s.port p := by
  obtain ⟨es, pool, bad, items, sc, rfl⟩ := h
  cases p <;> rfl

/-- The generation of a claim does not rest on its damaged flag. -/
theorem gen?_keptBody (e : Entry) (d : Bool) : ({ e with body := keptBody e.body d } : Entry).gen? = e.gen? := by
  obtain ⟨b, p, n⟩ := e
  cases b <;> rfl

/-- The pair is resolved without a claim: its items are listed, and it joins the BAD set when `bad` says so. -/
def PairUnclaimed (s t : State) (pair : Nat) (items : List RecoveryItem) (bad : Bool) : Prop :=
  t.entries = s.entries ∧ t.recovery = s.recovery ++ items ∧
    (∀ q, t.isBad q = true ↔ s.isBad q = true ∨ bad = true ∧ q = pair) ∧ ∀ p, t.port p = s.port p

/-- The pair is resolved with a claim that makes its entry `body`, whose argument says that the fallback of R154 decided
against another claim: a FREE entry takes it, and of two claims R154 keeps one (R159). -/
def PairClaimed (s t : State) (pair : Nat) (h : Header) (body : Bool → EntryBody) (items : List RecoveryItem)
    (bad : Bool) : Prop :=
  (∀ i, i ≠ h.entry → t.entry i = s.entry i) ∧ (∀ p, t.port p = s.port p) ∧
  ((s.entry h.entry).body = .free → t.entry h.entry = ⟨body false, some pair, 0⟩ ∧
    t.recovery = s.recovery ++ items ∧
    (∀ q, t.isBad q = true ↔ s.isBad q = true ∨ bad = true ∧ q = pair)) ∧
  ∀ q g, (s.entry h.entry).pair = some q → (s.entry h.entry).gen? = some g →
    (keepsSecond g h.gen = true →
      t.entry h.entry = ⟨body (fallsBack g h.gen), some pair, 0⟩ ∧ t.isBad q = true ∧
      ∀ item, item ∈ t.recovery ↔ item = .markBad q ∨ item ∈ s.recovery ++ items ∧ item.pair ≠ q) ∧
    (keepsSecond g h.gen = false →
      (t.entry h.entry).pair = some q ∧ (t.entry h.entry).gen? = some g ∧ t.isBad pair = true ∧
      (∀ l, (s.entry h.entry).body = .live l →
        (t.entry h.entry).body = .live { l with damaged := l.damaged || fallsBack g h.gen }) ∧
      ∀ item, item ∈ t.recovery ↔ item = .markBad pair ∨ item ∈ s.recovery ++ items ∧ item.pair ≠ pair)

theorem pairUnclaimed_takeResolved (s : State) (pair : Nat) (items : List RecoveryItem) (bad : Bool) :
    PairUnclaimed s (s.takeResolved pair ⟨none, items, bad⟩) pair items bad := by
  have hports := resolvesOnly_port (resolvesOnly_takeResolved s pair ⟨none, items, bad⟩)
  rw [takeResolved_none] at hports ⊢
  exact ⟨placed_entries s pair _, placed_recovery s pair _, placed_isBad s pair _, hports⟩

theorem pairClaimed_takeResolved (s : State) (pair : Nat) (h : Header) (body : Bool → EntryBody)
    (items : List RecoveryItem) (bad : Bool) (hbody : ∀ d, keptBody (body false) d = body d) :
    PairClaimed s (s.takeResolved pair ⟨some ⟨h.entry, body false, h.gen⟩, items, bad⟩) pair h body items bad := by
  have hports := resolvesOnly_port (resolvesOnly_takeResolved s pair ⟨some ⟨h.entry, body false, h.gen⟩, items, bad⟩)
  have hentry := placed_entry s pair ⟨some ⟨h.entry, body false, h.gen⟩, items, bad⟩
  have hitems := placed_recovery s pair ⟨some ⟨h.entry, body false, h.gen⟩, items, bad⟩
  have hbad := placed_isBad s pair ⟨some ⟨h.entry, body false, h.gen⟩, items, bad⟩
  rw [takeResolved_some] at hports ⊢
  generalize s.placed pair ⟨some ⟨h.entry, body false, h.gen⟩, items, bad⟩ = u at hports hentry hitems hbad ⊢
  refine ⟨fun i hi => (takeClaim_entry_other u _ pair hi).trans (hentry i), hports, fun hfree => ?_,
    fun q g hp hg => ⟨fun hk => ?_, fun hk => ?_⟩⟩
  · rw [takeClaim_free pair (by rw [hentry]; exact hfree)]
    exact ⟨entry_setEntry_same _ _ _, hitems, hbad⟩
  · rw [takeClaim_later (g := g) pair (by rw [hentry]; exact hp) (by rw [hentry]; exact hg) hk]
    refine ⟨(entry_setEntry_same _ _ _).trans (by rw [hbody]), dropPair_isBad _ _, fun item => ?_⟩
    rw [← hitems]
    exact mem_dropPair_recovery _ _ _
  · rw [takeClaim_earlier (g := g) pair (by rw [hentry]; exact hp) (by rw [hentry]; exact hg) hk, hentry]
    have hkept : ∀ f, ((u.setEntry h.entry f).dropPair pair).entry h.entry = f := entry_setEntry_same u h.entry
    rw [hkept]
    refine ⟨hp, (gen?_keptBody _ _).trans hg, dropPair_isBad _ _, fun l hl => by rw [hl]; rfl, fun item => ?_⟩
    rw [← hitems]
    exact mem_dropPair_recovery _ _ _

/-! ### The resolution of a pair (Table 9-2, R158) -/

/-- What a LIVE claim of a cell makes of its entry. -/
def liveBody (c : CellName) (f : CellFound) (h : Header) (fallback doubt : Bool) : EntryBody :=
  .live
    { key := h.key, cls := h.cls, length := h.length, gen := h.gen, cell := c
      guardMap := f.marks.extractLsb' 5 7, fixed := f.marks.getLsbD 3
      damaged := fallback || doubt, refreshWanted := false }

/-- What a RETIRING claim makes of its entry. -/
def retiringBody (h : Header) (_ : Bool) : EntryBody := .retiring h.key h.cls h.gen

theorem keptBody_liveBody (c : CellName) (f : CellFound) (h : Header) (fallback d : Bool) :
    keptBody (liveBody c f h fallback false) d = liveBody c f h fallback d := by
  simp [keptBody, liveBody]

theorem liveClaim_of_header {f : CellFound} {h : Header} (c : CellName) (fallback : Bool) (hh : f.header = some h) :
    liveClaim c f fallback = some ⟨h.entry, liveBody c f h fallback false, h.gen⟩ := by
  simp [liveClaim, hh, liveBody, patchMapOf, markNumber]

theorem resolveRetired_of_header {f : CellFound} {h : Header} (pair : Nat) (c : CellName) (bad : Bool)
    (hh : f.header = some h) :
    resolveRetired pair c f bad =
      ⟨some ⟨h.entry, retiringBody h false, h.gen⟩, [.finishRetire h.entry pair c], bad⟩ := by
  simp [resolveRetired, retiringClaim, hh, finishItem, retiringBody]

theorem gen_of_header {f : CellFound} {h : Header} (hh : f.header = some h) : f.gen = h.gen := by
  simp [CellFound.gen, hh]

section

variable (pair : Nat) {a b : CellFound} {c : CellName}

/-- Line 1 of Table 9-2, and a RETIRED cell beside a BAD one (R158). -/
theorem resolvePair_retired (hc : (foundOf a b c).cls = .retired) (ho : (foundOf a b (otherCell c)).cls ≠ .retired) :
    resolvePair pair a b =
      resolveRetired pair c (foundOf a b c) (decide ((foundOf a b (otherCell c)).cls = .bad)) := by
  cases c
  · cases hb : b.cls <;> simp_all [foundOf, otherCell, resolvePair, resolveBad, resolveGood]
  · cases ha : a.cls <;> simp_all [foundOf, otherCell, resolvePair, resolveBad, resolveGood]

/-- Line 1 of Table 9-2 with both cells RETIRED. -/
theorem resolvePair_bothRetired (ha : a.cls = .retired) (hb : b.cls = .retired) :
    resolvePair pair a b =
      if keepsSecond a.gen b.gen then resolveRetired pair .b b false else resolveRetired pair .a a false := by
  simp [resolvePair, resolveGood, ha, hb]

/-- Line 2 of Table 9-2. -/
theorem resolvePair_bothCommitted (ha : a.cls = .committed) (hb : b.cls = .committed) :
    resolvePair pair a b =
      if keepsSecond a.gen b.gen then ⟨liveClaim .b b (fallsBack a.gen b.gen), [.supersede pair .a], false⟩
      else ⟨liveClaim .a a (fallsBack a.gen b.gen), [.supersede pair .b], false⟩ := by
  simp [resolvePair, resolveGood, ha, hb]

/-- Line 3 of Table 9-2. -/
theorem resolvePair_committed (hc : (foundOf a b c).cls = .committed)
    (ho : (foundOf a b (otherCell c)).cls = .erased ∨ (foundOf a b (otherCell c)).cls = .superseded) :
    resolvePair pair a b = ⟨liveClaim c (foundOf a b c) false, [], false⟩ := by
  cases c <;> rcases ho with ho | ho <;>
    simp_all [foundOf, otherCell, resolvePair, resolveGood, besideCommitted]

/-- Line 4 of Table 9-2. -/
theorem resolvePair_committedDebris (hc : (foundOf a b c).cls = .committed)
    (ho : (foundOf a b (otherCell c)).cls = .written ∨ (foundOf a b (otherCell c)).cls = .debris) :
    resolvePair pair a b = ⟨liveClaim c (foundOf a b c) false, [.eraseDebris pair (otherCell c)], false⟩ := by
  cases c <;> rcases ho with ho | ho <;>
    simp_all [foundOf, otherCell, resolvePair, resolveGood, besideCommitted]

/-- A COMMITTED cell beside a BAD one (R158). -/
theorem resolvePair_committedBad (hc : (foundOf a b c).cls = .committed) (ho : (foundOf a b (otherCell c)).cls = .bad) :
    resolvePair pair a b = ⟨liveClaim c (foundOf a b c) false, [], true⟩ := by
  cases c <;> simp_all [foundOf, otherCell, resolvePair, resolveBad]

/-- Line 5 of Table 9-2: no cell claims. -/
theorem resolvePair_unclaimed (h : ∀ c, (foundOf a b c).cls ≠ .committed ∧ (foundOf a b c).cls ≠ .retired ∧
      (foundOf a b c).cls ≠ .bad) :
    resolvePair pair a b = ⟨none, debrisItem pair .a a.cls ++ debrisItem pair .b b.cls, false⟩ := by
  obtain ⟨hac, har, hab⟩ : a.cls ≠ .committed ∧ a.cls ≠ .retired ∧ a.cls ≠ .bad := h .a
  obtain ⟨hbc, hbr, hbb⟩ : b.cls ≠ .committed ∧ b.cls ≠ .retired ∧ b.cls ≠ .bad := h .b
  rw [resolvePair, if_neg hab, if_neg hbb, resolveGood]
  split
  case h_7 => rfl
  all_goals contradiction

/-- Both cells BAD (R158). -/
theorem resolvePair_bothBad (ha : a.cls = .bad) (hb : b.cls = .bad) : resolvePair pair a b = ⟨none, [], true⟩ := by
  simp [resolvePair, resolveBad, ha, hb]

/-- A BAD cell beside one that claims nothing (R158). -/
theorem resolvePair_bad (hc : (foundOf a b c).cls = .bad) (hb : (foundOf a b (otherCell c)).cls ≠ .bad)
    (hm : (foundOf a b (otherCell c)).cls ≠ .committed) (hr : (foundOf a b (otherCell c)).cls ≠ .retired) :
    resolvePair pair a b = ⟨none, [.markBad pair], true⟩ := by
  cases c
  · cases ho : b.cls <;> simp_all [foundOf, otherCell, resolvePair, resolveBad]
  · cases ho : a.cls <;> simp_all [foundOf, otherCell, resolvePair, resolveBad]

end

end Sys2Proof.Machine
end

section
/-! The last read of the setup pair (R155, R165, R166), and the reads of the scan together: how the read that classifies
cell B takes each line of Table 9-2. -/

namespace Sys2Proof.Machine

/-! ### The resolution of the setup pair (R155, R166) -/

/-- The store filled from the chosen cell, and whether a field of it is out of range (R166, R172). -/
theorem store_of_choice {sc : Scan} {c : CellName} {f : SetupFound} {g : Gen} {d : Data} (hc : sc.setupChoice = some c)
    (hf : sc.setupFound c = some f) (hu : f.usable = some (g, d)) :
    sc.store = ⟨contentsOfBytes (bytesAt d 0 25), g, f.marks.getLsbD 3, some c, g⟩ ∧
      sc.setupDamaged = !contentsInRange (bytesAt d 0 25) := by
  constructor
  · simp only [Scan.store, hc, Option.bind_some, hf, hu]
    rfl
  · simp only [Scan.setupDamaged, usableSetup, hc, Option.bind_some, hf, hu]
    rfl

/-- Without a usable cell the store has the factory values (R155, R172). -/
theorem store_of_no_choice {sc : Scan} (hc : sc.setupChoice = none) :
    sc.store = ⟨SetupContents.factory, 0, false, none, sc.highestGen⟩ ∧ sc.setupDamaged = true := by
  constructor
  · simp only [Scan.store, hc]
  · simp only [Scan.setupDamaged, usableSetup, hc, Option.bind_none]

theorem usable_of_committed {f : SetupFound} {g : Gen} {d : Data} (hf : f.cls = .committed) (hg : f.gen = some g)
    (hd : f.contents = some d) : f.usable = some (g, d) := by
  simp only [SetupFound.usable, hf, hg, hd]

/-- A setup cell that is not COMMITTED, or of which nothing was read, is not usable. -/
theorem usable_of_not {f : SetupFound} (h : f.cls ≠ .committed ∨ f.contents = none) : f.usable = none := by
  unfold SetupFound.usable
  split
  · next hc _ hd => rcases h with h | h <;> simp_all
  · rfl

/-- A setup cell without a valid header is not usable. -/
theorem usable_of_no_gen {f : SetupFound} (h : f.gen = none) : f.usable = none := by
  unfold SetupFound.usable
  split
  · next hg _ => rw [h] at hg; cases hg
  · rfl

section

variable {sc : Scan} {g k : Gen} {d e : Data}

theorem setupChoice_both (ha : usableSetup sc.setupA = some (g, d)) (hb : usableSetup sc.setupB = some (k, e)) :
    sc.setupChoice = some (if keepsSecond g k then .b else .a) := by
  simp only [Scan.setupChoice, ha, hb]

theorem setupChoice_a (ha : usableSetup sc.setupA = some (g, d)) (hb : usableSetup sc.setupB = none) :
    sc.setupChoice = some .a := by
  simp only [Scan.setupChoice, ha, hb]

theorem setupChoice_b (ha : usableSetup sc.setupA = none) (hb : usableSetup sc.setupB = some (k, e)) :
    sc.setupChoice = some .b := by
  simp only [Scan.setupChoice, ha, hb]

theorem setupChoice_none (ha : usableSetup sc.setupA = none) (hb : usableSetup sc.setupB = none) :
    sc.setupChoice = none := by
  simp only [Scan.setupChoice, ha, hb]

end

/-- What is known of setup cell B once its granule 1 has been read. -/
def SetupFound.withRead (f : SetupFound) (r : Outcome × Data) : SetupFound :=
  { f with contents := if r.1 = .uncorrectable then none else some r.2 }

/-- The scan's record when the last read of the setup pair has ended. -/
def State.setupScan (s : State) (f : SetupFound) : Scan :=
  { s.scan with setupB := some (f.withRead (s.readGranule (Loc.setup .b) 1)) }

/-- The last read of the setup pair fills the setup store with `store`, with SETUP_DAMAGED on both ports when `damaged`
says so, and the scan goes on to pair 0. -/
def SetupFilled (s : State) (store : SetupStore) (damaged : Bool) : Prop :=
  ∃ t, exec (.scanGranuleReadEnd []) s = .next t ∧ t.setup = store ∧ t.scan.pos = .cell 0 .a ∧
    (∀ p, (t.port p).flags = if damaged = true then (s.port p).flags ||| 0x20#8 else (s.port p).flags) ∧
    t.entries = s.entries ∧ t.recovery = s.recovery

/-- The last read of the setup pair resolves it. -/
theorem scan_fillsSetup {s : State} {f : SetupFound} (h : s.phase = .starting) (hpos : s.scan.pos = .setupContents .b)
    (hf : s.scan.setupB = some f) : SetupFilled s (s.setupScan f).store (s.setupScan f).setupDamaged := by
  have htarget : s.scan.target = some (Loc.setup .b, 1, none) := by simp only [Scan.target, hpos]
  have hx : exec (.scanGranuleReadEnd []) s = .next (State.resolveSetup { s with
      capture := s.capture.take ⟨(s.readGranule (Loc.setup .b) 1).1, Loc.setup .b, 1, none, .scan⟩
      scan := s.setupScan f }) := by
    rw [exec_scanGranuleReadEnd [] h, scanRead_nil s htarget]
    simp only [State.scanAdvance, hpos, State.scanSetupContents, Scan.setupFound, hf]
    rfl
  refine ⟨_, hx, ?_⟩
  simp only [State.resolveSetup]
  cases (s.setupScan f).setupDamaged
  · exact ⟨rfl, rfl, fun p => by cases p <;> rfl, rfl, rfl⟩
  · exact ⟨rfl, rfl, fun p => by cases p <;> rfl, rfl, rfl⟩

section

variable {s : State} {fb : SetupFound} {h : Gen}

/-- The chosen cell fills the store. -/
theorem setupFilled_of_choice (hstart : s.phase = .starting) (hpos : s.scan.pos = .setupContents .b)
    (hfb : s.scan.setupB = some fb) {c : CellName} {f : SetupFound} {g : Gen} {d : Data}
    (hc : (s.setupScan fb).setupChoice = some c) (hf : (s.setupScan fb).setupFound c = some f)
    (hu : f.usable = some (g, d)) :
    SetupFilled s ⟨contentsOfBytes (bytesAt d 0 25), g, f.marks.getLsbD 3, some c, g⟩
      (!contentsInRange (bytesAt d 0 25)) := by
  obtain ⟨hstore, hdamaged⟩ := store_of_choice hc hf hu
  rw [← hstore, ← hdamaged]
  exact scan_fillsSetup hstart hpos hfb

/-- Granule 1 of cell B was read: the cell is usable. -/
theorem usable_withRead {r : Outcome × Data} (hc : fb.cls = .committed) (hg : fb.gen = some h)
    (hr : r.1 ≠ .uncorrectable) : (fb.withRead r).usable = some (h, r.2) :=
  usable_of_committed hc hg (if_neg hr)

/-- Granule 1 of cell B was UNCORRECTABLE: the cell is not usable. -/
theorem not_usable_withRead {r : Outcome × Data} (hr : r.1 = .uncorrectable) : (fb.withRead r).usable = none :=
  usable_of_not (Or.inr (if_pos hr))

/-- Without a valid header of cell A the highest setup generation is that of cell B. -/
theorem highestGen_setupScan (hg : fb.gen = some h) (hA : ∀ fa, s.scan.setupA = some fa → fa.gen = none) :
    (s.setupScan fb).highestGen = h := by
  have ha : foundGen s.scan.setupA = 0 := by
    cases hsa : s.scan.setupA with
    | none => rfl
    | some fa => simp [foundGen, hA fa hsa]
  have hb : foundGen (s.setupScan fb).setupB = h := by simp [foundGen, State.setupScan, SetupFound.withRead, hg]
  have hsame : (s.setupScan fb).setupA = s.scan.setupA := rfl
  rw [Scan.highestGen, hsame, ha, hb]
  split
  · rfl
  · bv_omega

/-- The last read of the setup pair, by which of its cells are usable (R155). -/
theorem scan_lastSetupRead (hstart : s.phase = .starting) (hpos : s.scan.pos = .setupContents .b)
    (hfb : s.scan.setupB = some fb) (hc : fb.cls = .committed) (hg : fb.gen = some h) :
    let r := s.readGranule (Loc.setup .b) 1
    let takes := fun (f : SetupFound) (c : CellName) (g : Gen) (d : Data) =>
      SetupFilled s ⟨contentsOfBytes (bytesAt d 0 25), g, f.marks.getLsbD 3, some c, g⟩
        (!contentsInRange (bytesAt d 0 25))
    (r.1 ≠ .uncorrectable → (s.scan.setupA = none ∨ ∃ fa, s.scan.setupA = some fa ∧
        (fa.cls ≠ .committed ∨ fa.contents = none)) → takes fb .b h r.2) ∧
    (∀ fa g d, s.scan.setupA = some fa → fa.cls = .committed → fa.gen = some g → fa.contents = some d →
      (r.1 = .uncorrectable → takes fa .a g d) ∧
      (r.1 ≠ .uncorrectable → keepsSecond g h = false → takes fa .a g d) ∧
      (r.1 ≠ .uncorrectable → keepsSecond g h = true → takes fb .b h r.2)) ∧
    (r.1 = .uncorrectable → (∀ fa, s.scan.setupA = some fa → fa.gen = none) →
      SetupFilled s ⟨⟨Vector.replicate 8 ⟨true, true, true, true, 224, 50⟩, 4⟩, 0, false, none, h⟩ true) := by
  intro r takes
  have hread : r.1 ≠ .uncorrectable → usableSetup (s.setupScan fb).setupB = some (h, r.2) := usable_withRead hc hg
  have hunread : r.1 = .uncorrectable → usableSetup (s.setupScan fb).setupB = none := not_usable_withRead
  have hb : r.1 ≠ .uncorrectable → (s.setupScan fb).setupChoice = some .b → takes fb .b h r.2 := fun hr hchoice =>
    setupFilled_of_choice (f := fb.withRead r) hstart hpos hfb hchoice rfl (usable_withRead hc hg hr)
  refine ⟨fun hr hA => hb hr (setupChoice_b ?_ (hread hr)), fun fa g d hA hca hga hda => ?_, fun hr hA => ?_⟩
  · show usableSetup s.scan.setupA = none
    rcases hA with hA | ⟨fa, hA, hnot⟩
    · rw [hA]
      rfl
    · rw [hA]
      exact usable_of_not hnot
  · have husable : usableSetup (s.setupScan fb).setupA = some (g, d) := by
      show usableSetup s.scan.setupA = _
      rw [hA]
      exact usable_of_committed hca hga hda
    have ha : (s.setupScan fb).setupChoice = some .a → takes fa .a g d := fun hchoice =>
      setupFilled_of_choice hstart hpos hfb hchoice hA (usable_of_committed hca hga hda)
    refine ⟨fun hr => ha (setupChoice_a husable (hunread hr)), fun hr hk => ha ?_, fun hr hk => hb hr ?_⟩
    · rw [setupChoice_both husable (hread hr), hk]
      rfl
    · rw [setupChoice_both husable (hread hr), hk]
      rfl
  · have hnone : usableSetup s.scan.setupA = none := by
      cases hsa : s.scan.setupA with
      | none => rfl
      | some fa => exact usable_of_no_gen (hA fa hsa)
    obtain ⟨hstore, hdamaged⟩ := store_of_no_choice (setupChoice_none (sc := s.setupScan fb) hnone (hunread hr))
    have hfilled := scan_fillsSetup hstart hpos hfb
    rw [hstore, hdamaged, highestGen_setupScan hg hA] at hfilled
    exact hfilled

end

/-! ### The lines of Table 9-2 -/

/-- The read that classifies cell B of the pair leaves a state of which `claim` holds, and the scan goes on to the next
pair. -/
def PairRead (s : State) (pair : Nat) (claim : State → Prop) : Prop :=
  ∃ t, exec (.scanGranuleReadEnd []) s = .next t ∧ t.phase = .starting ∧ t.scan.pos = nextPos pair ∧ claim t

/-- The read classifies cell B of the pair, of which cell A was found to be `a`. -/
structure ClassifiesB (s : State) (pair : Nat) (a : CellFound) : Prop where
  starting : s.phase = .starting
  pos : s.scan.pos = .cell pair .b
  first : s.scan.first = some a
  read : s.scan.now.granule = 0 ∧ s.readGranule (Loc.num pair .b) s.scan.now.granule ≠ erasedRead ∨
    s.scan.now.granule = 7

section

variable {s : State} {pair : Nat} {a : CellFound}

/-- The resolution of the pair takes effect in the next state. -/
theorem pairRead_of (h : ClassifiesB s pair a) {res : Resolved} (hres : resolvePair pair a (s.foundOfB pair) = res)
    {claim : State → Prop}
    (hclaim : ∀ cap sc, claim { ({ s with capture := cap } : State).takeResolved pair res with scan := sc }) :
    PairRead s pair claim := by
  obtain ⟨cap, sc, hpos, hx⟩ := scan_resolves h.starting h.pos h.first h.read
  rw [hres] at hx
  refine ⟨_, hx, ?_, hpos, hclaim cap sc⟩
  exact (scanFrame_of_resolvesOnly (resolvesOnly_takeResolved { s with capture := cap } pair res)).phase.trans h.starting

theorem pairRead_unclaimed (h : ClassifiesB s pair a) {items : List RecoveryItem} {bad : Bool}
    (hres : resolvePair pair a (s.foundOfB pair) = ⟨none, items, bad⟩) :
    PairRead s pair (fun t => PairUnclaimed s t pair items bad) :=
  pairRead_of h hres fun cap _ => pairUnclaimed_takeResolved { s with capture := cap } pair items bad

theorem pairRead_claimed (h : ClassifiesB s pair a) {hd : Header} {body : Bool → EntryBody} {items : List RecoveryItem}
    {bad : Bool} (hres : resolvePair pair a (s.foundOfB pair) = ⟨some ⟨hd.entry, body false, hd.gen⟩, items, bad⟩)
    (hbody : ∀ d, keptBody (body false) d = body d) :
    PairRead s pair (fun t => PairClaimed s t pair hd body items bad) :=
  pairRead_of h hres fun cap _ => pairClaimed_takeResolved { s with capture := cap } pair hd body items bad hbody

/-- A pair resolved with a LIVE claim of the cell `f`. -/
theorem pairRead_live (h : ClassifiesB s pair a) {c : CellName} {f : CellFound} {hd : Header} {fallback : Bool}
    {items : List RecoveryItem} {bad : Bool} (hh : f.header = some hd)
    (hres : resolvePair pair a (s.foundOfB pair) = ⟨liveClaim c f fallback, items, bad⟩) :
    PairRead s pair (fun t => PairClaimed s t pair hd (liveBody c f hd fallback) items bad) :=
  pairRead_claimed h (hres.trans (by rw [liveClaim_of_header c fallback hh])) (keptBody_liveBody c f hd fallback)

/-- A pair resolved with a RETIRING claim of the cell `f`. -/
theorem pairRead_retiring (h : ClassifiesB s pair a) {c : CellName} {f : CellFound} {hd : Header} {bad : Bool}
    (hh : f.header = some hd) (hres : resolvePair pair a (s.foundOfB pair) = resolveRetired pair c f bad) :
    PairRead s pair (fun t => PairClaimed s t pair hd (retiringBody hd) [.finishRetire hd.entry pair c] bad) :=
  pairRead_claimed h (hres.trans (resolveRetired_of_header pair c bad hh)) fun _ => rfl

/-- The read that classifies cell B, line by line of Table 9-2 and of R158. -/
theorem scan_classifiesB (hb : ClassifiesB s pair a) :
    let b := s.foundOfB pair
    let found := foundOf a b
    let unclaimed := fun (items : List RecoveryItem) (bad : Bool) =>
      PairRead s pair (fun t => PairUnclaimed s t pair items bad)
    let live := fun (c : CellName) (h : Header) (fallback : Bool) (items : List RecoveryItem) (bad : Bool) =>
      PairRead s pair (fun t => PairClaimed s t pair h (liveBody c (found c) h fallback) items bad)
    let retiring := fun (c : CellName) (h : Header) (bad : Bool) =>
      PairRead s pair (fun t => PairClaimed s t pair h (retiringBody h) [.finishRetire h.entry pair c] bad)
    (∀ c h, (found c).cls = .retired → (found c).header = some h →
      (found (otherCell c)).cls ≠ .retired → retiring c h ((found (otherCell c)).cls == .bad)) ∧
    (∀ h k, a.cls = .retired → b.cls = .retired → a.header = some h → b.header = some k →
      (keepsSecond h.gen k.gen = false → retiring .a h false) ∧ (keepsSecond h.gen k.gen = true → retiring .b k false)) ∧
    (∀ h k, a.cls = .committed → b.cls = .committed → a.header = some h → b.header = some k →
      (keepsSecond h.gen k.gen = false → live .a h (fallsBack h.gen k.gen) [.supersede pair .b] false) ∧
      (keepsSecond h.gen k.gen = true → live .b k (fallsBack h.gen k.gen) [.supersede pair .a] false)) ∧
    (∀ c h, (found c).cls = .committed → (found c).header = some h →
      ((found (otherCell c)).cls = .erased ∨ (found (otherCell c)).cls = .superseded → live c h false [] false) ∧
      ((found (otherCell c)).cls = .written ∨ (found (otherCell c)).cls = .debris →
        live c h false [.eraseDebris pair (otherCell c)] false) ∧
      ((found (otherCell c)).cls = .bad → live c h false [] true)) ∧
    ((∀ c, (found c).cls ≠ .committed ∧ (found c).cls ≠ .retired ∧ (found c).cls ≠ .bad) →
      unclaimed (debrisItem pair .a a.cls ++ debrisItem pair .b b.cls) false) ∧
    (a.cls = .bad → b.cls = .bad → unclaimed [] true) ∧
    ∀ c, (found c).cls = .bad → (found (otherCell c)).cls ≠ .bad → (found (otherCell c)).cls ≠ .committed →
      (found (otherCell c)).cls ≠ .retired → unclaimed [.markBad pair] true := by
  intro b found unclaimed live retiring
  refine ⟨fun c h hc hh ho => pairRead_retiring hb hh (resolvePair_retired pair hc ho), fun h k ha hbc hha hhb => ?_,
    fun h k ha hbc hha hhb => ?_, fun c h hc hh => ⟨fun ho => pairRead_live hb hh (resolvePair_committed pair hc ho),
      fun ho => pairRead_live hb hh (resolvePair_committedDebris pair hc ho),
      fun ho => pairRead_live hb hh (resolvePair_committedBad pair hc ho)⟩,
    fun hn => pairRead_unclaimed hb (resolvePair_unclaimed pair hn),
    fun ha hbc => pairRead_unclaimed hb (resolvePair_bothBad pair ha hbc),
    fun c hc ho hm hr => pairRead_unclaimed hb (resolvePair_bad pair hc ho hm hr)⟩
  · have hres := resolvePair_bothRetired pair ha hbc
    rw [gen_of_header hha, gen_of_header hhb] at hres
    refine ⟨fun hk => pairRead_retiring hb hha ?_, fun hk => pairRead_retiring hb hhb ?_⟩
    · rw [hres, hk, if_neg (by decide)]
    · rw [hres, hk, if_pos rfl]
  · have hres := resolvePair_bothCommitted pair ha hbc
    rw [gen_of_header hha, gen_of_header hhb] at hres
    refine ⟨fun hk => pairRead_live hb hha ?_, fun hk => pairRead_live hb hhb ?_⟩
    · rw [hres, hk, if_neg (by decide)]
      rfl
    · rw [hres, hk, if_pos rfl]
      rfl

end

/-! ### The statement -/

/-- Settles O41: the header of cell A, the read that classifies cell B, and the last read of the setup pair. -/
theorem scanReadGoesOn : Obligations.ScanReadGoesOn := by
  refine ⟨fun s pair h hpos hg => scan_headerA h hpos hg, ?_, fun s fb h hstart hpos hfb hc hg =>
    scan_lastSetupRead hstart hpos hfb hc hg⟩
  intro s pair a h hpos hfirst loc r hr b found
  have hfound : found = foundOf a (s.foundOfB pair) := funext fun c => by cases c <;> rfl
  clear_value found
  subst hfound
  exact scan_classifiesB ⟨h, hpos, hfirst, hr⟩

end Sys2Proof.Machine
end

section
/-! The setup record (10.3): the checks and the acceptance of SETUP_WRITE (R168), and the array steps of a SETUP job
(R169 to R171, Figure 10-1), with the RESTART that is carried out at its completion (R152). -/

namespace Sys2Proof.Machine

/-! ### SETUP_WRITE (R168) -/

/-- The acceptance checks of a SETUP_WRITE in the order of Table 3-4. -/
def State.setupWriteChecks (s : State) (p : Port) (contents : Bytes) (fix : Byte) : List (Bool × Status) :=
  [(!contentsInRange contents, .badArg), (decide (1 < fix.toNat), .badArg), (p == .s, .denied),
    (s.setup.fixed, .locked)] ++ s.jobCapacity p s.setupWaits

section

variable {s : State} {p : Port} {args contents : Bytes} {fix : Byte}

/-- A SETUP_WRITE that the port takes is refused by the first check that fails, or joins the queue. -/
theorem exec_setupWrite (h : s.takes p) (ha : setupArgs args = some (contents, fix)) :
    exec (.setupWrite p args) s =
      .next (s.unless p (firstFailing (s.setupWriteChecks p contents fix))
        (s.enqueue p (.setup (contentsOfBytes contents) (fix == 1)))) := by
  refine congrArg Host.Outcome.next ?_
  rw [State.takeSetupWrite, ha, command_takes s p _ _ h]
  rfl

theorem exec_setupWrite_refused (h : s.takes p) (ha : setupArgs args = some (contents, fix)) {st : Status}
    (hf : firstFailing (s.setupWriteChecks p contents fix) = some st) :
    exec (.setupWrite p args) s = .next (s.modPort p (fun ps => { ps with slot := .ready st [] })) := by
  rw [exec_setupWrite h ha, hf]
  rfl

theorem exec_setupWrite_accepted (h : s.takes p) (ha : setupArgs args = some (contents, fix))
    (hf : firstFailing (s.setupWriteChecks p contents fix) = none) :
    exec (.setupWrite p args) s = .next (s.enqueue p (.setup (contentsOfBytes contents) (fix == 1))) := by
  rw [exec_setupWrite h ha, hf]
  rfl

/-- Check 1: contents or a fix byte out of range. -/
theorem setupWriteChecks_badArg (h : contentsInRange contents = false ∨ 1 < fix.toNat) :
    firstFailing (s.setupWriteChecks p contents fix) = some .badArg := by
  cases hc : contentsInRange contents with
  | false => simp [State.setupWriteChecks, firstFailing, hc]
  | true =>
    have hfix : 1 < fix.toNat := h.resolve_left (by simp [hc])
    simp [State.setupWriteChecks, firstFailing, hc, hfix]

/-- With the arguments in range Port S is refused, and for Port M the checks are those of the fixed flag and of the
places. -/
theorem setupWriteChecks_inRange (hc : contentsInRange contents = true) (hf : fix.toNat ≤ 1) :
    firstFailing (s.setupWriteChecks .s contents fix) = some .denied ∧
      firstFailing (s.setupWriteChecks .m contents fix) =
        firstFailing ((s.setup.fixed, .locked) :: s.jobCapacity .m s.setupWaits) := by
  have hfix : ¬1 < fix.toNat := by omega
  exact ⟨by simp [State.setupWriteChecks, firstFailing, hc, hfix],
    by simp [State.setupWriteChecks, firstFailing, hc, hfix]⟩

end

/-- A SETUP job of Port M joins the tail of the queue, and its answer names no entry (R55). -/
theorem enqueue_setup (s : State) (c : SetupContents) (fix : Bool) :
    s.enqueue .m (.setup c fix) =
      { s.modPort .m (fun ps =>
          { ps with
            slot := .ready .accepted [ps.ticket, 0xFF, 0xFF]
            ticket := nextTicket ps.ticket
            outstanding := ps.outstanding + 1 }) with
        queue := s.queue ++ [⟨s.portM.ticket, .m, .setup c fix⟩] } :=
  rfl

/-- Settles O28: the checks in their order, each with those before it passed, and the acceptance. -/
theorem setupWriteAcceptance : Obligations.SetupWriteAcceptance := by
  intro s args contents fix ha answers
  refine ⟨fun p h hbad => exec_setupWrite_refused h ha (setupWriteChecks_badArg hbad), fun hc hf => ?_⟩
  obtain ⟨hdenied, hchecks⟩ := setupWriteChecks_inRange (s := s) hc hf
  refine ⟨fun h => exec_setupWrite_refused h ha hdenied,
    fun h hfixed => exec_setupWrite_refused h ha (hchecks.trans ?_),
    fun h hfixed hwaits => exec_setupWrite_refused h ha (hchecks.trans ?_),
    fun h hfixed hwaits hqueue hport => ?_⟩
  · rw [hfixed]
    rfl
  · rw [hfixed, State.setupWaits, hwaits]
    rfl
  · have hroom : ¬8 ≤ (s.port .m).outstanding + (s.port .m).results.length := Nat.not_le.2 hport
    rw [exec_setupWrite_accepted h ha (hchecks.trans ?_), enqueue_setup]
    simp [firstFailing_eq_none, State.jobCapacity, State.setupWaits, State.queueFull, State.portFull, hfixed, hwaits,
      hqueue, hroom]

/-! ### How a SETUP job completes, fails and makes its switch (R152, R169 to R171) -/

/-- A SETUP job names no entry and no buffer: its completion touches the queue, the work and its port's results. -/
theorem completeJob_of_setup (s : State) {j : Job} (r : JobResult) (g : Option Gen) (x : Bool)
    (hb : j.body.isSetup = true) :
    s.completeJob j r g x =
      { s with queue := s.queue.drop 1, work := .idle }.pushResult j.port (j.record r g x) := by
  obtain ⟨t, p, body⟩ := j
  cases body with
  | setup c f => rfl
  | commit | patch | retire | fix => cases hb

/-- Without a deferred RESTART the completion is that of the job alone. -/
theorem setupDone_quiet (s : State) (j : Job) (w : SetupJob) (h : s.restartDeferred = false) :
    s.setupDone j w = s.completeJob j .done (some w.gen) false := by
  rw [State.setupDone, State.deferredRestart, completeJob_restartDeferred, h]
  rfl

/-- A deferred RESTART is carried out: every block takes its reset value, the array stays. -/
theorem setupDone_restarts (s : State) (j : Job) (w : SetupJob) (h : s.restartDeferred = true) :
    s.setupDone j w =
      { State.reset with granules := s.granules, marks := s.marks, free := s.free, pending := s.pending } := by
  obtain ⟨q, wk, pm, ps, b, es, hs, hc⟩ := completeJob_touches s j .done (some w.gen) false
  rw [State.setupDone, State.deferredRestart, completeJob_restartDeferred, if_pos h, hc]
  rfl

/-- The array is free after a completion on a free array; a restarted part has a free array too. -/
theorem arrayFree_setupDone {s : State} (j : Job) (w : SetupJob) (h : s.arrayFree) : (s.setupDone j w).arrayFree := by
  cases hd : s.restartDeferred with
  | false =>
    rw [setupDone_quiet s j w hd, State.arrayFree, (completeJob_arb_census s j .done (some w.gen) false).1]
    exact h
  | true =>
    rw [setupDone_restarts s j w hd]
    exact ⟨rfl, rfl, rfl, rfl, rfl, rfl, rfl⟩

/-- What the end of an array step, and the switch after it, leave of the state: all that a SETUP job's completion takes
up. -/
structure SetupKeeps (s after : State) : Prop where
  arb : after.arb = s.arb
  queue : after.queue = s.queue
  restartDeferred : after.restartDeferred = s.restartDeferred
  pending : after.pending = s.pending
  results : ∀ q, (after.port q).results = (s.port q).results
  outstanding : ∀ q, (after.port q).outstanding = (s.port q).outstanding

/-- The SETUP job `j` completes with DONE at the command `c`, with the setup store and the event flags given and the array
as in `after`; a RESTART deferred behind the job is carried out. -/
def SetupEnds (s : State) (j : Job) (rest : List Job) (w : SetupJob) (record : SetupStore) (flags : Port → Byte)
    (c : Instr) (after : State) : Prop :=
  ∃ t, exec c s = .next t ∧
    (s.restartDeferred = true →
      t = { State.reset with
        granules := after.granules, marks := after.marks, free := after.free, pending := s.pending }) ∧
    (s.restartDeferred = false → jobCompleted s t j rest .done (some w.gen) false ∧ t.setup = record ∧
      (∀ q, (t.port q).flags = flags q) ∧ t.granules = after.granules ∧ t.marks = after.marks)

/-- The job completes at the command `c` with the setup store as it was and the event flags as in `after` (R170). -/
def SetupCompletes (s : State) (j : Job) (rest : List Job) (w : SetupJob) (c : Instr) (after : State) : Prop :=
  SetupEnds s j rest w s.setup (fun q => (after.port q).flags) c after

/-- The job fails at the command `c`: the new record comes into force, the current setup cell stays, and SETUP_DAMAGED is
set on both ports (R171). -/
def SetupStorageFails (s : State) (j : Job) (rest : List Job) (w : SetupJob) (c : Instr) (after : State) : Prop :=
  SetupEnds s j rest w ⟨w.contents, w.gen, s.setup.fixed || w.fix, s.setup.currentCell, w.gen⟩
    (fun q => (after.port q).flags ||| 0x20#8) c after

section

variable {s after : State} {j : Job} {rest : List Job} {w : SetupJob} {c : Instr} {step : EngineStep}

/-- A completion at the end of an array step, with nobody waiting, is the whole next state. -/
theorem setupEnds_of (hs : s.engineAlone step) (hk : SetupKeeps s after) (hq : s.queue = j :: rest)
    (hb : j.body.isSetup = true) (hx : exec c s = .next ((after.release.setupDone j w).stepBoundary)) :
    SetupEnds s j rest w after.setup (fun q => (after.port q).flags) c after := by
  rw [stepBoundary_quiet _ (arrayFree_setupDone j w (arrayFree_release hs hk.arb))] at hx
  refine ⟨_, hx, fun hd => ?_, fun hd => ?_⟩
  · rw [setupDone_restarts after.release j w (hk.restartDeferred.trans hd), ← hk.pending]
    rfl
  · rw [setupDone_quiet after.release j w (hk.restartDeferred.trans hd)]
    obtain ⟨hwork, hqueue, hresults, hout, hbuf⟩ :=
      completeJob_facts after.release j rest .done (some w.gen) false (hk.queue.trans hq)
    refine ⟨⟨hwork, hqueue, hresults.trans ?_, hout.trans ?_, hbuf⟩, ?_⟩
    · exact congrArg (· ++ _) (hk.results j.port)
    · exact congrArg (· - 1) (hk.outstanding j.port)
    · rw [completeJob_of_setup _ _ _ _ hb]
      refine ⟨rfl, fun q => ?_, rfl, rfl⟩
      cases q <;> cases hp : j.port <;> rfl

theorem setupCompletes_of (hs : s.engineAlone step) (hk : SetupKeeps s after) (hset : after.setup = s.setup)
    (hq : s.queue = j :: rest) (hb : j.body.isSetup = true)
    (hx : exec c s = .next ((after.release.setupDone j w).stepBoundary)) : SetupCompletes s j rest w c after := by
  rw [SetupCompletes, ← hset]
  exact setupEnds_of hs hk hq hb hx

/-- What a storage failure has done when the job completes (R171). -/
def State.setupFailed (s : State) (w : SetupJob) : State :=
  (s.setupSwitch w s.setup.currentCell).setFlagBoth .setupDamaged

theorem setupFailed_port (s : State) (w : SetupJob) (q : Port) :
    (s.setupFailed w).port q = { s.port q with flags := (s.port q).flags ||| 0x20#8 } := by
  cases q <;> rfl

/-- A storage failure at the end of an array step is a completion with the new record in force. -/
theorem setupStorageFails_of (hs : s.engineAlone step) (hk : SetupKeeps s after) (hset : after.setup = s.setup)
    (hq : s.queue = j :: rest) (hb : j.body.isSetup = true)
    (hx : exec c s = .next ((after.release.storageFailure j w).stepBoundary)) :
    SetupStorageFails s j rest w c after := by
  have hfailed : SetupKeeps s (after.setupFailed w) :=
    ⟨hk.arb, hk.queue, hk.restartDeferred, hk.pending, fun q => by rw [setupFailed_port]; exact hk.results q,
      fun q => by rw [setupFailed_port]; exact hk.outstanding q⟩
  have hends := setupEnds_of hs hfailed hq hb hx
  simp only [setupFailed_port] at hends
  rw [SetupStorageFails, ← hset]
  exact hends

/-- The switch, and the claim of the step after it (R169, step 9). -/
theorem setupInstall_eq (s : State) (j : Job) (w : SetupJob) :
    s.setupInstall j w =
      (s.setupSwitch w (some w.idle)).claims
        (if w.wasNone = true then .setup j w (.classifyOld Classifying.start) else .setup j w .supersede)
        (if w.wasNone = true then .read w.oldLoc 0 none else .mark w.oldLoc (markBit .supersede)) := by
  simp only [State.setupInstall]
  split <;> rfl

/-- The new record is in force, with the cell written as the current setup cell, and the old cell is superseded, or
classified first when there was no current cell (R169, R170). -/
def SetupInstalls (s : State) (j : Job) (w : SetupJob) (c : Instr) (after : State) : Prop :=
  exec c s = .next
    ({ after with setup := ⟨w.contents, w.gen, s.setup.fixed || w.fix, some w.idle, w.gen⟩ }.atStep
      (if w.wasNone = true then .setup j w (.classifyOld ⟨0, ⟨0, 0, 0⟩, true⟩) else .setup j w .supersede)
      (if w.wasNone = true then .read w.oldLoc 0 none else .mark w.oldLoc (markBit .supersede)))

theorem setupInstalls_of (hs : s.engineAlone step) (harb : after.arb = s.arb) (hset : after.setup = s.setup)
    (hx : exec c s = .next ((after.release.setupInstall j w).stepBoundary)) : SetupInstalls s j w c after := by
  rw [SetupInstalls, ← hset]
  refine goesTo_of (after := after.setupSwitch w (some w.idle)) hs harb ?_
  rw [hx, setupInstall_eq]
  rfl

end

/-! ### What the ends of the array steps leave -/

theorem setupKeeps_of_arrayOnly {s t : State} (h : ArrayOnly s t) : SetupKeeps s t := by
  obtain ⟨g, m, f, rfl⟩ := h
  exact ⟨rfl, rfl, rfl, rfl, fun q => by cases q <;> rfl, fun q => by cases q <;> rfl⟩

/-- The end of a read leaves what a completion takes up, the work and the setup store. -/
theorem setupKeeps_readEnded (s : State) (l : Loc) (g : Nat) (e : Option Nat) (us : List Upset) :
    SetupKeeps s (s.readEnded l g e us) ∧ (s.readEnded l g e us).work = s.work ∧
      (s.readEnded l g e us).setup = s.setup := by
  obtain ⟨x, k, es, rl, fm, fs, c, h⟩ := readEnded_touches s l g e us
  rw [h]
  exact ⟨⟨rfl, rfl, rfl, rfl, fun q => by cases q <;> rfl, fun q => by cases q <;> rfl⟩, rfl, rfl⟩

theorem setup_of_arrayOnly {s t : State} (h : ArrayOnly s t) : t.setup = s.setup := by
  obtain ⟨g, m, f, rfl⟩ := h
  rfl

theorem readEnded_markField (s : State) (l : Loc) (g : Nat) (e : Option Nat) (us : List Upset) :
    (s.readEnded l g e us).release.markField l = (s.upsets l us).markField l := by
  show (s.readEnded l g e us).markField l = _
  simp only [State.readEnded, State.markField, (same_report _ _).2.1]

/-! ### How the classification of a setup cell goes on (R32, R169) -/

/-- The reads of the idle cell go on as a classification's do. -/
theorem setupRead_classify (s : State) (j : Job) (w : SetupJob) (c : Classifying) (r : Outcome × Data) :
    s.setupRead j w (.classify c) r =
      match c.take (s.markField w.loc) (setupHeaderOf r).isSome r with
      | .more c' => s.claims (.setup j w (.classify c')) (.read w.loc c'.granule none)
      | .found .erased => s.claims (.setup j w .header) (.program w.loc 0 (w.content 0))
      | .found _ => s.claims (.setup j w .erase) (.erase w.loc) := by
  rfl

/-- The idle cell is classified as R32 says. -/
theorem setup_classifies (s : State) (j : Job) (w : SetupJob) :
    classificationRuns s w.loc none (fun c => .setup j w (.classify c))
      (.setup j w .header, .program w.loc 0 (w.content 0)) (.setup j w .erase, .erase w.loc) :=
  classificationRuns_of s w.loc none _ _ _ (fun r => (setupHeaderOf r).isSome) fun t c r hw => by
    rw [State.afterRead, hw]
    exact setupRead_classify t j w c r

/-- A COMMITTED cell has a valid header and the commit mark, and none of the marks that speak against it (Table 2-4). -/
theorem of_classify_committed {f : MarkField} {valid allErased : Bool} (h : classify f valid allErased = .committed) :
    valid = true ∧ f.has .commit = true ∧ f.has .bad = false ∧ f.has .retire = false ∧ f.has .supersede = false := by
  unfold classify at h
  repeat' split at h
  all_goals simp_all

/-- When a cell whose header is not erased is COMMITTED. -/
theorem classify_committed_iff (f : MarkField) (valid : Bool) :
    classify f valid false = .committed ↔
      valid = true ∧ f.has .commit = true ∧ f.has .bad = false ∧ f.has .retire = false ∧ f.has .supersede = false := by
  refine ⟨of_classify_committed, ?_⟩
  rintro ⟨rfl, hcommit, hbad, hretire, hsupersede⟩
  simp [classify, hcommit, hbad, hretire, hsupersede]

/-- A cell without a valid header is not COMMITTED. -/
theorem classify_noHeader (f : MarkField) (allErased : Bool) : classify f false allErased ≠ .committed :=
  fun h => Bool.false_ne_true (of_classify_committed h).1

section

variable {s : State} {j : Job} {w : SetupJob} {c : Classifying} {r : Outcome × Data}

/-- The old cell's classification goes on. -/
theorem setupRead_old_more {c' : Classifying}
    (h : c.take (s.markField w.oldLoc) (setupHeaderOf r).isSome r = .more c') :
    s.setupRead j w (.classifyOld c) r = s.claims (.setup j w (.classifyOld c')) (.read w.oldLoc c'.granule none) := by
  rw [State.setupRead, h]
  rfl

/-- A COMMITTED old cell is superseded. -/
theorem setupRead_old_committed
    (h : c.take (s.markField w.oldLoc) (setupHeaderOf r).isSome r = .found .committed) :
    s.setupRead j w (.classifyOld c) r = s.claims (.setup j w .supersede) (.mark w.oldLoc (markBit .supersede)) := by
  rw [State.setupRead, h]
  rfl

/-- Any other old cell is left, and the job completes. -/
theorem setupRead_old_other {cls : Classification}
    (h : c.take (s.markField w.oldLoc) (setupHeaderOf r).isSome r = .found cls) (hcls : cls ≠ .committed) :
    s.setupRead j w (.classifyOld c) r = s.setupDone j w := by
  rw [State.setupRead, h]
  cases cls with
  | committed => exact absurd rfl hcls
  | bad | erased | debris | retired | superseded | written => rfl

end

/-! ### The ends of the array steps of a SETUP job (R169 to R171) -/

section

variable {s : State} {j : Job} {rest : List Job} {w : SetupJob} {st : SetupStep} {l : Loc} {g : Nat} {d : Data}
  {m : BitVec 12}

/-- The end of a read: the job advances by what was read. -/
theorem exec_setupReadEnd {e : Option Nat} (us : List Upset) (hs : s.engineAlone (.read l g e))
    (hw : s.work = .setup j w st) :
    exec (.engineReadEnd us) s =
      .next (((s.readEnded l g e us).release.setupRead j w st (s.engineReads l g us)).stepBoundary) := by
  have hwork : (s.readEnded l g e us).release.work = .setup j w st := (setupKeeps_readEnded s l g e us).2.1.trans hw
  rw [exec_engineReadEnd s l g e us hs, State.afterRead, hwork]

/-- The end of a granule program: the job advances. -/
theorem exec_setupProgrammed (us : List Upset) (hs : s.engineAlone (.program l g d)) (hw : s.work = .setup j w st) :
    exec (.granuleProgramEnd us) s = .next (((s.programEnded l g d us).release.setupProgrammed j w st).stepBoundary) := by
  have hwork : (s.programEnded l g d us).release.work = .setup j w st :=
    (stepLeaves_programEnded s l g d us 0).work.trans hw
  rw [exec_granuleProgramEnd s l g d us hs, State.afterProgram, hwork]

/-- The end of a mark program: the job advances by whether every mark named reads set. -/
theorem exec_setupMarked (us : List Upset) (hs : s.engineAlone (.mark l m)) (hw : s.work = .setup j w st) :
    exec (.markProgramEnd us) s =
      .next (((s.markEnded l m us).release.setupMarked j w st ((s.markEnded l m us).marksTook l m)).stepBoundary) := by
  have hwork : (s.markEnded l m us).release.work = .setup j w st := (stepLeaves_markEnded s l m us 0).work.trans hw
  rw [exec_markProgramEnd s l m us hs, State.afterMark, hwork]

/-- The end of a cell erase: the job advances by whether the whole cell is erased. -/
theorem exec_setupErased (us : List Upset) (hs : s.engineAlone (.erase l)) (hw : s.work = .setup j w st) :
    exec (.cellEraseEnd us) s =
      .next (((s.eraseEnded l us).release.setupErased j w st ((s.eraseEnded l us).eraseTook l)).stepBoundary) := by
  have hwork : (s.eraseEnded l us).release.work = .setup j w st :=
    (stepLeaves_of_arrayOnly (arrayOnly_eraseEnded s l us) 0).work.trans hw
  rw [exec_cellEraseEnd s l us hs, State.afterErase, hwork]

/-- The end of the program of the header leads to that of the contents, and this to the verify reads. -/
theorem setup_program_ends (us : List Upset) (hs : s.engineAlone (.program l g d)) :
    let goesTo := fun (step : SetupStep) (next : EngineStep) =>
      exec (.granuleProgramEnd us) s = .next ((s.programEnded l g d us).atStep (.setup j w step) next)
    (s.work = .setup j w .header → goesTo .data (.program w.loc 1 (w.content 1))) ∧
    (s.work = .setup j w .data → goesTo (.verify 0) (.read w.loc 0 none)) := by
  have harb : (s.programEnded l g d us).arb = s.arb := programEnded_arb s l g d us
  exact ⟨fun hw => goesTo_of hs harb (exec_setupProgrammed us hs hw),
    fun hw => goesTo_of hs harb (exec_setupProgrammed us hs hw)⟩

/-- The end of the erase of the idle cell. -/
theorem setup_erase_ends (hq : s.queue = j :: rest) (hb : j.body.isSetup = true) (us : List Upset)
    (hs : s.engineAlone (.erase w.loc)) (hw : s.work = .setup j w .erase) :
    let after := s.eraseEnded w.loc us
    (after.cellErased w.loc →
      exec (.cellEraseEnd us) s =
        .next (after.atStep (.setup j w .header) (.program w.loc 0 (w.content 0)))) ∧
    (¬after.cellErased w.loc → SetupStorageFails s j rest w (.cellEraseEnd us) after) := by
  intro after
  have ha : ArrayOnly s after := arrayOnly_eraseEnded s w.loc us
  have hk := setupKeeps_of_arrayOnly ha
  have hx := exec_setupErased us hs hw
  refine ⟨fun h => goesTo_of hs hk.arb ?_,
    fun h => setupStorageFails_of hs hk (setup_of_arrayOnly ha) hq hb ?_⟩
  · rw [hx, (eraseTook_iff _ _).2 h]
    rfl
  · rw [hx, Bool.eq_false_iff.2 fun ht => h ((eraseTook_iff _ _).1 ht)]
    rfl

/-- What verify asks for: CLEAN, and the content programmed. -/
theorem verified_iff (r : Outcome × Data) (x : Data) : verified r x = true ↔ r = (.clean, x) := by
  obtain ⟨o, y⟩ := r
  simp [verified]

/-- The end of a verify read. -/
theorem setup_verify_ends (hq : s.queue = j :: rest) (hb : j.body.isSetup = true) (us : List Upset)
    (hs : s.engineAlone (.read w.loc g none)) (hw : s.work = .setup j w (.verify g)) :
    let after := s.readEnded w.loc g none us
    (s.engineReads w.loc g us = (.clean, w.content g) →
      (g = 0 → exec (.engineReadEnd us) s =
        .next (after.atStep (.setup j w (.verify 1)) (.read w.loc 1 none))) ∧
      (g = 1 → exec (.engineReadEnd us) s =
        .next (after.atStep (.setup j w .commitMark) (.mark w.loc (markBit .commit))))) ∧
    (s.engineReads w.loc g us ≠ (.clean, w.content g) →
      SetupStorageFails s j rest w (.engineReadEnd us) after) := by
  intro after
  obtain ⟨hk, -, hset⟩ : SetupKeeps s after ∧ after.work = s.work ∧ after.setup = s.setup :=
    setupKeeps_readEnded s w.loc g none us
  have hx := exec_setupReadEnd us hs hw
  rw [State.setupRead] at hx
  refine ⟨fun h => ?_, fun h => setupStorageFails_of hs hk hset hq hb ?_⟩
  · rw [if_pos ((verified_iff _ _).2 h)] at hx
    refine ⟨fun h0 => goesTo_of hs hk.arb ?_, fun h1 => goesTo_of hs hk.arb ?_⟩
    · rw [hx, if_pos h0]
      rfl
    · rw [hx, if_neg (by omega)]
  · rw [hx, if_neg fun hv => h ((verified_iff _ _).1 hv)]

/-- The end of the commit mark. -/
theorem setup_commitMark_ends (hq : s.queue = j :: rest) (hb : j.body.isSetup = true) (us : List Upset)
    (hs : s.engineAlone (.mark l m)) (hw : s.work = .setup j w .commitMark) :
    let after := s.markEnded l m us
    (¬after.marksStand l m → SetupStorageFails s j rest w (.markProgramEnd us) after) ∧
    (after.marksStand l m → w.fix = true →
      exec (.markProgramEnd us) s =
        .next (after.atStep (.setup j w .fixedMark) (.mark w.loc (markBit .fixed)))) ∧
    (after.marksStand l m → w.fix = false → SetupInstalls s j w (.markProgramEnd us) after) := by
  intro after
  have ha : ArrayOnly s after := arrayOnly_markEnded s l m us
  have hk := setupKeeps_of_arrayOnly ha
  have hset := setup_of_arrayOnly ha
  have hx := exec_setupMarked us hs hw
  rw [State.setupMarked] at hx
  refine ⟨fun h => setupStorageFails_of hs hk hset hq hb ?_, fun h hf => goesTo_of hs hk.arb ?_,
    fun h hf => setupInstalls_of hs hk.arb hset ?_⟩
  · rw [hx, if_neg fun ht => h ((marksTook_iff _ _ _).1 ht)]
  · rw [hx, if_pos ((marksTook_iff _ _ _).2 h), if_pos hf]
  · rw [hx, if_pos ((marksTook_iff _ _ _).2 h), hf]
    rfl

/-- The end of the fixed mark, COMPLETE or FAILED. -/
theorem setup_fixedMark_ends (us : List Upset) (hs : s.engineAlone (.mark l m)) (hw : s.work = .setup j w .fixedMark) :
    SetupInstalls s j w (.markProgramEnd us) (s.markEnded l m us) :=
  setupInstalls_of hs (markEnded_arb s l m us) (setup_of_arrayOnly (arrayOnly_markEnded s l m us))
    (exec_setupMarked us hs hw)

/-- The end of the supersede mark of the old cell, COMPLETE or FAILED. -/
theorem setup_supersede_ends (hq : s.queue = j :: rest) (hb : j.body.isSetup = true) (us : List Upset)
    (hs : s.engineAlone (.mark l m)) (hw : s.work = .setup j w .supersede) :
    SetupCompletes s j rest w (.markProgramEnd us) (s.markEnded l m us) := by
  have ha : ArrayOnly s (s.markEnded l m us) := arrayOnly_markEnded s l m us
  exact setupCompletes_of hs (setupKeeps_of_arrayOnly ha) (setup_of_arrayOnly ha) hq hb (exec_setupMarked us hs hw)

/-- The end of a read of the old cell's classification. -/
theorem setup_oldRead_ends {c : Classifying} (hq : s.queue = j :: rest) (hb : j.body.isSetup = true)
    (us : List Upset) (hs : s.engineAlone (.read w.oldLoc c.granule none)) (hw : s.work = .setup j w (.classifyOld c)) :
    let r := s.engineReads w.oldLoc c.granule us
    let after := s.readEnded w.oldLoc c.granule none us
    let f := (s.upsets w.oldLoc us).markField w.oldLoc
    let committed := (setupHeaderOf r).isSome = true ∧ f.has .commit = true ∧ f.has .bad = false ∧
      f.has .retire = false ∧ f.has .supersede = false
    let goesTo := fun (step : SetupStep) (est : EngineStep) =>
      exec (.engineReadEnd us) s = .next (after.atStep (.setup j w step) est)
    (c.granule = 0 → r = erasedRead → goesTo (.classifyOld ⟨1, f, true⟩) (.read w.oldLoc 1 none)) ∧
    (c.granule = 0 → r ≠ erasedRead → committed → goesTo .supersede (.mark w.oldLoc (markBit .supersede))) ∧
    (c.granule = 0 → r ≠ erasedRead → ¬committed → SetupCompletes s j rest w (.engineReadEnd us) after) ∧
    (1 ≤ c.granule → c.granule < 7 →
      goesTo (.classifyOld ⟨c.granule + 1, c.marks, c.erased && decide (r = erasedRead)⟩)
        (.read w.oldLoc (c.granule + 1) none)) ∧
    (c.granule = 7 → SetupCompletes s j rest w (.engineReadEnd us) after) := by
  intro r after f committed goesTo
  obtain ⟨hk, -, hset⟩ : SetupKeeps s after ∧ after.work = s.work ∧ after.setup = s.setup :=
    setupKeeps_readEnded s w.oldLoc c.granule none us
  have hf : after.release.markField w.oldLoc = f := readEnded_markField s w.oldLoc c.granule none us
  have hx : exec (.engineReadEnd us) s = .next ((after.release.setupRead j w (.classifyOld c) r).stepBoundary) :=
    exec_setupReadEnd us hs hw
  have hheader (h0 : c.granule = 0) (hr : r ≠ erasedRead) :
      c.take (after.release.markField w.oldLoc) (setupHeaderOf r).isSome r =
        .found (classify f (setupHeaderOf r).isSome false) := by
    rw [hf]
    exact take_header c f _ r h0 hr
  refine ⟨fun h0 hr => goesTo_of hs hk.arb ?_, fun h0 hr hc => goesTo_of hs hk.arb ?_,
    fun h0 hr hc => setupCompletes_of hs hk hset hq hb ?_, fun h1 h7 => goesTo_of hs hk.arb ?_,
    fun h7 => setupCompletes_of hs hk hset hq hb ?_⟩
  · rw [hx, setupRead_old_more (c' := ⟨1, f, true⟩) (by rw [hf, hr]; exact take_erasedHeader c f _ h0)]
  · rw [hx, setupRead_old_committed (by rw [hheader h0 hr, (classify_committed_iff _ _).2 hc])]
  · rw [hx, setupRead_old_other (hheader h0 hr) fun h => hc ((classify_committed_iff _ _).1 h)]
  · rw [hx, setupRead_old_more (take_next c _ _ r h1 h7)]
  · have hlast : c.take (after.release.markField w.oldLoc) (setupHeaderOf r).isSome r =
        .found (classify c.marks false (c.erased && readsErased r)) := by
      rw [Classifying.take, if_neg (by omega), if_neg (by omega)]
    rw [hx, setupRead_old_other hlast (classify_noHeader _ _)]

end

/-! ### The statement -/

/-- Settles O54, clause by clause along Figure 10-1: the classification, the erase, the programs, the verify reads, the
commit mark, the fixed mark, the supersede mark, and the classification of the old cell. -/
theorem setupSwitchInstallsRecord : Obligations.SetupSwitchInstallsRecord := by
  unfold Obligations.SetupSwitchInstallsRecord
  intro s j rest w at' content header
  refine ⟨setup_classifies s j w, fun hq hb us => ?_⟩
  exact ⟨fun hs hw => setup_erase_ends hq hb us hs hw, fun d hs => (setup_program_ends us hs).1,
    fun d hs => (setup_program_ends us hs).2, fun g hg hs hw => setup_verify_ends hq hb us hs hw,
    fun hs hw => setup_commitMark_ends hq hb us hs hw, fun hs hw => setup_fixedMark_ends us hs hw,
    fun hs hw => setup_supersede_ends hq hb us hs hw, fun c hs hw => setup_oldRead_ends hq hb us hs hw⟩

end Sys2Proof.Machine
end

section
/-! The command ports (11.1, 11.2): the queue of commands, the frames a port takes and those it does not, argument
counts, and the fetch. -/

namespace Sys2Proof.Machine

/-- Settles O1: the two cases of the queue. -/
theorem stepTakesFrontOfQueue : Obligations.StepTakesFrontOfQueue := by
  refine ⟨fun s c rest h => ?_, fun s h => ?_⟩
  · rw [step, h]
  · rw [step, h]

/-! ### Frames that are not taken (R150, R177) -/

/-- Every command of Table 11-1 is a frame that arrives at its port, whatever it does when it is taken. -/
theorem exec_arrives {c : Instr} {p : Port} {a : Bytes} (hc : commandOn c = some (p, a)) (s : State) :
    ∃ taken, exec c s = .next (s.arrive p taken) := by
  cases c <;> cases hc <;> exact ⟨_, rfl⟩

/-- A held part takes no unknown code. -/
theorem takeUnknown_held {s : State} (p : Port) (code : Byte) (hp : s.phase = .held) : s.takeUnknown p code = s := by
  rw [State.takeUnknown, arrive_held s p _ hp, ite_self]

theorem takeFetch_held {s : State} (f : Fetch) (hp : s.phase = .held) : s.takeFetch f = s :=
  if_pos hp

theorem takeBadFrame_held {s : State} (p : Port) (bytes : Bytes) (midByte : Bool) (hp : s.phase = .held) :
    s.takeBadFrame p bytes midByte = s := by
  simp [State.takeBadFrame, hp]

theorem takeIgnored_held {s : State} (p : Port) (bytes : Bytes) (hp : s.phase = .held) : s.takeIgnored p bytes = s :=
  if_neg fun h => h.1 hp

/-- Settles O5: a command arrives, and at a PENDING slot or in the hold it is not taken. -/
theorem framesThatAreNotTaken : Obligations.FramesThatAreNotTaken := by
  refine fun s => ⟨fun c p a hc hp hs => ?_, fun hp => ⟨fun c hc => ?_, fun p code a => ?_, fun f => ?_,
    fun p b m => ?_, fun p b => ?_⟩⟩
  · obtain ⟨taken, hx⟩ := exec_arrives hc s
    exact hx.trans (congrArg Host.Outcome.next (arrive_pending s p taken hp hs))
  · obtain ⟨⟨p, a⟩, hc⟩ := Option.isSome_iff_exists.1 hc
    obtain ⟨taken, hx⟩ := exec_arrives hc s
    exact hx.trans (congrArg Host.Outcome.next (arrive_held s p taken hp))
  · exact congrArg Host.Outcome.next (takeUnknown_held p code hp)
  · exact congrArg Host.Outcome.next (takeFetch_held f hp)
  · exact congrArg Host.Outcome.next (takeBadFrame_held p b m hp)
  · exact congrArg Host.Outcome.next (takeIgnored_held p b hp)

/-! ### Frames that are no command of the table, and frames that are discarded or ignored (R173, R176, R177) -/

/-- Bytes that do not start with F0H on Port M are no fetch frame. -/
theorem beginsFetch_eq_false {p : Port} {bytes : Bytes} (h : p = .m → bytes.head? ≠ some 0xF0#8) :
    beginsFetch p bytes = false := by
  cases p with
  | s => rfl
  | m =>
    cases bytes with
    | nil => rfl
    | cons b bs => exact beq_eq_false_iff_ne.2 fun hb => h rfl (congrArg some hb)

/-- A frame is discarded when it is not well formed, and on Port M when it ends in the middle of a byte. -/
theorem discardsFrame_iff (p : Port) (bytes : Bytes) (midByte : Bool) :
    discardsFrame p bytes midByte = true ↔ frameWellFormed bytes = false ∨ midByte = true ∧ p = .m := by
  simp [discardsFrame]

/-- A code outside the table arrives as a command that is answered UNKNOWN. -/
theorem takeUnknown_arrives {p : Port} {code : Byte} (hcode : commandCodes.contains code = false)
    (hfetch : p = .m → code ≠ 0xF0#8) (s : State) : s.takeUnknown p code = s.arrive p (s.refuse p .unknown) := by
  have hf : beginsFetch p [code] = false := beginsFetch_eq_false fun hp h => hfetch hp (Option.some.inj h)
  rw [State.takeUnknown, hcode, hf]
  rfl

/-- A discarded frame sets FRAME_ERROR. -/
theorem takeBadFrame_discards {s : State} {p : Port} {bytes : Bytes} {midByte : Bool} (hp : s.phase ≠ .held)
    (hne : bytes ≠ []) (hfetch : beginsFetch p bytes = false) (hd : discardsFrame p bytes midByte = true) :
    s.takeBadFrame p bytes midByte = s.setFlag p .frameError := by
  simp [State.takeBadFrame, hp, hne, hfetch, hd]

/-- Settles O8: by the kind of the frame. -/
theorem unknownAndDiscardedFrames : Obligations.UnknownAndDiscardedFrames := by
  refine fun s p hp => ⟨fun code a hcode hfetch => ⟨fun hs => ?_, fun hs => ?_⟩,
    fun bytes midByte hne hfetch hbad => ?_, fun bytes hwell hfetch hs => ?_⟩
  · exact congrArg Host.Outcome.next ((takeUnknown_arrives hcode hfetch s).trans (arrive_taken s p _ hp hs))
  · exact congrArg Host.Outcome.next ((takeUnknown_arrives hcode hfetch s).trans (arrive_pending s p _ hp hs))
  · exact congrArg Host.Outcome.next
      (takeBadFrame_discards hp hne (beginsFetch_eq_false hfetch) ((discardsFrame_iff p bytes midByte).2 hbad))
  · exact congrArg Host.Outcome.next (if_pos ⟨hp, hs, hwell, beginsFetch_eq_false hfetch⟩)

/-! ### Argument counts that a command does not accept (R173, R183) -/

theorem noArgs_eq_none {a : Bytes} (h : a.length ≠ 0) : noArgs a = none := by
  unfold noArgs
  split
  · exact absurd rfl h
  · rfl

theorem byteArg_eq_none {a : Bytes} (h : a.length ≠ 1) : byteArg a = none := by
  unfold byteArg
  split
  · exact absurd rfl h
  · rfl

theorem maskArgs_eq_none {a : Bytes} (h : a.length ≠ 2) : maskArgs a = none := by
  unfold maskArgs
  split
  · exact absurd rfl h
  · rfl

theorem listArgs_eq_none {a : Bytes} (h : a.length ≠ 3) : listArgs a = none := by
  unfold listArgs
  split
  · exact absurd rfl h
  · rfl

theorem keyArg_eq_none {a : Bytes} (h : a.length ≠ 4) : keyArg a = none := by
  unfold keyArg
  split
  · exact absurd rfl h
  · rfl

theorem readArgs_eq_none {a : Bytes} (h : a.length ≠ 6) : readArgs a = none := by
  unfold readArgs
  split
  · exact absurd rfl h
  · rfl

theorem retireArgs_eq_none {a : Bytes} (h : a.length ≠ 6) : retireArgs a = none := by
  unfold retireArgs
  split
  · exact absurd rfl h
  · rfl

theorem commitArgs_eq_none {a : Bytes} (h : a.length ≠ 10) : commitArgs a = none := by
  unfold commitArgs
  split
  · exact absurd rfl h
  · rfl

theorem setupArgs_eq_none {a : Bytes} (h : a.length ≠ 26) : setupArgs a = none :=
  if_neg h

/-- A STAGE whose count byte disagrees with its data bytes, or counts none or more than 224, has no arguments. -/
theorem stageArgs_eq_none {a : Bytes} (h : ¬(4 ≤ a.length ∧ a.length ≤ 227 ∧ a.length = 3 + (a.getD 2 0).toNat)) :
    stageArgs a = none := by
  unfold stageArgs
  split
  · next b o n data =>
    simp only [List.length_cons, List.getD_cons_succ, List.getD_cons_zero] at h
    exact if_neg (by omega)
  · rfl

/-- A PATCH whose count byte disagrees with its data bytes, or counts none or more than 224, has no arguments. -/
theorem patchArgs_eq_none {a : Bytes} (h : ¬(9 ≤ a.length ∧ a.length ≤ 232 ∧ a.length = 8 + (a.getD 5 0).toNat)) :
    patchArgs a = none := by
  unfold patchArgs
  split
  · next data =>
    simp only [List.length_cons, List.getD_cons_succ, List.getD_cons_zero] at h
    exact if_neg (by omega)
  · rfl

/-- A command without arguments it accepts arrives to be answered BAD_ARG, whatever it would do. -/
theorem command_of_noArguments {α : Type} {s : State} {p : Port} {args : Option α} (act : α → State)
    (ha : args = none) :
    (.next (s.command p args act) : Host.Outcome State Fault Refusal) = .next (s.arrive p (s.refuse p .badArg)) := by
  rw [ha]
  rfl

/-- A command sent with an argument count that is not listed for it arrives to be answered BAD_ARG. -/
theorem exec_unlisted {c : Instr} {p : Port} {a : Bytes} (hc : commandOn c = some (p, a))
    (hcount : countListed c = false) (s : State) : exec c s = .next (s.arrive p (s.refuse p .badArg)) := by
  cases c
  case find | hold | renew | release | fix =>
    cases hc
    exact command_of_noArguments _ (keyArg_eq_none (beq_eq_false_iff_ne.1 hcount))
  case list =>
    cases hc
    exact command_of_noArguments _ (listArgs_eq_none (beq_eq_false_iff_ne.1 hcount))
  case read =>
    cases hc
    exact command_of_noArguments _ (readArgs_eq_none (beq_eq_false_iff_ne.1 hcount))
  case retire =>
    cases hc
    exact command_of_noArguments _ (retireArgs_eq_none (beq_eq_false_iff_ne.1 hcount))
  case commit =>
    cases hc
    exact command_of_noArguments _ (commitArgs_eq_none (beq_eq_false_iff_ne.1 hcount))
  case stage =>
    cases hc
    exact command_of_noArguments _ (stageArgs_eq_none (of_decide_eq_false hcount))
  case patch =>
    cases hc
    exact command_of_noArguments _ (patchArgs_eq_none (of_decide_eq_false hcount))
  case discard | census | ack | eventMask =>
    cases hc
    exact command_of_noArguments _ (byteArg_eq_none (beq_eq_false_iff_ne.1 hcount))
  case inhibit =>
    cases hc
    exact command_of_noArguments _ (maskArgs_eq_none (beq_eq_false_iff_ne.1 hcount))
  case setupWrite =>
    cases hc
    exact command_of_noArguments _ (setupArgs_eq_none (beq_eq_false_iff_ne.1 hcount))
  case result | capture | captureClear | refreshList | censusResult | censusCancel | setupRead | restart =>
    cases hc
    exact command_of_noArguments _ (noArgs_eq_none (beq_eq_false_iff_ne.1 hcount))
  case status =>
    cases hc
    refine congrArg Host.Outcome.next ?_
    rw [State.takeStatus, noArgs_eq_none (beq_eq_false_iff_ne.1 hcount)]
  all_goals cases hc

/-- Settles O6: where the port takes frames, what arrives is taken. -/
theorem unlistedCountIsBadArg : Obligations.UnlistedCountIsBadArg :=
  fun _ p _ s hc hcount hp hs =>
    (exec_unlisted hc hcount s).trans (congrArg Host.Outcome.next (arrive_taken s p _ hp hs))

/-! ### The fetch (R174, R175, R177) -/

/-- Two changes of a port that agree on what it holds. -/
theorem modPort_congr {s : State} {p : Port} {f g : PortState → PortState} (h : f (s.port p) = g (s.port p)) :
    s.modPort p f = s.modPort p g := by
  cases p <;> simp_all [State.modPort, State.port]

/-- A transaction one byte past the check byte drives the response, the check byte and FFH. -/
theorem driven_past_check (response : Bytes) (check : Byte) :
    driven response check (response.length + 2) = response ++ [check, 0xFF#8] := by
  have hwhole : response.take (response.length + 2) = response := List.take_of_length_le (by omega)
  have hrest : (check :: List.replicate (response.length + 2) 0xFF#8).take 2 = [check, 0xFF#8] := rfl
  rw [driven, List.take_append, hwhole, Nat.add_sub_cancel_left, hrest]

/-- A fetch of a READY slot sends the response and empties the slot when it is confirmed. -/
theorem takeFetch_ready {s : State} {f : Fetch} {st : Status} {d : Bytes} (hp : s.phase ≠ .held)
    (hs : (s.port f.port).slot = .ready st d) :
    s.takeFetch f = s.modPort f.port (fun ps =>
      { ps with
        sent := fetched f (Slot.ready st d).responseBytes
        slot := if confirmed f (Slot.ready st d).responseBytes = true then .empty else .ready st d }) := by
  rw [State.takeFetch, if_neg hp]
  exact modPort_congr (by simp only [hs])

/-- A fetch of a slot without a response changes what was sent, and nothing else. -/
theorem takeFetch_noResponse {s : State} {f : Fetch} (hp : s.phase ≠ .held)
    (hs : (s.port f.port).slot = .empty ∨ (s.port f.port).slot = .pending) :
    s.takeFetch f =
      s.modPort f.port (fun ps => { ps with sent := fetched f (s.port f.port).slot.responseBytes }) := by
  rw [State.takeFetch, if_neg hp]
  refine modPort_congr ?_
  rcases hs with hs | hs <;> simp only [hs]

/-- Settles O9: on each port the fetch of a READY slot, and the fetch of a slot without a response. -/
theorem fetchCollectsResponse : Obligations.FetchCollectsResponse := by
  refine fun s hp => ⟨fun sent st d hs hlen => ?_, fun acked st d hs => ?_, fun f hs => ?_⟩
  · intro body check
    have hsent : fetched (.onM sent) body = 0xFF#8 :: (body ++ [check, 0xFF#8]) := by
      rw [fetched, hlen]
      exact congrArg _ (driven_past_check body check)
    have hconfirmed : confirmed (.onM sent) body = true ↔ sent[d.length + 3]? = some check := beq_iff_eq
    refine congrArg Host.Outcome.next ((takeFetch_ready (f := .onM sent) hp hs).trans (modPort_congr ?_))
    simp only [show (Slot.ready st d).responseBytes = body from rfl, hsent, hconfirmed]
  · intro body
    have hsent : fetched (.onS (d.length + 4) acked) body = body ++ [crc8 body, 0xFF#8] :=
      driven_past_check body (crc8 body)
    have hconfirmed : confirmed (.onS (d.length + 4) acked) body = acked := by
      simp [confirmed, body]
    refine congrArg Host.Outcome.next
      ((takeFetch_ready (f := .onS (d.length + 4) acked) hp hs).trans (modPort_congr ?_))
    simp only [show (Slot.ready st d).responseBytes = body from rfl, hsent, hconfirmed]
  · refine ⟨_, rfl, ?_⟩
    rw [takeFetch_noResponse hp hs, port_modPort_same]

end Sys2Proof.Machine
end

section
/-! Event flags, the queries, and the check values (11.1, 11.3, 11.4): what ACK and EVENT_MASK change, when the
attention line is low, and the commands that answer a record as it stands. -/

namespace Sys2Proof.Machine

/-! ### ACK and EVENT_MASK (R131, R179, R180) -/

/-- The state an ACK leaves before it answers: the flags named are cleared, and with bit 1 the port's LAPSED slots. -/
def State.acked (s : State) (p : Port) (mask : Byte) : State :=
  if mask.getLsbD 1 then (s.clearFlags p mask).emptyLapsed p else s.clearFlags p mask

theorem exec_ack {s : State} {p : Port} (mask : Byte) (h : s.takes p) :
    exec (.ack p [mask]) s =
      .next ((s.acked p mask).answer p .ok [((s.acked p mask).port p).eventByte]) :=
  congrArg Host.Outcome.next (command_takes s p mask _ h)

theorem exec_eventMask {s : State} {p : Port} (mask : Byte) (h : s.takes p) :
    exec (.eventMask p [mask]) s =
      .next (s.modPort p (fun ps => { ps with mask := mask, slot := .ready .ok [mask] })) :=
  congrArg Host.Outcome.next <|
    (command_takes s p mask _ h).trans (modPort_modPort s p _ fun ps => { ps with slot := .ready .ok [mask] })

/-- An ACK touches the flags of its port and the hold slots alone. -/
theorem acked_eq (s : State) (p : Port) (mask : Byte) :
    s.acked p mask =
      { s.modPort p (fun ps => { ps with flags := ps.flags &&& ~~~mask }) with holds := (s.acked p mask).holds } := by
  unfold State.acked
  split <;> rfl

/-- Emptying the LAPSED slots of a port reaches that port's slots alone. -/
theorem emptyLapsed_hold (s : State) (p : Port) (i : Fin 8) :
    (s.emptyLapsed p).holds[i] = if slotPort i = p then (s.holds[i]).emptyLapsed else s.holds[i] := by
  have hmine : ((slotsOf p).any fun j => j.val == i.val) = true ↔ slotPort i = p := by
    simp [← mem_slotsOf, ← Fin.ext_iff]
  simp only [State.emptyLapsed, Fin.getElem_fin, Vector.getElem_mapFinIdx, hmine]

/-- A slot that is not LAPSED stays. -/
theorem emptyLapsed_of_not_lapsed {h : HoldSlot} (hn : ∀ q e k, h ≠ .lapsed q e k) : h.emptyLapsed = h := by
  cases h with
  | lapsed q e k => exact absurd rfl (hn q e k)
  | empty | active => rfl

/-- An ACK that names HOLD_LAPSED empties the port's LAPSED slots. -/
theorem acked_hold_lapsed {s : State} {p : Port} {mask : Byte} {i : Fin 8} {q : Port} {e : Nat} {k : Key}
    (hmask : mask.getLsbD 1 = true) (hi : slotPort i = p) (hl : s.holds[i] = .lapsed q e k) :
    (s.acked p mask).holds[i] = .empty := by
  rw [State.acked, if_pos hmask, emptyLapsed_hold, if_pos hi]
  exact congrArg HoldSlot.emptyLapsed hl

/-- An ACK leaves every other slot. -/
theorem acked_hold_other {s : State} {p : Port} {mask : Byte} {i : Fin 8}
    (h : mask.getLsbD 1 = false ∨ slotPort i ≠ p ∨ ∀ q e k, s.holds[i] ≠ .lapsed q e k) :
    (s.acked p mask).holds[i] = s.holds[i] := by
  cases hmask : mask.getLsbD 1 with
  | false =>
    rw [State.acked, if_neg (hmask ▸ Bool.false_ne_true)]
    rfl
  | true =>
    rw [State.acked, if_pos hmask, emptyLapsed_hold]
    rcases h with h | h | h
    · exact absurd (hmask.symm.trans h) (by decide)
    · exact if_neg h
    · split
      · exact emptyLapsed_of_not_lapsed h
      · rfl

/-- What a taken ACK does, slot by slot. -/
theorem ack_acts {s : State} {p : Port} (mask : Byte) (h : s.takes p) :
    ∃ t, exec (.ack p [mask]) s = .next t ∧ (t.port p).flags = (s.port p).flags &&& ~~~mask ∧
      (t.port p).slot = .ready .ok [(t.port p).eventByte] ∧
      (∀ (i : Fin 8) q e k, mask.getLsbD 1 = true → slotPort i = p → s.holds[i] = .lapsed q e k →
        t.holds[i] = .empty) ∧
      (∀ i : Fin 8, (mask.getLsbD 1 = false ∨ slotPort i ≠ p ∨ ∀ q e k, s.holds[i] ≠ .lapsed q e k) →
        t.holds[i] = s.holds[i]) ∧
      t = { s.modPort p (fun ps => { ps with flags := (t.port p).flags, slot := (t.port p).slot }) with
        holds := t.holds } := by
  refine ⟨_, exec_ack mask h, ?_, ?_, fun i q e k hm hi hl => acked_hold_lapsed hm hi hl,
    fun i hi => acked_hold_other hi, ?_⟩
  · rw [acked_eq]
    cases p <;> rfl
  · cases p <;> rfl
  · rw [acked_eq]
    cases p <;> rfl

/-! ### The attention line (R178, R181) -/

/-- The bits of the event byte: the flags, and bit 0 while a result waits. -/
theorem getLsbD_eventByte (ps : PortState) (b : Nat) :
    ps.eventByte.getLsbD b = true ↔ ps.flags.getLsbD b = true ∨ b = 0 ∧ ps.results ≠ [] := by
  unfold PortState.eventByte
  cases hr : ps.results <;> simp

/-- Two bytes have a common bit when their conjunction is not 0. -/
theorem and_ne_zero_iff (x y : Byte) : x &&& y ≠ 0 ↔ ∃ b, b < 8 ∧ x.getLsbD b = true ∧ y.getLsbD b = true := by
  have hzero : ∀ b, (0 : Byte).getLsbD b = false := fun _ => BitVec.getLsbD_zero
  constructor
  · intro h
    refine Decidable.byContradiction fun hnone => h (BitVec.eq_of_getLsbD_eq fun b hb => ?_)
    rw [BitVec.getLsbD_and, hzero, Bool.and_eq_false_imp]
    exact fun hx => Bool.eq_false_iff.2 fun hy => hnone ⟨b, hb, hx, hy⟩
  · rintro ⟨b, -, hx, hy⟩ h
    have hbit : (x &&& y).getLsbD b = true := by rw [BitVec.getLsbD_and, hx, hy, Bool.and_self]
    rw [h, hzero] at hbit
    exact Bool.false_ne_true hbit

/-- The attention line is low outside the hold when an event whose bit is set is enabled. -/
theorem attnLow_iff (s : State) (p : Port) : s.attnLow p = true ↔
    s.phase ≠ .held ∧ ((∃ b, b < 8 ∧ (s.port p).flags.getLsbD b = true ∧ (s.port p).mask.getLsbD b = true) ∨
      (s.port p).results ≠ [] ∧ (s.port p).mask.getLsbD 0 = true) := by
  have hbits : (s.port p).eventByte &&& (s.port p).mask ≠ 0 ↔
      (∃ b, b < 8 ∧ (s.port p).flags.getLsbD b = true ∧ (s.port p).mask.getLsbD b = true) ∨
        (s.port p).results ≠ [] ∧ (s.port p).mask.getLsbD 0 = true := by
    simp only [and_ne_zero_iff, getLsbD_eventByte]
    constructor
    · rintro ⟨b, hb, hf | ⟨rfl, hr⟩, hm⟩
      · exact Or.inl ⟨b, hb, hf, hm⟩
      · exact Or.inr ⟨hr, hm⟩
    · rintro (⟨b, hb, hf, hm⟩ | ⟨hr, hm⟩)
      · exact ⟨b, hb, Or.inl hf, hm⟩
      · exact ⟨0, by decide, Or.inr ⟨rfl, hr⟩, hm⟩
  simp only [State.attnLow, Bool.and_eq_true, bne_iff_ne, hbits]

/-- Settles O10: ACK, EVENT_MASK and the attention line. -/
theorem ackAndEventMaskAct : Obligations.AckAndEventMaskAct :=
  ⟨fun _ _ mask h => ⟨ack_acts mask h, exec_eventMask mask h⟩, attnLow_iff⟩

/-! ### The queries (R112, R120, R149, R167, R182) -/

/-- Settles O11: STATUS is taken wherever the port takes frames, the others where it takes commands. -/
theorem queriesAnswerTheirRecord : Obligations.QueriesAnswerTheirRecord := by
  refine fun s p => ⟨fun hp hs => ?_, fun h => ⟨?_, ?_, ?_, ?_⟩⟩
  · exact congrArg Host.Outcome.next (arrive_taken s p (s.answer p .ok (s.statusBytes p)) hp hs)
  · exact congrArg Host.Outcome.next (command_takes s p () (fun _ => s.answer p .ok s.capture.bytes) h)
  · exact congrArg Host.Outcome.next (command_takes s p () (fun _ => s.answer p .ok s.refreshBytes) h)
  · exact congrArg Host.Outcome.next (command_takes s p () (fun _ => s.answer p .ok (censusBytes s.census)) h)
  · exact congrArg Host.Outcome.next (command_takes s p () (fun _ => s.answer p .ok s.setup.bytes) h)

/-! ### Check values (R54, R66, R145, R173) -/

/-- Settles O55: the two registers run over the nine bytes, and the cycles at their ends. -/
theorem checkValuesAndCycles : Obligations.CheckValuesAndCycles := by
  unfold Obligations.CheckValuesAndCycles
  intro nine
  refine ⟨?_, ?_, by decide, by decide, by decide, by decide, by decide⟩
  · simp [nine, crc8, crc8Byte, crc8Shift, BitVec.msb]
  · simp [nine, crc32Bytes, crc32Byte, crc32Shift]

end Sys2Proof.Machine
end

section
/-! The queue of waiting commands: every command answers a next state, and none changes the queue. It is the model's
own, so no operation writes it; what the laws of frames say of each operation is carried through each command here. -/

namespace Sys2Proof.Machine

/-- The queue of waiting commands is the same. -/
abbrev KeepsPending (s t : State) : Prop := t.pending = s.pending

/-- No command stops the machine. -/
theorem exec_next (c : Instr) (s : State) : ∃ t, exec c s = .next t := by
  cases c <;> exact ⟨_, rfl⟩

/-! ### What the commands of the ports keep -/

theorem keepsPending_of_same {s t : State} (h : Same s t) : KeepsPending s t := h.2.2

/-- What kept the queue is followed by an operation that leaves it alone. -/
theorem KeepsPending.andThen {s t u : State} (h : KeepsPending s t) (h' : Same t u) : KeepsPending s u :=
  (keepsPending_of_same h').trans h

theorem keepsPending_of_arrayOnly {s t : State} (h : ArrayOnly s t) : KeepsPending s t := by
  obtain ⟨g, m, f, rfl⟩ := h
  rfl

theorem keepsPending_ite {s t u : State} {c : Prop} [Decidable c] (ht : KeepsPending s t) (hu : KeepsPending s u) :
    KeepsPending s (if c then t else u) := by
  split
  · exact ht
  · exact hu

/-- A frame keeps the queue when the command it carries does. -/
theorem keepsPending_arrive (s : State) (p : Port) {t : State} (h : KeepsPending s t) :
    KeepsPending s (s.arrive p t) :=
  keepsPending_ite rfl (keepsPending_ite rfl h)

/-- A command keeps the queue when its action does. -/
theorem keepsPending_command {α : Type} (s : State) (p : Port) (args : Option α) {act : α → State}
    (h : ∀ a, KeepsPending s (act a)) : KeepsPending s (s.command p args act) := by
  refine keepsPending_arrive s p ?_
  split
  · rfl
  · exact keepsPending_ite rfl (h _)

theorem keepsPending_unless (s : State) (p : Port) (f : Option Status) {t : State} (h : KeepsPending s t) :
    KeepsPending s (s.unless p f t) := by
  unfold State.unless
  split
  · rfl
  · exact h

theorem keepsPending_takeRead (s : State) (p : Port) (args : Bytes) : KeepsPending s (s.takeRead p args) := by
  refine keepsPending_command s p _ fun a => ?_
  repeat' split
  · exact keepsPending_of_same (same_claimRead _ p _)
  · rfl
  · rfl

theorem keepsPending_takeEntryJob (s : State) (p : Port) (i : Nat) (permitted : ClassPolicy → Bool) (b : JobBody) :
    KeepsPending s (s.takeEntryJob p i permitted b) :=
  keepsPending_unless s p _ rfl

theorem keepsPending_takeCommit (s : State) (p : Port) (args : Bytes) : KeepsPending s (s.takeCommit p args) := by
  refine keepsPending_command s p _ fun a => ?_
  split
  · rfl
  · refine keepsPending_unless s p _ ?_
    split
    · rfl
    · exact keepsPending_unless s p _ (keepsPending_of_same (same_acceptCommit s p _ a _))

theorem keepsPending_takePatch (s : State) (p : Port) (args : Bytes) : KeepsPending s (s.takePatch p args) := by
  refine keepsPending_command s p _ fun a => keepsPending_unless s p _ ?_
  repeat' split
  · rfl
  · rfl
  · exact keepsPending_takeEntryJob _ _ _ _ _

theorem keepsPending_takeRetire (s : State) (p : Port) (args : Bytes) : KeepsPending s (s.takeRetire p args) := by
  refine keepsPending_command s p _ fun a => ?_
  repeat' split
  · rfl
  · exact keepsPending_takeEntryJob _ _ _ _ _
  · rfl

theorem keepsPending_takeFix (s : State) (p : Port) (args : Bytes) : KeepsPending s (s.takeFix p args) := by
  refine keepsPending_command s p _ fun k => ?_
  repeat' split
  · rfl
  · exact keepsPending_takeEntryJob _ _ _ _ _
  · rfl

theorem keepsPending_takeCensus (s : State) (p : Port) (args : Bytes) : KeepsPending s (s.takeCensus p args) := by
  refine keepsPending_command s p _ fun b => ?_
  repeat' split
  · rfl
  · rfl
  · exact (keepsPending_of_same (same_grant _)).trans (keepsPending_of_same (same_takeUp _ _))

/-! ### What the resets keep -/

theorem keepsPending_abandon (s : State) (r : Residue) : KeepsPending s (s.abandon r) :=
  keepsPending_of_arrayOnly (arrayOnly_abandon s r)

theorem keepsPending_takeRestart (s : State) (p : Port) (args : Bytes) (r : Residue) :
    KeepsPending s (s.takeRestart p args r) := by
  refine keepsPending_command s p _ fun _ => ?_
  cases p with
  | s => rfl
  | m => exact keepsPending_ite rfl (keepsPending_abandon s r)

/-! ### What the ends of array steps keep -/

theorem keepsPending_reportReads (s : State) (g : ReadGrant) (rs : List (Nat × Outcome × Data)) :
    KeepsPending s (s.reportReads g rs) := by
  unfold State.reportReads
  induction rs generalizing s with
  | nil => rfl
  | cons x rs ih => exact (ih _).trans (keepsPending_of_same (same_report s _))

theorem keepsPending_endRead (s : State) (us : List Upset) : KeepsPending s (s.endRead us) := by
  unfold State.endRead
  split
  · next g _ =>
    have hreports := keepsPending_reportReads (s.upsets g.loc us) g ((s.upsets g.loc us).grantReads g)
    exact (keepsPending_of_same (same_grant _)).trans (hreports.trans (pending_upsets s g.loc us))
  · rfl

theorem censusReported_pending (s : State) (l : Loc) (g e : Nat) : (s.censusReported l g e).pending = s.pending :=
  keepsPending_of_same (same_report s ⟨(s.readGranule l g).1, l, g, some e, .census⟩)

theorem keepsPending_endCensusRead (s : State) (us : List Upset) : KeepsPending s (s.endCensusRead us) := by
  unfold State.endCensusRead
  split
  · next l g e counts _ =>
    have hread : KeepsPending s (s.upsets l us) := pending_upsets s l us
    have hreported : KeepsPending s ((s.upsets l us).censusReported l g e) :=
      (censusReported_pending _ l g e).trans hread
    refine KeepsPending.andThen ?_ (same_grantAfterCensus _)
    split
    · exact hreported.andThen (same_censusRead _ _ _)
    · exact hreported
  · rfl

theorem keepsPending_endEngineRead (s : State) (us : List Upset) : KeepsPending s (s.endEngineRead us) := by
  unfold State.endEngineRead
  split
  · next l g e _ =>
    have hread : KeepsPending s (s.upsets l us) := pending_upsets s l us
    have hended : KeepsPending s (s.readEnded l g e us).release :=
      (release_pending _).trans (hread.andThen (same_report _ _))
    exact (hended.andThen (same_afterRead _ _)).andThen (same_stepBoundary _)
  · rfl

theorem keepsPending_endProgram (s : State) (us : List Upset) : KeepsPending s (s.endProgram us) := by
  unfold State.endProgram
  split
  · next l g d _ =>
    have hended : KeepsPending s (s.programEnded l g d us).release :=
      (release_pending _).trans (keepsPending_of_arrayOnly (programEnded_touches s l g d us))
    exact (hended.andThen (same_afterProgram _)).andThen (same_stepBoundary _)
  · rfl

theorem keepsPending_endMark (s : State) (us : List Upset) : KeepsPending s (s.endMark us) := by
  unfold State.endMark
  split
  · next l marks _ =>
    have hended : KeepsPending s (s.markEnded l marks us).release :=
      (release_pending _).trans (keepsPending_of_arrayOnly (arrayOnly_markEnded s l marks us))
    exact (hended.andThen (same_afterMark _ _)).andThen (same_stepBoundary _)
  · rfl

theorem keepsPending_endErase (s : State) (us : List Upset) : KeepsPending s (s.endErase us) := by
  unfold State.endErase
  split
  · next l _ =>
    have hended : KeepsPending s (s.eraseEnded l us).release :=
      (release_pending _).trans (keepsPending_of_arrayOnly (arrayOnly_eraseEnded s l us))
    exact (hended.andThen (same_afterErase _ _)).andThen (same_stepBoundary _)
  · rfl

/-! ### What the engine's starts, the scan and the leases keep -/

theorem keepsPending_jobStarts (s : State) : KeepsPending s s.jobStarts := by
  unfold State.jobStarts
  split
  · exact (keepsPending_of_same (same_startJob s _)).andThen (same_grant _)
  · rfl

theorem keepsPending_refreshStarts (s : State) : KeepsPending s s.refreshStarts := by
  unfold State.refreshStarts
  split
  · exact (keepsPending_of_same (same_startRefresh s _)).andThen (same_grant _)
  · rfl

theorem keepsPending_recoveryStarts (s : State) : KeepsPending s s.recoveryStarts := by
  unfold State.recoveryStarts
  split
  · exact (keepsPending_of_same (same_startItem s _)).andThen (same_grant _)
  · rfl

theorem keepsPending_scanRead (s : State) (us : List Upset) : KeepsPending s (s.scanRead us) := by
  unfold State.scanRead
  split
  · rfl
  · next l g e _ =>
    have hread : KeepsPending s (s.upsets l us) := pending_upsets s l us
    exact (hread.andThen (same_report _ _)).andThen (same_scanAdvance _ _)

theorem keepsPending_endScan (s : State) : KeepsPending s s.endScan :=
  keepsPending_ite ((keepsPending_of_same (same_scanRest _ s)).andThen (same_enterReady _)) rfl

theorem keepsPending_expire (s : State) (slot : Fin 8) : KeepsPending s (s.expire slot) := by
  unfold State.expire
  split
  · exact keepsPending_ite rfl rfl
  · rfl

theorem keepsPending_endInterval (s : State) : KeepsPending s s.endInterval := by
  have hall : ∀ (slots : List (Fin 8)) (s : State), KeepsPending s (slots.foldl State.expire s) := by
    intro slots
    induction slots with
    | nil => exact fun _ => rfl
    | cons slot slots ih => exact fun s => (ih _).trans (keepsPending_expire s slot)
  exact keepsPending_ite (hall allSlots { s with holds := s.holds.map HoldSlot.lower }) rfl

theorem keepsPending_holdLapses (s : State) (slot : Nat) : KeepsPending s (s.holdLapses slot) := by
  unfold State.holdLapses
  split
  · exact keepsPending_ite (keepsPending_expire s _) rfl
  · rfl

/-- HOLD on an entry writes a hold slot and a response slot. -/
theorem keepsPending_holdEntry (s : State) (p : Port) (i : Nat) (k : Key) :
    KeepsPending s (s.holdEntry p i k) := by
  unfold State.holdEntry
  repeat' split
  all_goals rfl

/-! ### Every command -/

/-- No command changes the queue: a split over the commands. Those at the end write parts of the state one by one, and
the queue is none of them. -/
theorem exec_keepsPending {c : Instr} {s t : State} (h : exec c s = .next t) : KeepsPending s t := by
  cases c <;> cases h
  case read p a => exact keepsPending_takeRead s p a
  case readComplete us => exact keepsPending_endRead s us
  case commit p a => exact keepsPending_takeCommit s p a
  case patch p a => exact keepsPending_takePatch s p a
  case retire p a => exact keepsPending_takeRetire s p a
  case fix p a => exact keepsPending_takeFix s p a
  case census p a => exact keepsPending_takeCensus s p a
  case restart p a r => exact keepsPending_takeRestart s p a r
  case powerOn r => exact keepsPending_abandon s r
  case resetN r => exact keepsPending_abandon s r
  case resetHoldEnd => exact keepsPending_ite rfl rfl
  case scanEnd => exact keepsPending_endScan s
  case scanGranuleReadEnd us => exact keepsPending_ite (keepsPending_scanRead s us) rfl
  case jobStart => exact keepsPending_jobStarts s
  case refreshStart => exact keepsPending_refreshStarts s
  case recoveryStart => exact keepsPending_recoveryStarts s
  case engineReadEnd us => exact keepsPending_endEngineRead s us
  case granuleProgramEnd us => exact keepsPending_endProgram s us
  case markProgramEnd us => exact keepsPending_endMark s us
  case cellEraseEnd us => exact keepsPending_endErase s us
  case censusReadEnd us => exact keepsPending_endCensusRead s us
  case leaseInterval => exact keepsPending_endInterval s
  case holdLapsed i => exact keepsPending_holdLapses s i
  case fetch | badFrame | ignoredFrame => exact keepsPending_ite rfl rfl
  case unknownCommand p code a => exact keepsPending_ite rfl (keepsPending_arrive s p rfl)
  case status p a =>
    refine keepsPending_arrive s p ?_
    split <;> rfl
  case stage p a =>
    refine keepsPending_command s p _ fun x => ?_
    split
    · rfl
    · exact keepsPending_unless s p _ rfl
  case setupWrite p a => exact keepsPending_command s p _ fun x => keepsPending_unless s p _ rfl
  case hold p a =>
    refine keepsPending_command s p _ fun k => ?_
    repeat' split
    · rfl
    · exact keepsPending_holdEntry s p _ k
    · rfl
  case ack p a => exact keepsPending_command s p _ fun m => keepsPending_ite (c := m.getLsbD 1 = true) rfl rfl
  case censusCancel p a =>
    refine keepsPending_command s p _ fun _ => ?_
    split <;> rfl
  case capture | captureClear | refreshList | censusResult | setupRead | eventMask =>
    exact keepsPending_command s _ _ fun _ => rfl
  case find | list | discard | result | renew | release | inhibit =>
    refine keepsPending_command s _ _ fun _ => ?_
    repeat' split
    all_goals rfl

/-- Settles O2: the next state of the command, and the split over the commands. -/
theorem commandsAnswerNextAndKeepQueue : Obligations.CommandsAnswerNextAndKeepQueue := by
  intro c s
  obtain ⟨t, h⟩ := exec_next c s
  exact ⟨t, h, exec_keepsPending h⟩

end Sys2Proof.Machine
end

section
/-! What the frames at the ports leave alone (2.2, 3.2.2, 11.2): every command of Table 11-1 but RESTART, every unknown
code, every fetch and every frame that is not taken. None of them writes the array or the engine's work, and none takes
the running job from the head of the queue. -/

namespace Sys2Proof.Machine

/-- What a frame at a port leaves: the array, the engine's work, and the running job at the head of the queue. -/
structure FrameKeeps (s t : State) : Prop where
  granules : t.granules = s.granules
  marks : t.marks = s.marks
  work : t.work = s.work
  head : ∀ j, s.work.job? = some j → s.queue.head? = some j → t.queue.head? = some j

theorem FrameKeeps.refl (s : State) : FrameKeeps s s := ⟨rfl, rfl, rfl, fun _ _ h => h⟩

/-- An operation that writes neither the array nor the work nor the queue may follow. -/
theorem FrameKeeps.andThen {s t u : State} (h : FrameKeeps s t) (hs : Same t u)
    (hu : u.work = t.work ∧ u.queue = t.queue) : FrameKeeps s u := by
  obtain ⟨hgranules, hmarks, -⟩ := hs
  obtain ⟨hwork, hqueue⟩ := hu
  exact ⟨hgranules.trans h.granules, hmarks.trans h.marks, hwork.trans h.work,
    fun j hj hh => hqueue ▸ h.head j hj hh⟩

/-! ### The arbiter -/

/-- The arbiter's grants leave the work and the queue. -/
theorem work_queue_of_arbiterOnly {s t : State} (h : ArbiterOnly s t) : t.work = s.work ∧ t.queue = s.queue := by
  obtain ⟨hf, hw⟩ := lawFrame_of_arbiterOnly h
  exact ⟨hw, hf.queue⟩

theorem arbiterOnly_claimRead (s : State) (p : Port) (c : ReadClaim) : ArbiterOnly s (s.claimRead p c) :=
  ((arbiterOnly_arb s _).trans (arbiterOnly_suspendFor _)).trans (arbiterOnly_grants _ _ _)

theorem arbiterOnly_takeUp (s : State) (c : CensusRun) : ArbiterOnly s (s.takeUp c) := by
  obtain ⟨a, cn, pm, ps, h⟩ := takeUp_touches s c
  exact ⟨a, cn, pm, ps, s.free, by rw [h]⟩

/-! ### Taking a frame -/

theorem frameKeeps_ite {s t u : State} {c : Prop} [Decidable c] (ht : FrameKeeps s t) (hu : FrameKeeps s u) :
    FrameKeeps s (if c then t else u) := by
  split
  · exact ht
  · exact hu

/-- A write of one port leaves all of it. -/
theorem frameKeeps_modPort (s : State) (p : Port) (f : PortState → PortState) : FrameKeeps s (s.modPort p f) :=
  ⟨rfl, rfl, rfl, fun _ _ h => h⟩

theorem frameKeeps_refuse (s : State) (p : Port) (st : Status) : FrameKeeps s (s.refuse p st) :=
  ⟨rfl, rfl, rfl, fun _ _ h => h⟩

theorem frameKeeps_arrive (s : State) (p : Port) {t : State} (h : FrameKeeps s t) : FrameKeeps s (s.arrive p t) :=
  frameKeeps_ite (FrameKeeps.refl s) (frameKeeps_ite (frameKeeps_modPort s p _) h)

theorem frameKeeps_command {α : Type} (s : State) (p : Port) (args : Option α) {act : α → State}
    (h : ∀ a, FrameKeeps s (act a)) : FrameKeeps s (s.command p args act) := by
  refine frameKeeps_arrive s p ?_
  split
  · exact frameKeeps_refuse s p _
  · exact frameKeeps_ite (frameKeeps_refuse s p _) (h _)

theorem frameKeeps_unless (s : State) (p : Port) (failed : Option Status) {t : State} (h : FrameKeeps s t) :
    FrameKeeps s (s.unless p failed t) := by
  cases failed with
  | some st => exact frameKeeps_refuse s p _
  | none => exact h

/-! ### The acceptance of a job (R55, R59) -/

/-- A job that joins the tail of the queue leaves the running one at its head. -/
theorem frameKeeps_enqueue {s t : State} (p : Port) (body : JobBody) (h : FrameKeeps s t) :
    FrameKeeps s (t.enqueue p body) := by
  refine ⟨h.granules, h.marks, h.work, fun j hj hh => ?_⟩
  show (t.queue ++ [_]).head? = some j
  rw [List.head?_append, h.head j hj hh]
  rfl

/-- A COMMIT takes the place of a job that has not started, so not of the running one. -/
theorem head?_coalesced {s : State} {j old new : Job} (hj : s.work.job? = some j) (hh : s.queue.head? = some j) :
    (s.startedJobs ++ s.waitingJobs.map (fun k => if k = old then new else k)).head? = some j := by
  obtain ⟨rest, hq⟩ := List.head?_eq_some_iff.1 hh
  rw [State.startedJobs, hj, hq]
  rfl

theorem frameKeeps_coalesce (s : State) (p : Port) (body : JobBody) (old : Job) :
    FrameKeeps s (s.coalesce p body old) := by
  obtain ⟨bs, hb⟩ := emptyBufferOf_touches
    ({ s with queue := s.startedJobs ++ s.waitingJobs.map (fun k => if k = old then s.newJob p body else k) }.pushResult
      old.port (old.record .superseded none false)) old.body
  simp only [State.coalesce, hb]
  exact ⟨rfl, rfl, rfl, fun j hj hh => head?_coalesced hj hh⟩

theorem frameKeeps_acceptCommit (s : State) (p : Port) (t : Target) (a : CommitArgs) (b : Fin 8) :
    FrameKeeps s (s.acceptCommit p t a b) := by
  cases t with
  | fresh i c => exact frameKeeps_enqueue p _ ⟨rfl, rfl, rfl, fun _ _ h => h⟩
  | existing i =>
    simp only [State.acceptCommit]
    split
    · next old _ =>
      have h := frameKeeps_coalesce (s.setBuffer b (s.buffers[b]).queued) p
        (.commit i a.key b (commitLength a (s.buffers[b])) a.expected) old
      exact ⟨h.granules, h.marks, h.work, h.head⟩
    · exact frameKeeps_enqueue p _ ⟨rfl, rfl, rfl, fun _ _ h => h⟩

theorem frameKeeps_takeEntryJob (s : State) (p : Port) (i : Nat) (permitted : ClassPolicy → Bool) (b : JobBody) :
    FrameKeeps s (s.takeEntryJob p i permitted b) :=
  frameKeeps_unless s p _ (frameKeeps_enqueue p b ⟨rfl, rfl, rfl, fun _ _ h => h⟩)

theorem frameKeeps_takeCommit (s : State) (p : Port) (args : Bytes) : FrameKeeps s (s.takeCommit p args) := by
  refine frameKeeps_command s p _ fun a => ?_
  split
  · exact frameKeeps_refuse s p _
  · refine frameKeeps_unless s p _ ?_
    split
    · exact frameKeeps_refuse s p _
    · exact frameKeeps_unless s p _ (frameKeeps_acceptCommit s p _ a _)

theorem frameKeeps_takePatch (s : State) (p : Port) (args : Bytes) : FrameKeeps s (s.takePatch p args) := by
  refine frameKeeps_command s p _ fun a => frameKeeps_unless s p _ ?_
  repeat' split
  · exact frameKeeps_refuse s p _
  · exact frameKeeps_refuse s p _
  · exact frameKeeps_takeEntryJob s p _ _ _

/-- RETIRE and FIX: the key is resolved, and a job for its entry is taken. -/
theorem frameKeeps_resolved (s : State) (p : Port) (k : Key) {act : Nat → State} (h : ∀ i, FrameKeeps s (act i)) :
    FrameKeeps s (match s.resolve k with
      | .error st => s.refuse p st
      | .ok i => act i) := by
  cases s.resolve k with
  | error st => exact frameKeeps_refuse s p st
  | ok i => exact h i

theorem frameKeeps_takeRetire (s : State) (p : Port) (args : Bytes) : FrameKeeps s (s.takeRetire p args) :=
  frameKeeps_command s p _ fun _ =>
    frameKeeps_ite (frameKeeps_resolved s p _ fun _ => frameKeeps_takeEntryJob s p _ _ _) (frameKeeps_refuse s p _)

theorem frameKeeps_takeFix (s : State) (p : Port) (args : Bytes) : FrameKeeps s (s.takeFix p args) :=
  frameKeeps_command s p _ fun _ =>
    frameKeeps_ite (frameKeeps_resolved s p _ fun _ => frameKeeps_takeEntryJob s p _ _ _) (frameKeeps_refuse s p _)

theorem frameKeeps_takeSetupWrite (s : State) (p : Port) (args : Bytes) : FrameKeeps s (s.takeSetupWrite p args) :=
  frameKeeps_command s p _ fun _ => frameKeeps_unless s p _ (frameKeeps_enqueue p _ (FrameKeeps.refl s))

/-! ### READ and CENSUS -/

theorem frameKeeps_takeRead (s : State) (p : Port) (args : Bytes) : FrameKeeps s (s.takeRead p args) := by
  refine frameKeeps_command s p _ fun a => frameKeeps_ite ?_ (frameKeeps_refuse s p _)
  split
  · next c _ =>
    exact (frameKeeps_modPort s p _).andThen (same_claimRead _ p c)
      (work_queue_of_arbiterOnly (arbiterOnly_claimRead _ p c))
  · exact frameKeeps_refuse s p _

theorem frameKeeps_takeCensus (s : State) (p : Port) (args : Bytes) : FrameKeeps s (s.takeCensus p args) := by
  refine frameKeeps_command s p _ fun b => ?_
  repeat' split
  · exact frameKeeps_refuse s p _
  · exact frameKeeps_refuse s p _
  · refine FrameKeeps.andThen (t := State.takeUp _ _) ?_ (same_grant _)
      (work_queue_of_arbiterOnly (arbiterOnly_grants _ _ _))
    refine FrameKeeps.andThen (t := { s with arb := s.arb.withoutCensus }.answer p .ok []) ?_ (same_takeUp _ _)
      (work_queue_of_arbiterOnly (arbiterOnly_takeUp _ _))
    exact ⟨rfl, rfl, rfl, fun _ _ h => h⟩

/-! ### Every frame -/

/-- The command is a frame at a port, and no RESTART. -/
def ArrivesAtPort (c : Instr) : Prop :=
  ((commandOn c).isSome = true ∧ isRestart c = false) ∨ (∃ p code a, c = .unknownCommand p code a) ∨
    (∃ f, c = .fetch f) ∨ (∃ p b m, c = .badFrame p b m) ∨ ∃ p b, c = .ignoredFrame p b

/-- A split over the commands. Those at the end write ports, buffers, hold slots, the monitor or the inhibit mask. -/
theorem exec_frameKeeps {c : Instr} {s t : State} (hc : ArrivesAtPort c) (hx : exec c s = .next t) :
    FrameKeeps s t := by
  cases c <;> cases hx
  case read p a => exact frameKeeps_takeRead s p a
  case commit p a => exact frameKeeps_takeCommit s p a
  case patch p a => exact frameKeeps_takePatch s p a
  case retire p a => exact frameKeeps_takeRetire s p a
  case fix p a => exact frameKeeps_takeFix s p a
  case setupWrite p a => exact frameKeeps_takeSetupWrite s p a
  case census p a => exact frameKeeps_takeCensus s p a
  case fetch | badFrame | ignoredFrame =>
    exact frameKeeps_ite ⟨rfl, rfl, rfl, fun _ _ h => h⟩ ⟨rfl, rfl, rfl, fun _ _ h => h⟩
  case unknownCommand p code a =>
    exact frameKeeps_ite (FrameKeeps.refl s) (frameKeeps_arrive s p (frameKeeps_refuse s p _))
  case status p a =>
    refine frameKeeps_arrive s p ?_
    split <;> exact ⟨rfl, rfl, rfl, fun _ _ h => h⟩
  case stage p a =>
    refine frameKeeps_command s p _ fun x => ?_
    split
    · exact frameKeeps_refuse s p _
    · exact frameKeeps_unless s p _ ⟨rfl, rfl, rfl, fun _ _ h => h⟩
  case hold p a =>
    refine frameKeeps_command s p _ fun k => ?_
    unfold State.holdEntry
    repeat' split
    all_goals exact ⟨rfl, rfl, rfl, fun _ _ h => h⟩
  case ack p a =>
    refine frameKeeps_command s p _ fun m => ?_
    dsimp only
    split <;> exact ⟨rfl, rfl, rfl, fun _ _ h => h⟩
  case capture | captureClear | refreshList | censusResult | setupRead | eventMask =>
    exact frameKeeps_command s _ _ fun _ => ⟨rfl, rfl, rfl, fun _ _ h => h⟩
  case find | list | discard | result | renew | release | inhibit | censusCancel =>
    refine frameKeeps_command s _ _ fun _ => ?_
    repeat' split
    all_goals exact ⟨rfl, rfl, rfl, fun _ _ h => h⟩
  all_goals simp [ArrivesAtPort, commandOn, isRestart] at hc

/-- Settles O3: no frame at a port writes a granule or a mark field, so each reads as before. -/
theorem portCommandsLeaveArray : Obligations.PortCommandsLeaveArray := by
  intro c s t hc hx l g pos
  have h := exec_frameKeeps hc hx
  exact ⟨by rw [granule_congr h.granules], markField_congr h.marks l⟩

end Sys2Proof.Machine
end

section
/-! The running job stays the oldest of the queue (R53, R61): the frames at the ports by what they leave alone, the
engine's events by what its advance does with its job, and the rest, which writes neither the work nor the queue. -/

namespace Sys2Proof.Machine

/-- The engine's work and the commit queue are the same. -/
abbrev KeepsJobs (s t : State) : Prop := t.work = s.work ∧ t.queue = s.queue

theorem KeepsJobs.trans {s t u : State} (h : KeepsJobs s t) (h' : KeepsJobs t u) : KeepsJobs s u :=
  ⟨h'.1.trans h.1, h'.2.trans h.2⟩

theorem keepsJobs_of_lawFrame {s t : State} (h : LawFrame s t ∧ t.work = s.work) : KeepsJobs s t := ⟨h.2, h.1.queue⟩

/-! ### The array, the monitor, the census, the leases and the scan write neither -/

theorem keepsJobs_grant (s : State) : KeepsJobs s s.grant := work_queue_of_arbiterOnly (arbiterOnly_grants _ _ s)

theorem keepsJobs_stepBoundary (s : State) : KeepsJobs s s.stepBoundary :=
  work_queue_of_arbiterOnly (arbiterOnly_stepBoundary s)

theorem keepsJobs_upsets (s : State) (l : Loc) (us : List Upset) : KeepsJobs s (s.upsets l us) :=
  keepsJobs_of_lawFrame (lawFrame_of_arrayOnly (arrayOnly_upsets s l us))

theorem keepsJobs_report (s : State) (r : Report) : KeepsJobs s (s.report r) :=
  keepsJobs_of_lawFrame (lawFrame_report s r)

theorem keepsJobs_reportReads (s : State) (g : ReadGrant) (reads : List (Nat × Outcome × Data)) :
    KeepsJobs s (s.reportReads g reads) := by
  unfold State.reportReads
  induction reads generalizing s with
  | nil => exact ⟨rfl, rfl⟩
  | cons r rest ih => exact (keepsJobs_report s _).trans (ih _)

theorem keepsJobs_endRead (s : State) (us : List Upset) : KeepsJobs s (s.endRead us) := by
  unfold State.endRead
  split
  · next g _ =>
    have hread := (keepsJobs_upsets s g.loc us).trans
      (keepsJobs_reportReads (s.upsets g.loc us) g ((s.upsets g.loc us).grantReads g))
    exact hread.trans (keepsJobs_grant _)
  · exact ⟨rfl, rfl⟩

theorem keepsJobs_censusRead (s : State) (g : Nat) (r : Outcome × Data) : KeepsJobs s (s.censusRead g r) := by
  unfold State.censusRead
  split
  · exact ⟨rfl, rfl⟩
  · split
    · exact ⟨rfl, rfl⟩
    · dsimp only
      generalize (if g = 0 then _ else _ : CensusRun) = c
      generalize (if g = 0 then _ else _ : CensusEntry) = e
      split
      · exact ⟨rfl, rfl⟩
      · exact work_queue_of_arbiterOnly (arbiterOnly_takeUp s _)

theorem keepsJobs_endCensusRead (s : State) (us : List Upset) : KeepsJobs s (s.endCensusRead us) := by
  unfold State.endCensusRead
  split
  · next l g e counts _ =>
    have hread : KeepsJobs s ((s.upsets l us).censusReported l g e) :=
      (keepsJobs_upsets s l us).trans (keepsJobs_report _ _)
    refine KeepsJobs.trans ?_ (work_queue_of_arbiterOnly (arbiterOnly_grants _ _ _))
    split
    · exact hread.trans (keepsJobs_censusRead _ g _)
    · exact hread
  · exact ⟨rfl, rfl⟩

theorem keepsJobs_expire (s : State) (slot : Fin 8) : KeepsJobs s (s.expire slot) := by
  unfold State.expire
  repeat' split
  all_goals exact ⟨rfl, rfl⟩

theorem keepsJobs_endInterval (s : State) : KeepsJobs s s.endInterval := by
  have hall : ∀ (slots : List (Fin 8)) (s : State), KeepsJobs s (slots.foldl State.expire s) := by
    intro slots
    induction slots with
    | nil => exact fun _ => ⟨rfl, rfl⟩
    | cons slot rest ih => exact fun s => (keepsJobs_expire s slot).trans (ih _)
  unfold State.endInterval
  split
  · exact hall allSlots { s with holds := s.holds.map HoldSlot.lower }
  · exact ⟨rfl, rfl⟩

theorem keepsJobs_holdLapses (s : State) (slot : Nat) : KeepsJobs s (s.holdLapses slot) := by
  unfold State.holdLapses
  repeat' split
  · exact keepsJobs_expire s _
  · exact ⟨rfl, rfl⟩
  · exact ⟨rfl, rfl⟩

theorem keepsJobs_of_scanFrame {s t : State} (h : ScanFrame s t) : KeepsJobs s t := ⟨h.work, h.queue⟩

theorem keepsJobs_scanRead (s : State) (us : List Upset) : KeepsJobs s (s.scanRead us) := by
  unfold State.scanRead
  split
  · exact ⟨rfl, rfl⟩
  · next l g e _ =>
    exact ((keepsJobs_upsets s l us).trans (keepsJobs_report _ _)).trans
      (keepsJobs_of_scanFrame (scanFrame_scanAdvance _ _))

theorem keepsJobs_endScan (s : State) : KeepsJobs s s.endScan := by
  unfold State.endScan
  split
  · refine (keepsJobs_of_scanFrame (scanFrame_scanRest scanReads s)).trans ?_
    obtain ⟨es, pool, items, h⟩ := resolvesOnly_enterReady (State.scanRest scanReads s)
    rw [h]
    exact ⟨rfl, rfl⟩
  · exact ⟨rfl, rfl⟩

theorem keepsJobs_endScanRead (s : State) (us : List Upset) : KeepsJobs s (s.endScanRead us) := by
  unfold State.endScanRead
  split
  · exact keepsJobs_scanRead s us
  · exact ⟨rfl, rfl⟩

theorem keepsJobs_endHold (s : State) : KeepsJobs s s.endHold := by
  unfold State.endHold
  split <;> exact ⟨rfl, rfl⟩

/-! ### The law alone (R53) -/

theorem heads_of_keepsJobs {s t : State} (h : runningJobHeads s = true) (hk : KeepsJobs s t) :
    runningJobHeads t = true := by
  obtain ⟨hwork, hqueue⟩ := hk
  rw [runningJobHeads_iff, hwork, hqueue]
  exact (runningJobHeads_iff s).1 h

theorem heads_of_frameKeeps {s t : State} (h : runningJobHeads s = true) (hk : FrameKeeps s t) :
    runningJobHeads t = true := by
  rw [runningJobHeads_iff, hk.work]
  exact fun j hj => hk.head j hj ((runningJobHeads_iff s).1 h j hj)

/-- A part whose engine runs no job meets the law. -/
theorem heads_of_no_job {t : State} (h : t.work.job? = none) : runningJobHeads t = true := by
  rw [runningJobHeads_iff, h]
  rintro j ⟨⟩

/-- An advance with the job at the head of the queue: it goes on with that job, or has none afterwards. -/
theorem heads_of_advance {job : Option Job} {s t : State} (h : runningJobHeads s = true)
    (hjob : ∀ j, job = some j → s.queue.head? = some j) (ha : JobAdvance job s t) : runningJobHeads t = true := by
  cases ha with
  | goesOn frame work =>
    rcases work with hnone | hsame | hkept
    · exact heads_of_no_job hnone
    · rw [runningJobHeads_iff, hsame, frame.queue]
      exact hjob
    · exact heads_of_keepsJobs h ⟨hkept, frame.queue⟩
  | completes j _ leaves => exact heads_of_no_job leaves.idle
  | restarts hn =>
    obtain ⟨-, -, -, hnone, -⟩ := hn
    exact heads_of_no_job hnone

/-! ### The engine -/

theorem heads_jobStarts {s : State} (h : runningJobHeads s = true) : runningJobHeads s.jobStarts = true := by
  unfold State.jobStarts
  split
  · next j rest _ _ hq =>
    have hhead : ∀ x, some j = some x → s.queue.head? = some x := fun x hx => by rw [hq, ← hx]; rfl
    exact heads_of_keepsJobs (heads_of_advance h hhead (jobAdvance_startJob s j)) (keepsJobs_grant _)
  · exact h

theorem heads_refreshStarts {s : State} (h : runningJobHeads s = true) : runningJobHeads s.refreshStarts = true := by
  unfold State.refreshStarts
  split
  · exact heads_of_keepsJobs (heads_of_advance h (by simp) (jobAdvance_startRefresh s _)) (keepsJobs_grant _)
  · exact h

theorem heads_recoveryStarts {s : State} (h : runningJobHeads s = true) : runningJobHeads s.recoveryStarts = true := by
  unfold State.recoveryStarts
  split
  · exact heads_of_keepsJobs (heads_of_advance h (by simp) (jobAdvance_startItem s _)) (keepsJobs_grant _)
  · exact h

/-- The end of an array step: what the step did to the array, the release, the advance with the running job, the
boundary. -/
theorem heads_of_stepEnd {s t u : State} (h : runningJobHeads s = true) (hk : KeepsJobs s t)
    (ha : JobAdvance t.release.work.job? t.release u) : runningJobHeads u.stepBoundary = true := by
  have hended : runningJobHeads t.release = true := heads_of_keepsJobs h hk
  exact heads_of_keepsJobs (heads_of_advance hended ((runningJobHeads_iff _).1 hended) ha) (keepsJobs_stepBoundary u)

theorem heads_endEngineRead {s : State} (us : List Upset) (h : runningJobHeads s = true) :
    runningJobHeads (s.endEngineRead us) = true := by
  unfold State.endEngineRead
  split
  · next l g e _ =>
    exact heads_of_stepEnd h ((keepsJobs_upsets s l us).trans (keepsJobs_report _ _)) (jobAdvance_afterRead _ _)
  · exact h

theorem heads_endProgram {s : State} (us : List Upset) (h : runningJobHeads s = true) :
    runningJobHeads (s.endProgram us) = true := by
  unfold State.endProgram
  split
  · next l g d _ =>
    exact heads_of_stepEnd h (keepsJobs_of_lawFrame (lawFrame_of_arrayOnly (programEnded_touches s l g d us)))
      (jobAdvance_afterProgram _)
  · exact h

theorem heads_endMark {s : State} (us : List Upset) (h : runningJobHeads s = true) :
    runningJobHeads (s.endMark us) = true := by
  unfold State.endMark
  split
  · next l m _ =>
    exact heads_of_stepEnd h (keepsJobs_of_lawFrame (lawFrame_of_arrayOnly (arrayOnly_markEnded s l m us)))
      (jobAdvance_afterMark _ _)
  · exact h

theorem heads_endErase {s : State} (us : List Upset) (h : runningJobHeads s = true) :
    runningJobHeads (s.endErase us) = true := by
  unfold State.endErase
  split
  · next l _ =>
    exact heads_of_stepEnd h (keepsJobs_of_lawFrame (lawFrame_of_arrayOnly (arrayOnly_eraseEnded s l us)))
      (jobAdvance_afterErase _ _)
  · exact h

/-- A RESTART is refused, deferred, or leaves a part without work. -/
theorem heads_takeRestart {s : State} (p : Port) (args : Bytes) (r : Residue) (h : runningJobHeads s = true) :
    runningJobHeads (s.takeRestart p args r) = true := by
  unfold State.takeRestart State.command State.arrive
  repeat' split
  · exact h
  · exact h
  · exact h
  · exact h
  · exact h
  · exact h
  · exact heads_of_no_job rfl

/-! ### Every command -/

/-- A split over the events and RESTART, which are no frames that leave the work alone. -/
theorem exec_heads_of_event {c : Instr} {s t : State} (hc : ¬ArrivesAtPort c) (h : runningJobHeads s = true)
    (hx : exec c s = .next t) : runningJobHeads t = true := by
  cases c <;> cases hx
  case readComplete us => exact heads_of_keepsJobs h (keepsJobs_endRead s us)
  case censusReadEnd us => exact heads_of_keepsJobs h (keepsJobs_endCensusRead s us)
  case scanGranuleReadEnd us => exact heads_of_keepsJobs h (keepsJobs_endScanRead s us)
  case scanEnd => exact heads_of_keepsJobs h (keepsJobs_endScan s)
  case resetHoldEnd => exact heads_of_keepsJobs h (keepsJobs_endHold s)
  case leaseInterval => exact heads_of_keepsJobs h (keepsJobs_endInterval s)
  case holdLapsed slot => exact heads_of_keepsJobs h (keepsJobs_holdLapses s slot)
  case powerOn | resetN => exact heads_of_no_job rfl
  case restart p a r => exact heads_takeRestart p a r h
  case jobStart => exact heads_jobStarts h
  case refreshStart => exact heads_refreshStarts h
  case recoveryStart => exact heads_recoveryStarts h
  case engineReadEnd us => exact heads_endEngineRead us h
  case granuleProgramEnd us => exact heads_endProgram us h
  case markProgramEnd us => exact heads_endMark us h
  case cellEraseEnd us => exact heads_endErase us h
  all_goals exact absurd (by simp [ArrivesAtPort, commandOn, isRestart]) hc

/-- Every command keeps the running job at the head of the queue. -/
theorem exec_heads {c : Instr} {s t : State} (h : runningJobHeads s = true) (hx : exec c s = .next t) :
    runningJobHeads t = true := by
  by_cases hc : ArrivesAtPort c
  · exact heads_of_frameKeeps h (exec_frameKeeps hc hx)
  · exact exec_heads_of_event hc h hx

/-- Settles O58: the step is that of the command at the front of the queue of commands, of which the law does not
speak. -/
theorem stepKeepsRunningJobAtHead : Obligations.StepKeepsRunningJobAtHead := by
  intro s t h hstep
  unfold step at hstep
  split at hstep
  · cases hstep
    exact h
  · next c rest _ => exact exec_heads (s := { s with pending := rest }) h hstep

end Sys2Proof.Machine
end

section
/-! Staging buffers and results (3.1, 3.6): STAGE by Table 3-2, DISCARD by the state of the buffer, and RESULT. -/

namespace Sys2Proof.Machine

/-! ### Buffer numbers (R48) -/

theorem ownBuffer_of_otherPort {p : Port} {n : Byte} {b : Fin 8} (hn : n.toNat = b.val) (hp : bufferPort b ≠ p) :
    ownBuffer p n = none := by
  have hlt : n.toNat < 8 := hn ▸ b.isLt
  have hb : (⟨n.toNat, hlt⟩ : Fin 8) = b := Fin.ext hn
  simp [ownBuffer, hlt, hb, hp]

theorem ownBuffer_above {p : Port} {n : Byte} (hn : 8 ≤ n.toNat) : ownBuffer p n = none := by
  simp [ownBuffer, Nat.not_lt.2 hn]

theorem toNat_bufferNumber (b : Fin 8) : (BitVec.ofNat 8 b.val).toNat = b.val := by
  rw [BitVec.toNat_ofNat]
  exact Nat.mod_eq_of_lt (Nat.lt_trans b.isLt (by decide))

/-! ### STAGE (R49) -/

/-- What is read after bytes were written from a position on: the bytes there, and what stood elsewhere. -/
theorem sparseGet_writeBytes (m : Sparse Byte) (start : Nat) (bs : Bytes) (pos : Nat) :
    sparseGet (fun _ => 0xFF#8) (writeBytes m start bs) pos =
      if start ≤ pos ∧ pos < start + bs.length then bs.getD (pos - start) 0
      else sparseGet (fun _ => 0xFF#8) m pos := by
  induction bs generalizing m start with
  | nil =>
    have hempty : ¬(start ≤ pos ∧ pos < start + ([] : Bytes).length) := by simp
    rw [if_neg hempty, writeBytes]
  | cons b bs ih =>
    rw [writeBytes, ih, List.length_cons]
    rcases Nat.lt_trichotomy pos start with hlt | heq | hgt
    · rw [if_neg (by omega), if_neg (by omega), sparseGet_set_other _ _ _ _ _ (Nat.ne_of_lt hlt)]
    · subst heq
      rw [if_neg (by omega), if_pos (by omega), sparseGet_set_same, Nat.sub_self, List.getD_cons_zero]
    · have hsucc : pos - start = (pos - (start + 1)) + 1 := by omega
      rw [sparseGet_set_other _ _ _ _ _ (Nat.ne_of_gt hgt), hsucc, List.getD_cons_succ]
      by_cases hin : pos < start + (bs.length + 1)
      · rw [if_pos (by omega), if_pos (by omega)]
      · rw [if_neg (by omega), if_neg (by omega)]

theorem byte_stage (b : Buffer) (offset : Nat) (data : Bytes) (pos : Nat) :
    (b.stage offset data).byte pos =
      if offset ≤ pos ∧ pos < offset + data.length then data.getD (pos - offset) 0 else b.byte pos :=
  sparseGet_writeBytes b.data offset data pos

/-- The checks of STAGE past the buffer number (Table 3-2). -/
def stageChecks (offset count : Nat) (buf : Buffer) : List (Bool × Status) :=
  [(decide (223 < offset), .badArg), (decide (224 < offset + count), .badLength), (buf.state == .queued, .inUse)]

theorem firstFailing_stageChecks (offset count : Nat) (buf : Buffer) :
    firstFailing (stageChecks offset count buf) =
      if 223 < offset then some .badArg
      else if 224 < offset + count then some .badLength
      else if buf.state = .queued then some .inUse
      else none := by
  simp [stageChecks, firstFailing]

section

variable {s : State} {p : Port} {number o n : Byte} {data : Bytes} {b : Fin 8}

theorem stageArgs_counted (hlen : data.length = n.toNat) (h1 : 1 ≤ n.toNat) (h224 : n.toNat ≤ 224) :
    stageArgs (number :: o :: n :: data) = some ⟨number, o.toNat, data⟩ :=
  if_pos ⟨hlen, h1, h224⟩

/-- A STAGE that names no buffer of its port. -/
theorem takeStage_otherBuffer (h : s.takes p)
    (ha : stageArgs (number :: o :: n :: data) = some ⟨number, o.toNat, data⟩)
    (hb : ownBuffer p number = none) : s.takeStage p (number :: o :: n :: data) = s.refuse p .badArg := by
  simp only [State.takeStage, ha, command_takes s p _ _ h, hb]

/-- A STAGE of a buffer of its port is refused by the first check that fails, or writes the buffer. -/
theorem takeStage_ownBuffer (h : s.takes p)
    (ha : stageArgs (number :: o :: n :: data) = some ⟨number, o.toNat, data⟩)
    (hb : ownBuffer p number = some b) :
    s.takeStage p (number :: o :: n :: data) =
      s.unless p (firstFailing (stageChecks o.toNat data.length (s.buffers[b])))
        ((s.setBuffer b ((s.buffers[b]).stage o.toNat data)).answer p .ok []) := by
  simp only [State.takeStage, ha, command_takes s p _ _ h, hb, stageChecks]

end

/-- Settles O21: the buffer number, then the three checks in their order, then the bytes written. -/
theorem stageWritesBuffer : Obligations.StageWritesBuffer := by
  intro s p b o n data h hlen h1 h224 command answers
  have ha := stageArgs_counted (number := BitVec.ofNat 8 b.val) (o := o) hlen h1 h224
  have hother (hp : bufferPort b ≠ p) : answers .badArg :=
    congrArg Host.Outcome.next (takeStage_otherBuffer h ha (ownBuffer_of_otherPort (toNat_bufferNumber b) hp))
  have hown (hp : bufferPort b = p) := takeStage_ownBuffer h ha (ownBuffer_of_port (toNat_bufferNumber b) hp)
  have hrefused (hp : bufferPort b = p) (st : Status)
      (hf : firstFailing (stageChecks o.toNat data.length (s.buffers[b])) = some st) : answers st :=
    congrArg Host.Outcome.next ((hown hp).trans (by rw [hf]; rfl))
  refine ⟨hother, fun hp ho => hrefused hp _ ?_, fun hp ho hn => hrefused hp _ ?_,
    fun hp ho hn hq => hrefused hp _ ?_, fun hp ho hn hq => ?_⟩
  · rw [firstFailing_stageChecks, if_pos ho]
  · rw [firstFailing_stageChecks, if_neg (Nat.not_lt.2 ho), hlen, if_pos hn]
  · rw [firstFailing_stageChecks, if_neg (Nat.not_lt.2 ho), hlen, if_neg (Nat.not_lt.2 hn), if_pos hq]
  · have hpass : firstFailing (stageChecks o.toNat data.length (s.buffers[b])) = none := by
      rw [firstFailing_stageChecks, if_neg (Nat.not_lt.2 ho), hlen, if_neg (Nat.not_lt.2 hn), if_neg hq]
    have hbuf : ((s.setBuffer b ((s.buffers[b]).stage o.toNat data)).answer p .ok []).buffers[b] =
        (s.buffers[b]).stage o.toNat data := by
      simp [State.answer, State.setBuffer]
    have hdone := (hown hp).trans (by rw [hpass, State.unless])
    refine ⟨_, congrArg Host.Outcome.next hdone, ?_⟩
    rw [hbuf, ← hlen]
    exact ⟨rfl, rfl, byte_stage _ _ _, rfl⟩

/-! ### DISCARD (R50) -/

section

variable {s : State} {p : Port} {n : Byte} {b : Fin 8}

theorem takeDiscard_otherBuffer (h : s.takes p) (hb : ownBuffer p n = none) :
    s.takeDiscard p [n] = s.refuse p .badArg := by
  simp only [State.takeDiscard, byteArg, command_takes s p _ _ h, hb]

theorem takeDiscard_filling (h : s.takes p) (hb : ownBuffer p n = some b) (hs : (s.buffers[b]).state = .filling) :
    s.takeDiscard p [n] = (s.setBuffer b Buffer.emptied).answer p .ok [] := by
  simp only [State.takeDiscard, byteArg, command_takes s p _ _ h, hb, hs]

theorem takeDiscard_empty (h : s.takes p) (hb : ownBuffer p n = some b) (hs : (s.buffers[b]).state = .empty) :
    s.takeDiscard p [n] = s.answer p .ok [] := by
  simp only [State.takeDiscard, byteArg, command_takes s p _ _ h, hb, hs]

theorem takeDiscard_queued (h : s.takes p) (hb : ownBuffer p n = some b) (hs : (s.buffers[b]).state = .queued) :
    s.takeDiscard p [n] = s.refuse p .inUse := by
  simp only [State.takeDiscard, byteArg, command_takes s p _ _ h, hb, hs]

end

/-- Settles O22: the part not ready, the buffer number, then the three states. -/
theorem discardAnswersByState : Obligations.DiscardAnswersByState := by
  intro s p n answers
  refine ⟨fun h => ?_, fun h hn => ?_, fun b h hn => ⟨fun hp => ?_, fun hp => ?_⟩⟩
  · exact congrArg Host.Outcome.next (command_notReady s p n _ h)
  · exact congrArg Host.Outcome.next (takeDiscard_otherBuffer h (ownBuffer_above hn))
  · exact congrArg Host.Outcome.next (takeDiscard_otherBuffer h (ownBuffer_of_otherPort hn hp))
  · have hb := ownBuffer_of_port hn hp
    exact ⟨fun hs => congrArg Host.Outcome.next (takeDiscard_filling h hb hs),
      fun hs => congrArg Host.Outcome.next (takeDiscard_empty h hb hs),
      fun hs => congrArg Host.Outcome.next (takeDiscard_queued h hb hs)⟩

/-! ### RESULT (R74) -/

theorem takeResult_none {s : State} {p : Port} (h : s.takes p) (hr : (s.port p).results = []) :
    s.takeResult p [] = s.refuse p .noResult := by
  simp only [State.takeResult, noArgs, command_takes s p _ _ h, hr]

/-- The oldest record leaves the list, and is the answer. -/
theorem takeResult_oldest {s : State} {p : Port} {r : ResultRecord} {rest : List ResultRecord} (h : s.takes p)
    (hr : (s.port p).results = r :: rest) :
    s.takeResult p [] = s.modPort p (fun ps => { ps with results := rest, slot := .ready .ok r.bytes }) := by
  simp only [State.takeResult, noArgs, command_takes s p _ _ h, hr, answer_eq, modPort_modPort]

/-- Settles O23: the list empty, or not. -/
theorem resultReturnsOldest : Obligations.ResultReturnsOldest := by
  intro s p h
  exact ⟨fun hr => congrArg Host.Outcome.next (takeResult_none h hr),
    fun r rest hr => congrArg Host.Outcome.next (takeResult_oldest h hr)⟩

end Sys2Proof.Machine
end

section
/-! Acceptance of the job commands (3.3): the ordered checks of Table 3-4 as the first that fails, and what an acceptance
of a job for an existing entry, and one that coalesces, leaves. -/

namespace Sys2Proof.Machine

/-! ### Ordered checks (R55) -/

/-- Checks made after others count only when those pass. -/
theorem firstFailing_append {α : Type} (xs ys : List (Bool × α)) :
    firstFailing (xs ++ ys) = (firstFailing xs).or (firstFailing ys) := by
  induction xs with
  | nil => rfl
  | cons x rest ih =>
    obtain ⟨fails, st⟩ := x
    cases fails
    · exact ih
    · rfl

/-- The first of checks 3 to 7 that fails (Table 3-4). -/
def State.entryStatus (s : State) (isFixed held permitted : Bool) (c : Cls) (length : Nat) : Option Status :=
  if isFixed = true then some .locked
  else if held = true then some .held
  else if permitted = false then some .denied
  else if (s.policy c).maxLength.toNat < length then some .badLength
  else if s.inhibited c = true then some .inhibited
  else none

/-- The port has no place left (R58, step 3). -/
def State.portStatus (s : State) (p : Port) : Option Status :=
  if 8 ≤ (s.port p).outstanding + (s.port p).results.length then some .full else none

/-- Check 8 of a job command but COMMIT (R58). -/
def State.jobStatus (s : State) (p : Port) (waits : Bool) : Option Status :=
  if waits = true then some .inUse else if 8 ≤ s.queue.length then some .full else s.portStatus p

/-- Check 8 of a COMMIT, by the job that waits for its entry (R58, R59). -/
def State.commitStatus (s : State) (p : Port) (waits : Option Job) : Option Status :=
  match waits with
  | some j => if j.body.isCommit = false then some .inUse else s.portStatus p
  | none => if 8 ≤ s.queue.length then some .full else s.portStatus p

/-- Check 1 of a COMMIT past the buffer number (R56). -/
def commitArgStatus (a : CommitArgs) (buf : Buffer) : Option Status :=
  if keyValid a.key = false ∨ 1 < a.create.toNat ∨ a.create = 1 ∧ 7 < a.cls.toNat then some .badArg
  else if 224 < a.length ∨ a.length = 0 ∧ buf.filled = 0 then some .badLength
  else if buf.state = .queued then some .inUse
  else none

theorem firstFailing_entryChecks (s : State) (isFixed held : Bool) (c : Cls) (permitted : ClassPolicy → Bool)
    (length : Nat) :
    firstFailing (s.entryChecks isFixed held c permitted length) =
      s.entryStatus isFixed held (permitted (s.policy c)) c length := by
  simp [State.entryChecks, State.entryStatus, firstFailing]

theorem firstFailing_jobCapacity (s : State) (p : Port) (waits : Bool) :
    firstFailing (s.jobCapacity p waits) = s.jobStatus p waits := by
  simp [State.jobCapacity, State.jobStatus, State.queueFull, State.portFull, State.portStatus, firstFailing]

theorem firstFailing_commitCapacity (s : State) (p : Port) (i : Nat) :
    firstFailing (s.commitCapacity p i) = s.commitStatus p (s.waitingFor i) := by
  cases hw : s.waitingFor i with
  | none =>
    simp [State.commitCapacity, State.commitStatus, State.queueFull, State.portFull, State.portStatus, firstFailing, hw]
  | some j =>
    cases hc : j.body.isCommit <;>
      simp [State.commitCapacity, State.commitStatus, State.coalesced, State.portFull, State.portStatus, firstFailing,
        hw, hc]

theorem firstFailing_commitArgChecks (a : CommitArgs) (buf : Buffer) :
    firstFailing (commitArgChecks a buf) = commitArgStatus a buf := by
  cases hk : keyValid a.key with
  | false => simp [commitArgChecks, commitArgStatus, firstFailing, hk]
  | true =>
    by_cases hcreate : 1 < a.create.toNat
    · simp [commitArgChecks, commitArgStatus, firstFailing, hk, hcreate]
    · simp [commitArgChecks, commitArgStatus, firstFailing, hk, hcreate]

/-! ### Targets (R6, R7) -/

/-- Resolution of a key without an active entry (R6). -/
theorem resolve_inactive {s : State} {k : Key} (h : s.activeIndex k = none) :
    s.resolve k = .error (if s.retiringList k = [] then .notFound else .gone) := by
  split
  · next hr => exact resolve_notFound h hr
  · next hr => exact resolve_gone h hr

theorem commitTarget_active {s : State} {a : CommitArgs} {i : Nat} (hi : s.activeIndex a.key = some i) :
    s.commitTarget a = .ok (.existing i) := by
  simp [State.commitTarget, hi, resolve_active hi]

theorem commitTarget_inactive {s : State} {a : CommitArgs} (h : s.activeIndex a.key = none) (hc : a.create = 0) :
    s.commitTarget a = .error (if s.retiringList a.key = [] then .notFound else .gone) := by
  simp [State.commitTarget, hc, resolve_inactive h]

theorem commitTarget_noEntry {s : State} {a : CommitArgs} (h : s.activeIndex a.key = none) (hc : a.create = 1)
    (hnone : s.allocatable = none) : s.commitTarget a = .error .noEntry := by
  simp [State.commitTarget, h, hc, hnone]

/-- Checks 3 to 7 of a job for an existing entry with a class. -/
theorem firstFailing_targetChecks {s : State} {p : Port} {i : Nat} {c : Cls} (hc : (s.entry i).cls? = some c)
    (permitted : ClassPolicy → Bool) (length : Nat) :
    firstFailing (s.targetChecks p (.existing i) permitted length) =
      s.entryStatus (s.entry i).isFixed (s.holdsActive (otherPort p) i) (permitted (s.policy c)) c length := by
  rw [State.targetChecks, hc, Option.getD_some, firstFailing_entryChecks]

/-! ### The commands as a port takes them -/

section

variable {s : State} {p : Port} {args : Bytes}

/-- A COMMIT that names no buffer of its port (R56). -/
theorem takeCommit_otherBuffer {a : CommitArgs} (h : s.takes p) (ha : commitArgs args = some a)
    (hb : ownBuffer p a.buffer = none) : s.takeCommit p args = s.refuse p .badArg := by
  simp only [State.takeCommit, ha, command_takes s p a _ h, hb]

/-- A COMMIT whose arguments are refused by check 1. -/
theorem takeCommit_badArgs {a : CommitArgs} {b : Fin 8} {st : Status} (h : s.takes p) (ha : commitArgs args = some a)
    (hb : ownBuffer p a.buffer = some b) (hst : commitArgStatus a (s.buffers[b]) = some st) :
    s.takeCommit p args = s.refuse p st := by
  simp only [State.takeCommit, ha, command_takes s p a _ h, hb, firstFailing_commitArgChecks, hst, State.unless]

/-- A COMMIT that check 2 refuses. -/
theorem takeCommit_unresolved {a : CommitArgs} {b : Fin 8} {st : Status} (h : s.takes p)
    (ha : commitArgs args = some a) (hb : ownBuffer p a.buffer = some b)
    (hargs : commitArgStatus a (s.buffers[b]) = none) (ht : s.commitTarget a = .error st) :
    s.takeCommit p args = s.refuse p st := by
  simp only [State.takeCommit, ha, command_takes s p a _ h, hb, firstFailing_commitArgChecks, hargs, ht, State.unless]

/-- A COMMIT with a target is refused by the first of checks 3 to 8 that fails, or accepted. -/
theorem takeCommit_target {a : CommitArgs} {b : Fin 8} {t : Target} (h : s.takes p) (ha : commitArgs args = some a)
    (hb : ownBuffer p a.buffer = some b) (hargs : commitArgStatus a (s.buffers[b]) = none)
    (ht : s.commitTarget a = .ok t) :
    s.takeCommit p args =
      s.unless p
        ((firstFailing (s.targetChecks p t (permitsWrite p) (commitLength a (s.buffers[b])))).or
          (s.commitStatus p (s.waitingFor t.entry)))
        (s.acceptCommit p t a b) := by
  rw [State.takeCommit, ha, command_takes s p a _ h]
  simp only [hb, firstFailing_commitArgChecks, hargs, ht, firstFailing_append, firstFailing_commitCapacity]
  rfl

/-- A job for an existing entry is refused by the first of checks 3 to 8 that fails, or joins the queue. -/
theorem takeEntryJob_eq {i : Nat} {c : Cls} (hc : (s.entry i).cls? = some c) (permitted : ClassPolicy → Bool)
    (body : JobBody) :
    s.takeEntryJob p i permitted body =
      s.unless p
        ((s.entryStatus (s.entry i).isFixed (s.holdsActive (otherPort p) i) (permitted (s.policy c)) c 0).or
          (s.jobStatus p (s.waitingFor i).isSome))
        ((s.raiseJobs i).enqueue p body) := by
  rw [State.takeEntryJob, firstFailing_append, firstFailing_targetChecks hc, firstFailing_jobCapacity]

/-- The checks of the arguments of a PATCH (R80). -/
def patchArgStatus (a : PatchArgs) : Option Status :=
  if keyValid a.key = false ∨ 223 < a.offset then some .badArg
  else if 224 < a.offset + a.data.length then some .badLength
  else none

theorem firstFailing_patchArgs (a : PatchArgs) :
    firstFailing [(!keyValid a.key, Status.badArg), (decide (223 < a.offset), .badArg),
      (decide (224 < a.offset + a.data.length), .badLength)] = patchArgStatus a := by
  cases hk : keyValid a.key <;> simp [firstFailing, patchArgStatus, hk]

theorem takePatch_badArgs {a : PatchArgs} {st : Status} (h : s.takes p) (ha : patchArgs args = some a)
    (hst : patchArgStatus a = some st) : s.takePatch p args = s.refuse p st := by
  simp only [State.takePatch, ha, command_takes s p a _ h, firstFailing_patchArgs, hst, State.unless]

theorem takePatch_unresolved {a : PatchArgs} {st : Status} (h : s.takes p) (ha : patchArgs args = some a)
    (hargs : patchArgStatus a = none) (hr : s.resolve a.key = .error st) : s.takePatch p args = s.refuse p st := by
  simp only [State.takePatch, ha, command_takes s p a _ h, firstFailing_patchArgs, hargs, hr, State.unless]

/-- A PATCH that reaches past the record (R80). -/
theorem takePatch_tooLong {a : PatchArgs} {i : Nat} (h : s.takes p) (ha : patchArgs args = some a)
    (hargs : patchArgStatus a = none) (hi : s.activeIndex a.key = some i) (hl : (s.entry i).patchTooLong a = true) :
    s.takePatch p args = s.refuse p .badArg := by
  simp only [State.takePatch, ha, command_takes s p a _ h, firstFailing_patchArgs, hargs, resolve_active hi, hl,
    State.unless, if_true]

theorem takePatch_resolved {a : PatchArgs} {i : Nat} (h : s.takes p) (ha : patchArgs args = some a)
    (hargs : patchArgStatus a = none) (hi : s.activeIndex a.key = some i) (hl : (s.entry i).patchTooLong a = false) :
    s.takePatch p args = s.takeEntryJob p i (permitsPatch p) (.patch i a.key a.offset a.data a.expected) := by
  simp only [State.takePatch, ha, command_takes s p a _ h, firstFailing_patchArgs, hargs, resolve_active hi, hl,
    State.unless, Bool.false_eq_true, if_false]

/-- A record reaches as far as the patch, when it is LIVE. -/
theorem patchTooLong_eq_false {e : Entry} {a : PatchArgs}
    (h : ∀ l, e.body = .live l → a.offset + a.data.length ≤ l.length) : e.patchTooLong a = false := by
  unfold Entry.patchTooLong
  split
  · next l hl => exact decide_eq_false (Nat.not_lt.2 (h l hl))
  · rfl

theorem patchTooLong_of_live {e : Entry} {a : PatchArgs} {l : Live} (hl : e.body = .live l)
    (h : l.length < a.offset + a.data.length) : e.patchTooLong a = true := by
  simp [Entry.patchTooLong, hl, h]

variable {key : Key} {expected : Gen}

theorem takeRetire_unresolved {st : Status} (h : s.takes p) (ha : retireArgs args = some (key, expected))
    (hk : keyValid key = true) (hr : s.resolve key = .error st) : s.takeRetire p args = s.refuse p st := by
  simp only [State.takeRetire, ha, command_takes s p _ _ h, if_pos hk, hr]

theorem takeRetire_resolved {i : Nat} (h : s.takes p) (ha : retireArgs args = some (key, expected))
    (hk : keyValid key = true) (hi : s.activeIndex key = some i) :
    s.takeRetire p args = s.takeEntryJob p i (permitsRetire p) (.retire i key expected) := by
  simp only [State.takeRetire, ha, command_takes s p _ _ h, if_pos hk, resolve_active hi]

theorem takeFix_unresolved {st : Status} (h : s.takes p) (ha : keyArg args = some key) (hk : keyValid key = true)
    (hr : s.resolve key = .error st) : s.takeFix p args = s.refuse p st := by
  simp only [State.takeFix, ha, command_takes s p _ _ h, if_pos hk, hr]

theorem takeFix_resolved {i : Nat} (h : s.takes p) (ha : keyArg args = some key) (hk : keyValid key = true)
    (hi : s.activeIndex key = some i) : s.takeFix p args = s.takeEntryJob p i (permitsWrite p) (.fix i key) := by
  simp only [State.takeFix, ha, command_takes s p _ _ h, if_pos hk, resolve_active hi]

end

/-! ### RETIRE and FIX are refused in order (R58, Table 7-3) -/

/-- A job for an existing entry is refused by the first check that fails. -/
theorem takeEntryJob_refused {s : State} {p : Port} {i : Nat} {c : Cls} {permitted : ClassPolicy → Bool}
    {body : JobBody} {st : Status} (hc : (s.entry i).cls? = some c)
    (hst : (s.entryStatus (s.entry i).isFixed (s.holdsActive (otherPort p) i) (permitted (s.policy c)) c 0).or
      (s.jobStatus p (s.waitingFor i).isSome) = some st) :
    s.takeEntryJob p i permitted body = s.refuse p st := by
  rw [takeEntryJob_eq hc, hst, State.unless]

/-- No record is longer than nothing: without a length the checks are fixed, held, class policy, class inhibited, then
those of the places. -/
theorem entryStatus_or_jobStatus (s : State) (p : Port) (isFixed held permitted : Bool) (c : Cls) (waits : Bool) :
    (s.entryStatus isFixed held permitted c 0).or (s.jobStatus p waits) =
      if isFixed = true then some Status.locked
      else if held = true then some .held
      else if permitted = false then some .denied
      else if s.inhibited c = true then some .inhibited
      else if waits = true then some .inUse
      else if 8 ≤ s.queue.length then some .full
      else if 8 ≤ (s.port p).outstanding + (s.port p).results.length then some .full
      else none := by
  simp only [State.entryStatus, Nat.not_lt_zero, if_false]
  cases isFixed
  · cases held
    · cases permitted
      · rfl
      · cases s.inhibited c <;> rfl
    · rfl
  · rfl

/-- Settles O27: the key is resolved, and the checks fail in the order of `entryStatus` and `jobStatus`. -/
theorem retireAndFixAreRefusedInOrder : Obligations.RetireAndFixAreRefusedInOrder := by
  intro s p key i c h hk hi hc status
  have hstatus : ∀ permitted, status permitted =
      (s.entryStatus (s.entry i).isFixed (s.holdsActive (otherPort p) i) permitted c 0).or
        (s.jobStatus p (s.waitingFor i).isSome) :=
    fun permitted => (entryStatus_or_jobStatus s p _ _ permitted c _).symm
  refine ⟨fun args expected st ha hst => ?_, fun args st ha hst => ?_⟩
  · rw [hstatus] at hst
    exact congrArg Host.Outcome.next ((takeRetire_resolved h ha hk hi).trans (takeEntryJob_refused hc hst))
  · rw [hstatus] at hst
    exact congrArg Host.Outcome.next ((takeFix_resolved h ha hk hi).trans (takeEntryJob_refused hc hst))

/-! ### Jobs for existing entries are accepted (R55) -/

theorem entryStatus_none {s : State} {permitted : Bool} {c : Cls} {length : Nat} (hpermitted : permitted = true)
    (hlen : length ≤ (s.policy c).maxLength.toNat) (hinhibit : s.inhibited c = false) :
    s.entryStatus false false permitted c length = none := by
  simp [State.entryStatus, hpermitted, hlen, hinhibit]

theorem portStatus_none {s : State} {p : Port} (h : (s.port p).outstanding + (s.port p).results.length < 8) :
    s.portStatus p = none := if_neg (Nat.not_le.2 h)

theorem permitsWrite_of {p : Port} {c : ClassPolicy} (h : p = .m ∨ c.sWriteOk = true) : permitsWrite p c = true := by
  simpa [permitsWrite] using h

/-- What the acceptance of a job for an existing entry leaves (R12, R54, R55). -/
theorem raiseJobs_enqueue_eq (s : State) (p : Port) (i : Nat) (body : JobBody) (hb : body.entry? = some i) :
    (s.raiseJobs i).enqueue p body =
      { s.modPort p (fun ps =>
          { ps with
            slot := .ready .accepted (ps.ticket :: be16 i)
            ticket := nextTicket ps.ticket
            outstanding := ps.outstanding + 1 }) with
        queue := s.queue ++ [⟨(s.port p).ticket, p, body⟩]
        entries := (s.setEntry i { s.entry i with jobs := (s.entry i).jobs + 1 }).entries } := by
  simp only [State.enqueue, hb]
  cases p <;> rfl

theorem takeEntryJob_accepted {s : State} {p : Port} {i : Nat} {c : Cls} {permitted : ClassPolicy → Bool}
    {body : JobBody} (hc : (s.entry i).cls? = some c) (hf : (s.entry i).isFixed = false)
    (hheld : s.holdsActive (otherPort p) i = false) (hpermitted : permitted (s.policy c) = true)
    (hinhibit : s.inhibited c = false) (hwaits : s.waitingFor i = none) (hqueue : s.queue.length < 8)
    (hport : (s.port p).outstanding + (s.port p).results.length < 8) :
    s.takeEntryJob p i permitted body = (s.raiseJobs i).enqueue p body := by
  rw [takeEntryJob_eq hc, hf, hheld, entryStatus_none hpermitted (Nat.zero_le _) hinhibit, hwaits, State.jobStatus,
    Option.isSome_none, if_neg Bool.false_ne_true, if_neg (Nat.not_le.2 hqueue), portStatus_none hport]
  rfl

/-- Check 1 of a COMMIT passes with the arguments in range and a buffer that is ready. -/
theorem commitArgStatus_none {a : CommitArgs} {buf : Buffer} (hk : keyValid a.key = true) (hcreate : a.create.toNat ≤ 1)
    (hcls : a.create = 1 → a.cls.toNat ≤ 7) (hlen : a.length ≤ 224) (hfilled : 1 ≤ a.length ∨ 1 ≤ buf.filled)
    (hbuf : buf.state ≠ .queued) : commitArgStatus a buf = none := by
  have hbad : ¬(keyValid a.key = false ∨ 1 < a.create.toNat ∨ a.create = 1 ∧ 7 < a.cls.toNat) := by
    rintro (hk' | hcreate' | ⟨h1, h7⟩)
    · rw [hk] at hk'
      cases hk'
    · exact Nat.not_lt.2 hcreate hcreate'
    · exact Nat.not_lt.2 (hcls h1) h7
  rw [commitArgStatus, if_neg hbad, if_neg (by omega), if_neg hbuf]

/-- A COMMIT for an existing entry that passes its checks is accepted. -/
theorem takeCommit_existing {s : State} {p : Port} {args : Bytes} {a : CommitArgs} {b : Fin 8} {i : Nat} {c : Cls}
    (h : s.takes p) (ha : commitArgs args = some a) (hb : ownBuffer p a.buffer = some b)
    (hargs : commitArgStatus a (s.buffers[b]) = none) (hi : s.activeIndex a.key = some i)
    (hc : (s.entry i).cls? = some c) (hf : (s.entry i).isFixed = false)
    (hheld : s.holdsActive (otherPort p) i = false) (hwrite : p = .m ∨ (s.policy c).sWriteOk = true)
    (hlen : commitLength a (s.buffers[b]) ≤ (s.policy c).maxLength.toNat) (hinhibit : s.inhibited c = false)
    (hroom : s.commitStatus p (s.waitingFor i) = none) :
    s.takeCommit p args = s.acceptCommit p (.existing i) a b := by
  rw [takeCommit_target h ha hb hargs (commitTarget_active hi), firstFailing_targetChecks hc, hf, hheld,
    entryStatus_none (permitsWrite_of hwrite) hlen hinhibit]
  simp only [Target.entry, hroom]
  rfl

/-- What the acceptance of a COMMIT that joins the queue leaves: the buffer is QUEUED beside what every job leaves. -/
theorem acceptCommit_existing_eq (s : State) (p : Port) (i : Nat) (a : CommitArgs) (b : Fin 8)
    (hwaits : s.waitingFor i = none) :
    s.acceptCommit p (.existing i) a b =
      { (s.raiseJobs i).enqueue p (.commit i a.key b (commitLength a (s.buffers[b])) a.expected) with
        buffers := s.buffers.set b { s.buffers[b] with state := .queued } } := by
  have hnone : (s.setBuffer b (s.buffers[b]).queued).coalesced i = none := coalesced_none_of_waitingFor hwaits
  simp only [State.acceptCommit, hnone]
  cases p <;> rfl

/-- Settles O26: for each of the four commands the checks pass, and the job joins the queue. -/
theorem entryJobsAreAccepted : Obligations.EntryJobsAreAccepted := by
  intro s p key i c h hk hi hf hheld hc hwrite hinhibit hwaits hqueue hport accepted
  have haccepts : ∀ (permitted : ClassPolicy → Bool) (body : JobBody), body.entry? = some i →
      permitted (s.policy c) = true → s.takeEntryJob p i permitted body = accepted body := fun permitted body hb hp =>
    (takeEntryJob_accepted hc hf hheld hp hinhibit hwaits hqueue hport).trans (raiseJobs_enqueue_eq s p i body hb)
  have hwrite' : permitsWrite p (s.policy c) = true := permitsWrite_of hwrite
  refine ⟨fun args a b ha hkey hcreate hcls hn hp hlen hfilled hbuf hmax => ?_, fun args a ha hkey ho hn hl hok => ?_,
    fun args expected ha hok => ?_, fun args ha => ?_⟩
  · subst hkey
    have hroom : s.commitStatus p (s.waitingFor i) = none := by
      rw [hwaits, State.commitStatus, if_neg (Nat.not_le.2 hqueue), portStatus_none hport]
    have htake := takeCommit_existing h ha (ownBuffer_of_port hn hp)
      (commitArgStatus_none hk hcreate hcls hlen hfilled hbuf) hi hc hf hheld hwrite hmax hinhibit hroom
    rw [acceptCommit_existing_eq s p i a b hwaits, raiseJobs_enqueue_eq s p i _ rfl] at htake
    exact congrArg Host.Outcome.next htake
  · subst hkey
    have hargs : patchArgStatus a = none := by
      rw [patchArgStatus, if_neg (by simp [hk, ho]), if_neg (Nat.not_lt.2 hn)]
    have hpermits : permitsPatch p (s.policy c) = true := by simp [permitsPatch, hok, hwrite']
    exact congrArg Host.Outcome.next
      ((takePatch_resolved h ha hargs hi (patchTooLong_eq_false hl)).trans (haccepts _ _ rfl hpermits))
  · have hpermits : permitsRetire p (s.policy c) = true := by simp [permitsRetire, hok, hwrite']
    exact congrArg Host.Outcome.next ((takeRetire_resolved h ha hk hi).trans (haccepts _ _ rfl hpermits))
  · exact congrArg Host.Outcome.next ((takeFix_resolved h ha hk hi).trans (haccepts _ _ rfl hwrite'))

/-! ### A COMMIT coalesces (R59) -/

/-- A job that names a buffer is a COMMIT. -/
theorem isCommit_of_buffer {b : JobBody} {buf : Fin 8} (h : b.buffer? = some buf) : b.kind = .commit := by
  cases b with
  | commit => rfl
  | patch | retire | fix | setup => cases h

/-- What a COMMIT that takes the place of another leaves (R51, R59). -/
theorem coalesce_touches (s : State) (p : Port) (body : JobBody) (old : Job) (buf : Fin 8)
    (hb : old.body.buffer? = some buf) :
    ∃ pm ps, s.coalesce p body old =
      { s with
        queue := s.startedJobs ++ s.waitingJobs.map (fun j => if j = old then s.newJob p body else j)
        buffers := s.buffers.set buf ⟨.empty, [], 0⟩
        portM := pm
        portS := ps } := by
  simp only [State.coalesce, State.emptyBufferOf, hb]
  exact ⟨_, _, rfl⟩

/-- The ports after a COMMIT took the place of another: the old job's record enters its port's list, and the new one is
accepted on its own. -/
theorem coalesce_port (s : State) (p : Port) (body : JobBody) (old : Job) (i : Nat) (buf : Fin 8)
    (hb : old.body.buffer? = some buf) (hi : body.entry? = some i) :
    ((s.coalesce p body old).port old.port).results =
        (s.port old.port).results ++ [old.record .superseded none false] ∧
      ((s.coalesce p body old).port p).slot = .ready .accepted ((s.port p).ticket :: be16 i) ∧
      ((s.coalesce p body old).port p).ticket = nextTicket (s.port p).ticket := by
  simp only [State.coalesce, State.emptyBufferOf, hb, hi]
  cases p <;> cases old.port <;> exact ⟨rfl, rfl, rfl⟩

/-- Settles O25: the checks pass, the not-started job that waits is a COMMIT, and what `coalesce` leaves is read off. -/
theorem commitCoalesces : Obligations.CommitCoalesces := by
  intro s p args a b i e c old oldBuffer h ha hk hcreate hn hp hlen hfilled hbuf hi he hf hheld hc hwrite hmax hinhibit
    hold hob hne hport
  subst he
  have hkind : old.body.kind = .commit := isCommit_of_buffer hob
  have hentry : old.body.entry? = some i := by simpa using List.find?_some hold
  have hcommit : old.body.isCommit = true := by rw [JobBody.isCommit, hkind]; rfl
  have hroom : s.commitStatus p (s.waitingFor i) = none := by
    rw [hold, State.commitStatus, if_neg (by simp [hcommit]), portStatus_none hport]
  have hargs : commitArgStatus a (s.buffers[b]) = none := by
    refine commitArgStatus_none hk ?_ (fun h1 => ?_) hlen hfilled hbuf
    · rw [hcreate]
      decide
    · rw [hcreate] at h1
      cases h1
  have htake := takeCommit_existing h ha (ownBuffer_of_port hn hp) hargs hi hc hf hheld hwrite hmax hinhibit hroom
  let u : State := s.setBuffer b (s.buffers[b]).queued
  let body : JobBody := .commit i a.key b (commitLength a (s.buffers[b])) a.expected
  have hcoalesced : u.coalesced i = some old := by
    have hwaits : u.waitingFor i = some old := hold
    simp only [State.coalesced, hwaits, hcommit, if_true]
  have haccept : s.acceptCommit p (.existing i) a b = u.coalesce p body old := by
    simp only [State.acceptCommit, u, hcoalesced, Target.entry]
    rfl
  obtain ⟨hresults, hslot, hticket⟩ := coalesce_port u p body old i oldBuffer hob rfl
  obtain ⟨pm, ps, htouches⟩ := coalesce_touches u p body old oldBuffer hob
  rw [haccept] at htake
  rw [htouches] at htake hresults hslot hticket
  refine ⟨_, congrArg Host.Outcome.next htake, rfl, ?_, ?_, hresults.trans ?_, hslot, hticket, rfl⟩
  · have hval : b.val ≠ oldBuffer.val := fun hv => hne (Fin.ext hv.symm)
    simp [u, State.setBuffer, Buffer.queued, hval.symm]
  · simp
  · rw [Job.record, hkind, hentry]
    rfl

/-! ### What a refused job command leaves (R55) -/

/-- What a job command can do to its port: it is accepted, or the port answers a refusal, sets OVERRUN, or takes no
frame. -/
inductive JobOutcome (s : State) (p : Port) (t : State) : Prop
  | accepted (d : Bytes) (h : (t.port p).slot = .ready .accepted d)
  | refused (st : Status) (h : t = s.refuse p st)
  | ignored (h : t = s.setFlag p .overrun)
  | held (h : t = s)

theorem jobOutcome_command {α : Type} (s : State) (p : Port) (args : Option α) {act : α → State}
    (h : ∀ a, JobOutcome s p (act a)) : JobOutcome s p (s.command p args act) := by
  unfold State.command State.arrive
  repeat' split
  · exact .held rfl
  · exact .ignored rfl
  · exact .refused _ rfl
  · exact .refused _ rfl
  · exact h _

theorem jobOutcome_unless (s : State) (p : Port) (failed : Option Status) {t : State} (h : JobOutcome s p t) :
    JobOutcome s p (s.unless p failed t) := by
  cases failed with
  | some st => exact .refused st rfl
  | none => exact h

theorem slot_enqueue (s : State) (p : Port) (body : JobBody) :
    ((s.enqueue p body).port p).slot = .ready .accepted ((s.port p).ticket :: indexBytes body.entry?) := by
  cases p <;> rfl

theorem slot_coalesce (s : State) (p : Port) (body : JobBody) (old : Job) :
    ∃ d, ((s.coalesce p body old).port p).slot = .ready .accepted d := by
  simp only [State.coalesce, port_modPort_same]
  exact ⟨_, rfl⟩

theorem jobOutcome_acceptCommit (s : State) (p : Port) (t : Target) (a : CommitArgs) (b : Fin 8) :
    JobOutcome s p (s.acceptCommit p t a b) := by
  cases t with
  | fresh i c => exact .accepted _ (slot_enqueue _ p _)
  | existing i =>
    simp only [State.acceptCommit]
    split
    · next old _ =>
      obtain ⟨d, hd⟩ := slot_coalesce (s.setBuffer b (s.buffers[b]).queued) p
        (.commit i a.key b (commitLength a (s.buffers[b])) a.expected) old
      exact .accepted d hd
    · exact .accepted _ (slot_enqueue _ p _)

theorem jobOutcome_takeEntryJob (s : State) (p : Port) (i : Nat) (permitted : ClassPolicy → Bool) (b : JobBody) :
    JobOutcome s p (s.takeEntryJob p i permitted b) :=
  jobOutcome_unless s p _ (.accepted _ (slot_enqueue _ p b))

theorem jobOutcome_takeCommit (s : State) (p : Port) (args : Bytes) : JobOutcome s p (s.takeCommit p args) := by
  refine jobOutcome_command s p _ fun a => ?_
  split
  · exact .refused _ rfl
  · refine jobOutcome_unless s p _ ?_
    split
    · exact .refused _ rfl
    · exact jobOutcome_unless s p _ (jobOutcome_acceptCommit s p _ a _)

theorem jobOutcome_takePatch (s : State) (p : Port) (args : Bytes) : JobOutcome s p (s.takePatch p args) := by
  refine jobOutcome_command s p _ fun a => jobOutcome_unless s p _ ?_
  repeat' split
  · exact .refused _ rfl
  · exact .refused _ rfl
  · exact jobOutcome_takeEntryJob s p _ _ _

theorem jobOutcome_takeRetire (s : State) (p : Port) (args : Bytes) : JobOutcome s p (s.takeRetire p args) := by
  refine jobOutcome_command s p _ fun a => ?_
  repeat' split
  · exact .refused _ rfl
  · exact jobOutcome_takeEntryJob s p _ _ _
  · exact .refused _ rfl

theorem jobOutcome_takeFix (s : State) (p : Port) (args : Bytes) : JobOutcome s p (s.takeFix p args) := by
  refine jobOutcome_command s p _ fun k => ?_
  repeat' split
  · exact .refused _ rfl
  · exact jobOutcome_takeEntryJob s p _ _ _
  · exact .refused _ rfl

theorem jobOutcome_takeSetupWrite (s : State) (p : Port) (args : Bytes) : JobOutcome s p (s.takeSetupWrite p args) :=
  jobOutcome_command s p _ fun _ => jobOutcome_unless s p _ (.accepted _ (slot_enqueue s p _))

/-- Without an ACCEPTED in its slot the port has changed in slot and flags alone, and the flags at most by OVERRUN. -/
theorem JobOutcome.changes_slot_and_flags {s t : State} {p : Port} (h : JobOutcome s p t)
    (hnot : ∀ d, (t.port p).slot ≠ .ready .accepted d) :
    t = s.modPort p (fun ps => { ps with slot := (t.port p).slot, flags := (t.port p).flags }) ∧
      ((t.port p).flags = (s.port p).flags ∨ (t.port p).flags = (s.port p).flags ||| 0x80#8) := by
  cases h with
  | accepted d h => exact absurd h (hnot d)
  | refused st h =>
    subst h
    cases p <;> exact ⟨rfl, .inl rfl⟩
  | ignored h =>
    subst h
    cases p <;> exact ⟨rfl, .inr rfl⟩
  | held h =>
    subst h
    cases p <;> exact ⟨rfl, .inl rfl⟩

/-! ### Which COMMIT and which PATCH is refused, and with what -/

/-- The refusals of a COMMIT that the port takes. -/
theorem commit_refusals {s : State} {p : Port} (h : s.takes p) (args : Bytes) (a : CommitArgs)
    (ha : commitArgs args = some a) (b : Fin 8) (hb : ownBuffer p a.buffer = some b) :
    (∀ st, commitArgStatus a (s.buffers[b]) = some st → s.takeCommit p args = s.refuse p st) ∧
    (commitArgStatus a (s.buffers[b]) = none →
      (s.activeIndex a.key = none → a.create = 0 →
        s.takeCommit p args = s.refuse p (if s.retiringList a.key = [] then .notFound else .gone)) ∧
      (s.activeIndex a.key = none → a.create = 1 → s.allocatable = none →
        s.takeCommit p args = s.refuse p .noEntry) ∧
      (∀ i c st, s.activeIndex a.key = none → a.create = 1 → s.allocatable = some i → clsOfByte a.cls = some c →
        (s.entryStatus false false (permitsWrite p (s.policy c)) c (commitLength a (s.buffers[b]))).or
          (s.commitStatus p (s.waitingFor i)) = some st → s.takeCommit p args = s.refuse p st) ∧
      (∀ i c st, s.activeIndex a.key = some i → (s.entry i).cls? = some c →
        (s.entryStatus (s.entry i).isFixed (s.holdsActive (otherPort p) i) (permitsWrite p (s.policy c)) c
          (commitLength a (s.buffers[b]))).or (s.commitStatus p (s.waitingFor i)) = some st →
            s.takeCommit p args = s.refuse p st)) := by
  refine ⟨fun st hst => takeCommit_badArgs h ha hb hst, fun hargs => ⟨fun hi hc => ?_, fun hi hc hnone => ?_,
    fun i c st hi hc hal hcls hst => ?_, fun i c st hi hc hst => ?_⟩⟩
  · exact takeCommit_unresolved h ha hb hargs (commitTarget_inactive hi hc)
  · exact takeCommit_unresolved h ha hb hargs (commitTarget_noEntry hi hc hnone)
  · rw [takeCommit_target h ha hb hargs (commitTarget_create hc hi hal hcls), State.targetChecks,
      firstFailing_entryChecks]
    simp only [Target.entry, hst, State.unless]
  · rw [takeCommit_target h ha hb hargs (commitTarget_active hi), firstFailing_targetChecks hc]
    simp only [Target.entry, hst, State.unless]

/-- The refusals of a PATCH that the port takes. -/
theorem patch_refusals {s : State} {p : Port} (h : s.takes p) (args : Bytes) (a : PatchArgs)
    (ha : patchArgs args = some a) :
    ((keyValid a.key = false ∨ 223 < a.offset) → s.takePatch p args = s.refuse p .badArg) ∧
    (keyValid a.key = true → a.offset ≤ 223 → 224 < a.offset + a.data.length →
      s.takePatch p args = s.refuse p .badLength) ∧
    (keyValid a.key = true → a.offset ≤ 223 → a.offset + a.data.length ≤ 224 →
      (s.activeIndex a.key = none →
        s.takePatch p args = s.refuse p (if s.retiringList a.key = [] then .notFound else .gone)) ∧
      (∀ i l, s.activeIndex a.key = some i → (s.entry i).body = .live l → l.length < a.offset + a.data.length →
        s.takePatch p args = s.refuse p .badArg) ∧
      (∀ i c st, s.activeIndex a.key = some i → (s.entry i).cls? = some c →
        (∀ l, (s.entry i).body = .live l → a.offset + a.data.length ≤ l.length) →
        (s.entryStatus (s.entry i).isFixed (s.holdsActive (otherPort p) i) (permitsPatch p (s.policy c)) c 0).or
          (s.jobStatus p (s.waitingFor i).isSome) = some st → s.takePatch p args = s.refuse p st)) := by
  refine ⟨fun hbad => takePatch_badArgs h ha (if_pos hbad), fun hk ho hn => takePatch_badArgs h ha ?_, fun hk ho hn => ?_⟩
  · rw [patchArgStatus, if_neg (by simp [hk, ho]), if_pos hn]
  · have hargs : patchArgStatus a = none := by
      rw [patchArgStatus, if_neg (by simp [hk, ho]), if_neg (Nat.not_lt.2 hn)]
    refine ⟨fun hi => takePatch_unresolved h ha hargs (resolve_inactive hi),
      fun i l hi hl hlong => takePatch_tooLong h ha hargs hi (patchTooLong_of_live hl hlong),
      fun i c st hi hc hl hst => ?_⟩
    exact (takePatch_resolved h ha hargs hi (patchTooLong_eq_false hl)).trans (takeEntryJob_refused hc hst)

/-- Settles O29: the frame by the outcomes of a job command, the statuses by the first check that fails. -/
theorem refusedJobChangesOnlySlot : Obligations.RefusedJobChangesOnlySlot := by
  refine ⟨fun s t p args c hc hx hnot => ?_, fun s p h => ?_⟩
  · have houtcome : JobOutcome s p t := by
      rcases hc with rfl | rfl | rfl | rfl | rfl <;> cases hx
      · exact jobOutcome_takeCommit s p args
      · exact jobOutcome_takePatch s p args
      · exact jobOutcome_takeRetire s p args
      · exact jobOutcome_takeFix s p args
      · exact jobOutcome_takeSetupWrite s p args
    exact houtcome.changes_slot_and_flags hnot
  · refine ⟨fun args a ha => ⟨fun hother => ?_, fun b hn hp => ?_⟩, fun args a ha => ?_,
      fun args key expected ha hk hi => ?_, fun args key ha hk hi => ?_⟩
    · have hnone : ownBuffer p a.buffer = none := by
        by_cases hlt : a.buffer.toNat < 8
        · exact ownBuffer_of_otherPort (b := ⟨a.buffer.toNat, hlt⟩) rfl (hother _ rfl)
        · exact ownBuffer_above (Nat.not_lt.1 hlt)
      exact congrArg Host.Outcome.next (takeCommit_otherBuffer h ha hnone)
    · obtain ⟨hbad, hgood⟩ := commit_refusals h args a ha b (ownBuffer_of_port hn hp)
      refine ⟨fun st hst => congrArg Host.Outcome.next (hbad st hst), fun hargs => ?_⟩
      obtain ⟨hinactive, hnoEntry, hfresh, hactive⟩ := hgood hargs
      exact ⟨fun hi hc => congrArg Host.Outcome.next (hinactive hi hc),
        fun hi hc hal => congrArg Host.Outcome.next (hnoEntry hi hc hal),
        fun i c st hi hc hal hcls hst => congrArg Host.Outcome.next (hfresh i c st hi hc hal hcls hst),
        fun i c st hi hc hst => congrArg Host.Outcome.next (hactive i c st hi hc hst)⟩
    · obtain ⟨hbad, hlong, hgood⟩ := patch_refusals h args a ha
      refine ⟨fun hb => congrArg Host.Outcome.next (hbad hb),
        fun hk ho hn => congrArg Host.Outcome.next (hlong hk ho hn), fun hk ho hn => ?_⟩
      obtain ⟨hinactive, hpast, hactive⟩ := hgood hk ho hn
      exact ⟨fun hi => congrArg Host.Outcome.next (hinactive hi),
        fun i l hi hl hn => congrArg Host.Outcome.next (hpast i l hi hl hn),
        fun i c st hi hc hl hst => congrArg Host.Outcome.next (hactive i c st hi hc hl hst)⟩
    · exact congrArg Host.Outcome.next (takeRetire_unresolved h ha hk (resolve_inactive hi))
    · exact congrArg Host.Outcome.next (takeFix_unresolved h ha hk (resolve_inactive hi))

end Sys2Proof.Machine
end

section
/-! The start of a host job (3.4): a job that fails a start check completes at once, one that passes them is granted the
first array step of its sequence. -/

namespace Sys2Proof.Machine

/-! ### What a completion leaves of the entry (R10, R12) -/

/-- The jobs count of every entry after a completion (R12). -/
theorem completeJob_jobs (s : State) (j : Job) (r : JobResult) (g : Option Gen) (x : Bool) (i : Nat) :
    ((s.completeJob j r g x).entry i).jobs = (s.entry i).jobs - if j.body.entry? = some i then 1 else 0 := by
  let popped : State := { s with queue := s.queue.drop 1, work := .idle }.pushResult j.port (j.record r g x)
  obtain ⟨bs, hb⟩ := emptyBufferOf_touches popped j.body
  have hlowered := lowerJobsOf_jobs (popped.emptyBufferOf j.body) j.body i
  refine ((lawFrame_freeNascent ((popped.emptyBufferOf j.body).lowerJobsOf j.body) j.body r).1.jobs i).trans ?_
  rw [hlowered, hb]
  rfl

/-- A COMMIT that completes with another result than DONE frees its NASCENT entry (R10, R13). -/
theorem completeJob_frees_nascent (s : State) (j : Job) (r : JobResult) (g : Option Gen) (x : Bool) {i : Nat} {k : Key}
    {c : Cls} {p : Option Nat} {n : Nat} (hi : j.body.entry? = some i) (hc : j.body.isCommit = true) (hr : r ≠ .done)
    (he : s.entry i = ⟨.nascent k c, p, n⟩) :
    (s.completeJob j r g x).entry i = ⟨.free, p.filter (fun q => !s.isBad q), n - 1⟩ := by
  let popped : State := { s with queue := s.queue.drop 1, work := .idle }.pushResult j.port (j.record r g x)
  obtain ⟨bs, hb⟩ := emptyBufferOf_touches popped j.body
  have hlowered : ((popped.emptyBufferOf j.body).lowerJobsOf j.body).entry i = ⟨.nascent k c, p, n - 1⟩ := by
    have hentry : (popped.emptyBufferOf j.body).entry i = ⟨.nascent k c, p, n⟩ := by rw [hb]; exact he
    simp only [State.lowerJobsOf, hi, State.lowerJobs, entry_setEntry_same, hentry]
  have hbad : ∀ q, ((popped.emptyBufferOf j.body).lowerJobsOf j.body).isBad q = s.isBad q := by
    intro q
    rw [hb, State.lowerJobsOf, hi]
    rfl
  have hfreed : ((popped.emptyBufferOf j.body).lowerJobsOf j.body).freeNascent j.body r =
      ((popped.emptyBufferOf j.body).lowerJobsOf j.body).freeEntry i := by
    simp only [State.freeNascent, hi, hlowered, hc, true_and, if_pos hr]
  show (State.freeNascent _ j.body r).entry i = _
  rw [hfreed, freeEntry_entry_same, hlowered]
  simp only [hbad]

/-! ### Start checks (Table 3-6) -/

theorem firstFailing_mem {α : Type} {checks : List (Bool × α)} {r : α} (h : firstFailing checks = some r) :
    (true, r) ∈ checks := by
  induction checks with
  | nil => cases h
  | cons x rest ih =>
    obtain ⟨fails, st⟩ := x
    cases fails
    · exact List.mem_cons_of_mem _ (ih h)
    · cases h
      exact List.mem_cons_self

/-- No start check fails with DONE. -/
theorem startChecks_ne_done {s : State} {b : JobBody} {r : JobResult} (h : firstFailing (s.startChecks b) = some r) :
    r ≠ .done := by
  rintro rfl
  have hmem := firstFailing_mem h
  unfold State.startChecks at hmem
  split at hmem <;> simp at hmem

/-- The start checks of a COMMIT or RETIRE of a LIVE entry: fixed, expected generation, class inhibited (R63). -/
theorem startChecks_of_live {s : State} {i : Nat} {l : Live} {p : Option Nat} {n : Nat} {body : JobBody}
    {expected : Gen} (he : s.entry i = ⟨.live l, p, n⟩)
    (hb : (∃ k b len, body = .commit i k b len expected) ∨ ∃ k, body = .retire i k expected) :
    firstFailing (s.startChecks body) =
      if l.fixed = true then some .locked
      else if expected ≠ 0 ∧ expected ≠ l.gen then some .staleGen
      else if s.inhibited l.cls = true then some .inhibited
      else none := by
  have hlist : s.startChecks body =
      [(false, .gone), (l.fixed, .locked), (expected != 0 && some l.gen != some expected, .staleGen),
        (s.inhibited l.cls, .inhibited), (false, .staleGen)] := by
    rcases hb with ⟨k, b, len, rfl⟩ | ⟨k, rfl⟩ <;>
      (simp only [State.startChecks, State.classOf, JobBody.entry?, he]; rfl)
  have hgen : (expected != 0 && some l.gen != some expected) = true ↔ expected ≠ 0 ∧ expected ≠ l.gen := by
    simp [ne_comm (a := l.gen)]
  simp only [hlist, firstFailing, hgen, Bool.false_eq_true, if_false]

/-! ### The engine takes the oldest job (R61) -/

section

variable {s : State} {j : Job} {rest : List Job}

theorem exec_jobStart (h : s.engineFree) (hr : s.recovery = []) (hq : s.queue = j :: rest) :
    exec .jobStart s = .next (s.startJob j).grant := by
  obtain ⟨hp, hw, -⟩ := h
  have hmay : s.mayChoose = true := by simp [State.mayChoose, hp, hw]
  simp only [exec, execJobStart, State.jobStarts, hmay, hr, hq]

/-- A completion leaves a free array free. -/
theorem arrayFree_completeJob (hf : s.arrayFree) (r : JobResult) (g : Option Gen) (x : Bool) :
    (s.completeJob j r g x).arrayFree := by
  rw [State.arrayFree, (completeJob_arb_census s j r g x).1]
  exact hf

/-- A job that fails a start check completes, and nobody is granted the array (R62). -/
theorem jobStart_fails (h : s.engineFree) (hr : s.recovery = []) (hq : s.queue = j :: rest) {r : JobResult}
    (hf : firstFailing (s.startChecks j.body) = some r) :
    exec .jobStart s = .next (s.completeJob j r none false) := by
  obtain ⟨-, -, hfree⟩ := id h
  rw [exec_jobStart h hr hq, State.startJob, hf]
  exact congrArg Host.Outcome.next (grant_free _ (arrayFree_completeJob hfree r none false))

/-- A job that passes its start checks begins its sequence. -/
theorem jobStart_passes (h : s.engineFree) (hr : s.recovery = []) (hq : s.queue = j :: rest)
    (hf : firstFailing (s.startChecks j.body) = none) : exec .jobStart s = .next (s.startSequence j).grant := by
  rw [exec_jobStart h hr hq, State.startJob, hf]

/-- A sequence whose first claim is made at once is granted its first step. -/
theorem jobStart_claims (h : s.engineFree) (hr : s.recovery = []) (hq : s.queue = j :: rest)
    (hf : firstFailing (s.startChecks j.body) = none) {w : Work} {step : EngineStep}
    (hs : s.startSequence j = s.claims w step) : exec .jobStart s = .next (s.atStep w step) := by
  obtain ⟨-, -, hfree⟩ := id h
  rw [jobStart_passes h hr hq hf, hs, grant_claims s w step hfree]

end

/-- Settles O45: the completion by `completeJob`, and the checks of a LIVE entry read off. -/
theorem failedStartCheckCompletes : Obligations.FailedStartCheckCompletes := by
  refine ⟨fun s j rest r h hr hq hf => ?_, fun s i l p n body expected he hb => startChecks_of_live he hb⟩
  obtain ⟨hwork, hqueue, hresults, -, hbuf⟩ := completeJob_facts s j rest r none false hq
  obtain ⟨hgranules, hmarks, -⟩ := same_completeJob s j r none false
  obtain ⟨harb, hcensus⟩ := completeJob_arb_census s j r none false
  refine ⟨_, jobStart_fails h hr hq hf, hqueue, hwork, hresults, hbuf, fun i hi => ?_,
    fun i k c p n hi hc he hgood => ?_, hgranules, hmarks, hcensus, harb⟩
  · rw [completeJob_jobs, if_pos hi]
  · rw [completeJob_frees_nascent s j r none false hi hc (startChecks_ne_done hf) he]
    simp [hgood]

/-! ### What a COMMIT sets out to write (R51, R64, R66) -/

/-- The payload of a COMMIT holds the buffer's bytes up to the length, and FFH past it. -/
theorem byteAt_bufferPayload (buf : Buffer) (len g pos : Nat) (h1 : 1 ≤ g) (h7 : g ≤ 7) (hp : pos < 32) :
    byteAt ((bufferPayload buf len).getD (g - 1) (BitVec.allOnes 256)) pos =
      if 32 * (g - 1) + pos < len then buf.byte (32 * (g - 1) + pos) else 0xFF#8 := by
  have hlt : g - 1 < 7 := by omega
  have hgranule : (bufferPayload buf len).getD (g - 1) (BitVec.allOnes 256) =
      dataOfBytes ((((List.range len).map buf.byte).drop (32 * (g - 1))).take 32) := by
    simp [bufferPayload, payloadOf, List.getD_eq_getElem?_getD, hlt]
  rw [hgranule, byteAt_dataOfBytes _ _ hp]
  by_cases hlen : 32 * (g - 1) + pos < len <;>
    simp [List.getD_eq_getElem?_getD, hp, hlen]

/-- What a COMMIT is to write to a LIVE entry, its pair and cell still to be chosen. -/
theorem commitJob_of_live {s : State} {i p n : Nat} {l : Live} (he : s.entry i = ⟨.live l, some p, n⟩) (len : Nat)
    (payload : List Data) :
    s.writeJobFor i len payload =
      ⟨i, l.key, l.cls, nextGen l.gen, len, payload, some (p, l.cell), s.isBad p, 0, .a, false, []⟩ := by
  simp only [State.writeJobFor, State.classOf, stranded_of_live s i he, he]
  rfl

/-- What the first COMMIT is to write. -/
theorem commitJob_of_nascent {s : State} {i n : Nat} {k : Key} {c : Cls} {p : Option Nat}
    (he : s.entry i = ⟨.nascent k c, p, n⟩) (len : Nat) (payload : List Data) :
    s.writeJobFor i len payload = ⟨i, k, c, 1, len, payload, none, false, 0, .a, false, []⟩ := by
  simp only [State.writeJobFor, State.classOf, State.stranded, he]
  rfl

/-- What a COMMIT is to write to an entry whose pair is NONE or BAD: it is stranded when it is LIVE on a pair. -/
theorem commitJob_unusable {s : State} {i : Nat} {key : Key} {c : Cls} (hk : (s.entry i).key? = some key)
    (hc : (s.entry i).cls? = some c) (hp : (s.entry i).pair = none ∨ ∃ p, (s.entry i).pair = some p ∧ s.isBad p = true)
    (len : Nat) (payload : List Data) :
    s.writeJobFor i len payload =
      ⟨i, key, c, (s.entry i).nextGen, len, payload, (s.entry i).oldCell,
        (s.entry i).isLive && (s.entry i).pair.isSome, 0, .a, false, []⟩ := by
  have hstranded : s.stranded i = ((s.entry i).isLive && (s.entry i).pair.isSome) := by
    rcases hp with hnone | ⟨p, hsome, hbad⟩
    · simp [State.stranded, hnone]
    · simp [State.stranded, hsome, hbad]
  simp only [State.writeJobFor, State.classOf, hk, hc, Option.getD_some, hstranded]

/-- A write of an entry with a usable pair begins on its idle cell (R64). -/
theorem startWrite_usable {s : State} {i p : Nat} (h : s.usablePair i = some p) (job : Option Job) (len : Nat)
    (payload : List Data) :
    s.startWrite job i len payload =
      s.writeClassify job { s.writeJobFor i len payload with pair := p, cell := (s.entry i).idleCell }
        Classifying.start := by
  simp only [State.startWrite, h]

theorem startWrite_unusable {s : State} {i : Nat} (h : s.usablePair i = none) (job : Option Job) (len : Nat)
    (payload : List Data) : s.startWrite job i len payload = s.writeOnSpare job (s.writeJobFor i len payload) := by
  simp only [State.startWrite, h]

theorem usablePair_of_good {s : State} {i p n : Nat} {b : EntryBody} (he : s.entry i = ⟨b, some p, n⟩)
    (hgood : s.isBad p = false) : s.usablePair i = some p := by
  simp [State.usablePair, he, hgood]

theorem usablePair_eq_none {s : State} {i : Nat}
    (hp : (s.entry i).pair = none ∨ ∃ p, (s.entry i).pair = some p ∧ s.isBad p = true) : s.usablePair i = none := by
  rcases hp with hnone | ⟨p, hsome, hbad⟩
  · simp [State.usablePair, hnone]
  · simp [State.usablePair, hsome, hbad]

/-- A write goes to cell A of the lowest free spare (R99). -/
theorem writeOnSpare_takes {s : State} {p : Nat} {rest : List Nat} (hp : s.pool = p :: rest) (job : Option Job)
    (w : WriteJob) :
    s.writeOnSpare job w =
      (s.withSpare p rest).writeClassify job { w with pair := p, cell := .a, spare := true } Classifying.start := by
  simp only [State.writeOnSpare, takeSpare_cons hp]

/-- Without a free spare, and no pair having failed, the job ends with NO_SPARE (R106). -/
theorem writeOnSpare_exhausted {s : State} (hp : s.pool = []) (job : Option Job) {w : WriteJob} (hw : w.failed = []) :
    s.writeOnSpare job w = s.writeNoSpare job w := by
  simp only [State.writeOnSpare, State.takeSpare, hp, State.exhaustCells, hw]
  rfl

/-! ### The first steps of the sequences -/

section

variable {s : State} {j : Job} {rest : List Job}

/-- A COMMIT of an entry with a usable pair is granted the header read of its idle cell. -/
theorem commit_starts_onPair (h : s.engineFree) (hr : s.recovery = []) (hq : s.queue = j :: rest)
    (hf : firstFailing (s.startChecks j.body) = none) {i : Nat} {k : Key} {b : Fin 8} {len p : Nat} {g : Gen}
    (hb : j.body = .commit i k b len g) (hu : s.usablePair i = some p) {w : WriteJob}
    (hw : { s.writeJobFor i len (bufferPayload (s.buffers[b]) len) with pair := p, cell := (s.entry i).idleCell } = w) :
    exec .jobStart s =
      .next (s.atStep (.write (some j) w (.classify ⟨0, ⟨0, 0, 0⟩, true⟩)) (.read w.loc 0 w.classifyEntry)) := by
  refine jobStart_claims h hr hq hf ?_
  rw [State.startSequence, hb]
  exact (startWrite_usable hu _ _ _).trans (by rw [hw]; rfl)

/-- A COMMIT of an entry without a usable pair looks for a spare. -/
theorem commit_starts_onSpare (h : s.engineFree) (hr : s.recovery = []) (hq : s.queue = j :: rest)
    (hf : firstFailing (s.startChecks j.body) = none) {i : Nat} {k : Key} {b : Fin 8} {len : Nat} {g : Gen}
    (hb : j.body = .commit i k b len g) (hu : s.usablePair i = none) {w : WriteJob}
    (hw : s.writeJobFor i len (bufferPayload (s.buffers[b]) len) = w) :
    exec .jobStart s = .next (s.writeOnSpare (some j) w).grant := by
  rw [jobStart_passes h hr hq hf, State.startSequence, hb]
  exact congrArg (fun t : State => Host.Outcome.next t.grant) ((startWrite_unusable hu _ _ _).trans (by rw [hw]))

/-- On a free array the spare is reserved, and the header read of its cell A granted. -/
theorem writeOnSpare_grant (hfree : s.arrayFree) {p : Nat} {left : List Nat} (hp : s.pool = p :: left)
    (job : Option Job) (w : WriteJob) :
    (s.writeOnSpare job w).grant =
      (s.withSpare p left).atStep (.write job { w with pair := p, cell := .a, spare := true }
        (.classify ⟨0, ⟨0, 0, 0⟩, true⟩)) (.read (Loc.num p .a) 0 none) := by
  have hfree' : (s.withSpare p left).arrayFree := by
    obtain ⟨fm, fs, h⟩ := withSpare_touches s p left
    rw [h]
    exact hfree
  rw [writeOnSpare_takes hp, State.writeClassify, grant_claims _ _ _ hfree']
  rfl

/-- Without a free spare the COMMIT completes with NO_SPARE, and nobody is granted the array. -/
theorem writeOnSpare_grant_exhausted (hfree : s.arrayFree) (hp : s.pool = []) {w : WriteJob} (hw : w.failed = []) :
    (s.writeOnSpare (some j) w).grant = s.completeJob j .noSpare none false := by
  rw [writeOnSpare_exhausted hp _ hw]
  exact grant_free _ (arrayFree_completeJob hfree _ _ _)

end

/-- Settles O44: for each kind of job its sequence claims its first step, a COMMIT on its pair or on a spare. -/
theorem jobStartsItsFirstStep : Obligations.JobStartsItsFirstStep := by
  intro s j rest h hr hq hf starts holds
  obtain ⟨-, -, hfree⟩ := id h
  refine ⟨fun i k b len g l p n hb he hgood => ?_, fun i k b len g k' c p n hb he hgood => ?_,
    fun i k b len g key c hb hk hc hp => ?_, fun i k off d g l p n hb he => ?_, fun i k g l p n hb he => ?_,
    fun i k l p n hb he => ?_, fun c f idle hb hidle => ?_⟩
  · refine ⟨_, byteAt_bufferPayload (s.buffers[b]) len, ?_⟩
    refine commit_starts_onPair h hr hq hf hb (usablePair_of_good he hgood) ?_
    rw [commitJob_of_live he, hgood, he]
    rfl
  · refine ⟨_, byteAt_bufferPayload (s.buffers[b]) len, ?_⟩
    refine commit_starts_onPair h hr hq hf hb (usablePair_of_good he hgood) ?_
    rw [commitJob_of_nascent he, he]
    rfl
  · have hx := commit_starts_onSpare h hr hq hf hb (usablePair_eq_none hp) (commitJob_unusable hk hc hp _ _)
    refine ⟨fun q left hpool => ?_, fun hpool => ?_⟩
    · obtain ⟨fm, fs, htouches⟩ := withSpare_touches s q left
      rw [writeOnSpare_grant hfree hpool, htouches] at hx
      exact ⟨_, _, hx, byteAt_bufferPayload (s.buffers[b]) len, rfl, rfl, rfl, rfl, rfl⟩
    · rw [writeOnSpare_grant_exhausted hfree hpool rfl] at hx
      obtain ⟨hgranules, hmarks, -⟩ := same_completeJob s j .noSpare none false
      exact ⟨_, hx, completeJob_facts s j rest .noSpare none false hq, hgranules, hmarks⟩
  · refine jobStart_claims h hr hq hf ?_
    simp only [State.startSequence, hb, oldCell_of_live he]
    rfl
  · refine jobStart_claims h hr hq hf ?_
    simp only [State.startSequence, hb, oldCell_of_live he]
    rfl
  · refine jobStart_claims h hr hq hf ?_
    simp only [State.startSequence, hb, oldCell_of_live he]
    rfl
  · refine jobStart_claims h hr hq hf ?_
    have hcell : s.setup.idleCell = idle := by
      rcases hidle with hsome | ⟨hnone, rfl⟩
      · rw [SetupStore.idleCell, hsome]
        cases idle <;> rfl
      · rw [SetupStore.idleCell, hnone]
    have hnone : s.setup.currentCell.isNone = decide (s.setup.currentCell = none) := by
      cases s.setup.currentCell <;> rfl
    simp only [State.startSequence, hb, State.startSetup, hcell, hnone]
    rfl

end Sys2Proof.Machine
end

section
/-! The sequence of a COMMIT or REFRESH (Figure 3-1): what it programs, the ends of its array steps up to the commit mark,
and the failures of the pair. -/

namespace Sys2Proof.Machine

/-! ### What the job programs (R27, R66) -/

/-- The data granule after a granule: the lowest of the record's that is not all FFH. -/
theorem following_eq_some (w : WriteJob) (g k : Nat) :
    w.following g = some k ↔
      g < k ∧ 1 ≤ k ∧ k ≤ 1 + (w.length - 1) / 32 ∧ w.granule k ≠ BitVec.allOnes 256 ∧
        ∀ k', g < k' → k' < k → 1 ≤ k' → w.granule k' = BitVec.allOnes 256 := by
  rw [WriteJob.following, WriteJob.dataGranules, List.find?_filter, granuleSpan, List.find?_range'_eq_some]
  simp only [erasedData, lastGranule, List.mem_range'_1, bne_iff_ne, ne_eq, Bool.not_eq_true', Bool.not_eq_false',
    Bool.decide_and, Bool.and_eq_true, decide_not, decide_eq_true_iff, decide_eq_false_iff_not, Bool.and_eq_false_iff]
  constructor
  · rintro ⟨⟨hdata, hlt⟩, ⟨h1, h2⟩, hskip⟩
    exact ⟨hlt, h1, by omega, hdata, fun k' hg hk h => (hskip k' h hk).resolve_right (absurd hg)⟩
  · rintro ⟨hlt, h1, h2, hdata, hskip⟩
    refine ⟨⟨hdata, hlt⟩, ⟨h1, by omega⟩, fun k' h hk => ?_⟩
    by_cases hg : g < k'
    · exact Or.inl (hskip k' hg hk h)
    · exact Or.inr hg

/-- A header granule holds its ten field bytes. -/
theorem byteAt_headerData (key : Key) (entry : Nat) (cls : Cls) (gen : Gen) (length pos : Nat) (h : pos < 32) :
    byteAt (headerData key entry cls gen length) pos =
      (be32 key ++ be16 entry ++ [BitVec.ofNat 8 cls.val] ++ be16 gen.toNat ++ [BitVec.ofNat 8 length]).getD pos 0xFF#8 :=
  byteAt_dataOfBytes _ pos h

/-- The header granule programmed is read back as the header with its fields (R27, R66). -/
theorem headerOf_headerData (key : Key) (entry : Nat) (cls : Cls) (gen : Gen) (length : Nat)
    (hkey : keyValid key = true) (hentry : entry ≤ 511) (hgen : gen ≠ 0) (h1 : 1 ≤ length) (h224 : length ≤ 224) :
    headerOf (.clean, headerData key entry cls gen length) = some ⟨key, entry, cls, gen, length⟩ := by
  obtain ⟨hzero, hones⟩ := (keyValid_iff key).1 hkey
  have hbyte := fun pos h => byteAt_headerData key entry cls gen length pos h
  refine headerOf_valid _ key entry cls gen length (Or.inl rfl) ?_ ?_ ?_ ?_ ?_ ?_
    ⟨hzero, hones, hentry, hgen, h1, h224⟩
  · rw [hbyte 0 (by decide), hbyte 1 (by decide), hbyte 2 (by decide), hbyte 3 (by decide)]
    exact word32_be32 key
  · rw [hbyte 4 (by decide), hbyte 5 (by decide)]
    exact word16_be16 entry (by omega)
  · rw [hbyte 6 (by decide), clsOfByte_eq_some]
    show (BitVec.ofNat 8 cls.val).toNat = cls.val
    have hcls := cls.isLt
    rw [BitVec.toNat_ofNat]
    omega
  · rw [hbyte 7 (by decide), hbyte 8 (by decide)]
    exact BitVec.eq_of_toNat_eq (word16_be16 gen.toNat gen.isLt)
  · rw [hbyte 9 (by decide)]
    show (BitVec.ofNat 8 length).toNat = length
    rw [BitVec.toNat_ofNat]
    omega
  · refine extractLsb'_ones _ 10 22 rfl fun k h10 h32 => ?_
    rw [hbyte k h32, List.getD_eq_getElem?_getD, List.getElem?_eq_none (by simpa [be32, be16] using h10)]
    rfl

/-! ### The ends of the array steps (R65 to R68) -/

section

variable {s : State} {job : Option Job} {w : WriteJob} {st : WriteStep} {l : Loc}

/-- The end of a mark program: the sequence advances by whether the mark took. -/
theorem exec_writeMarked {m : BitVec 12} (us : List Upset) (hs : s.engineAlone (.mark l m))
    (hw : s.work = .write job w st) :
    exec (.markProgramEnd us) s =
      .next (((s.markEnded l m us).release.writeMarked job w st ((s.markEnded l m us).marksTook l m)).stepBoundary) := by
  have hwork : (s.markEnded l m us).release.work = .write job w st := (stepLeaves_markEnded s l m us 0).work.trans hw
  rw [exec_markProgramEnd s l m us hs, State.afterMark, hwork]

/-- The end of a cell erase: the sequence advances by whether the whole cell is erased. -/
theorem exec_writeErased (us : List Upset) (hs : s.engineAlone (.erase l)) (hw : s.work = .write job w st) :
    exec (.cellEraseEnd us) s =
      .next (((s.eraseEnded l us).release.writeErased job w st ((s.eraseEnded l us).eraseTook l)).stepBoundary) := by
  have hwork : (s.eraseEnded l us).release.work = .write job w st :=
    (stepLeaves_of_arrayOnly (arrayOnly_eraseEnded s l us) 0).work.trans hw
  rw [exec_cellEraseEnd s l us hs, State.afterErase, hwork]

/-- The end of a granule program. -/
theorem exec_writeProgrammed {g : Nat} {d : Data} (us : List Upset) (hs : s.engineAlone (.program l g d))
    (hw : s.work = .write job w st) :
    exec (.granuleProgramEnd us) s =
      .next (((s.programEnded l g d us).release.writeProgrammed job w st).stepBoundary) := by
  have hwork : (s.programEnded l g d us).release.work = .write job w st :=
    (stepLeaves_programEnded s l g d us 0).work.trans hw
  rw [exec_granuleProgramEnd s l g d us hs, State.afterProgram, hwork]

/-- The end of a granule read for an entry. -/
theorem exec_writeRead {g i : Nat} (us : List Upset) (hs : s.engineAlone (.read l g (some i)))
    (hw : s.work = .write job w st) :
    exec (.engineReadEnd us) s =
      .next (((s.readEnded l g (some i) us).release.writeRead job w st (s.engineReads l g us)).stepBoundary) := by
  have hwork : (s.readEnded l g (some i) us).release.work = .write job w st :=
    (stepLeaves_readEnded s l g i us).work.trans hw
  rw [exec_engineReadEnd s l g (some i) us hs, State.afterRead, hwork]

/-- The cell to write is classified as R32 says; an erased one is written, any other erased first (R65). -/
theorem write_classifies (s : State) (job : Option Job) (w : WriteJob) :
    classificationRuns s w.loc (if w.spare = true then none else some w.entry)
      (fun c => .write job w (.classify c)) (.write job w .header, .program w.loc 0 w.header)
      (.write job w .erase, .erase w.loc) :=
  classificationRuns_of s w.loc _ _ _ _ (fun r => (headerOf r).isSome) fun t c r hw => by
    rw [State.afterRead, hw]
    rfl

/-- The end of the erase of the cell to write (R65, R102). -/
theorem write_erase_ends (us : List Upset) (hs : s.engineAlone (.erase w.loc)) (hw : s.work = .write job w .erase) :
    let after := s.eraseEnded w.loc us
    (after.cellErased w.loc →
      exec (.cellEraseEnd us) s = .next (after.atStep (.write job w .header) (.program w.loc 0 w.header))) ∧
    (¬after.cellErased w.loc → pairFailed (.cellEraseEnd us) s after job w) := by
  intro after
  have hx := exec_writeErased us hs hw
  obtain ⟨g, k, ha⟩ : ∃ g k, after = { s with granules := g, marks := k } := eraseEnded_touches s w.loc us
  refine ⟨fun h => goesTo_of hs (eraseEnded_arb s w.loc us) ?_, fun h => ?_⟩
  · rw [hx, (eraseTook_iff _ _).2 h]
    rfl
  · refine pairFailed_of _ s after job w _ hs (by rw [ha]) (by rw [ha]) (by rw [ha]) (by rw [ha]) (by rw [ha]) ?_
    rw [hx, Bool.eq_false_iff.2 fun ht => h ((eraseTook_iff _ _).1 ht)]
    rfl

/-- After a granule program the next data granule is programmed, or the verify reads begin (R66, R67). -/
theorem write_data_continues {g g' : Nat} {d : Data} (us : List Upset) (hs : s.engineAlone (.program l g d))
    (hx : exec (.granuleProgramEnd us) s =
      .next (((s.programEnded l g d us).release.writeData job w g').stepBoundary)) :
    let next : Work × EngineStep := match w.following g' with
      | some k => (.write job w (.data k), .program w.loc k (w.granule k))
      | none => (.write job w (.verify 0), .read w.loc 0 (some w.entry))
    exec (.granuleProgramEnd us) s = .next ((s.programEnded l g d us).atStep next.1 next.2) := by
  intro next
  refine goesTo_of hs (programEnded_arb s l g d us) (hx.trans ?_)
  unfold State.writeData
  cases hf : w.following g' <;> simp only [next, hf, State.writeVerify]

/-- The end of a verify read (R67, R68, R102). -/
theorem write_verify_ends {g : Nat} (us : List Upset) (hs : s.engineAlone (.read w.loc g (some w.entry)))
    (hw : s.work = .write job w (.verify g)) :
    let after := s.readEnded w.loc g (some w.entry) us
    (∀ k, s.engineReads w.loc g us = (.clean, w.content g) → w.following g = some k →
      exec (.engineReadEnd us) s =
        .next (after.atStep (.write job w (.verify k)) (.read w.loc k (some w.entry)))) ∧
    (s.engineReads w.loc g us = (.clean, w.content g) → w.following g = none →
      exec (.engineReadEnd us) s =
        .next (after.atStep (.write job w .commitMark) (.mark w.loc (markBit .commit)))) ∧
    (s.engineReads w.loc g us ≠ (.clean, w.content g) → pairFailed (.engineReadEnd us) s after job w) := by
  intro after
  have hx := exec_writeRead us hs hw
  have harb : after.arb = s.arb := readEnded_arb s w.loc g (some w.entry) us
  refine ⟨fun k hread hf => goesTo_of hs harb ?_, fun hread hf => goesTo_of hs harb ?_, fun hread => ?_⟩
  · simp only [hx, State.writeRead, (verified_iff _ _).2 hread, hf, if_true]
    rfl
  · simp only [hx, State.writeRead, (verified_iff _ _).2 hread, hf, if_true]
    rfl
  · obtain ⟨x, k, es, rl, fm, fs, c, ha⟩ := readEnded_touches s w.loc g (some w.entry) us
    refine pairFailed_of _ s after job w _ hs harb (by simp only [after, ha]) (by simp only [after, ha])
      (by simp only [after, ha]) (by simp only [after, ha]) ?_
    rw [hx, State.writeRead, if_neg fun h => hread ((verified_iff _ _).1 h)]

/-- The commit mark that does not take fails the pair (R68, R102). -/
theorem write_commitMark_fails (us : List Upset) (hs : s.engineAlone (.mark w.loc (markBit .commit)))
    (hw : s.work = .write job w .commitMark) :
    let after := s.markEnded w.loc (markBit .commit) us
    ¬after.marksStand w.loc (markBit .commit) → pairFailed (.markProgramEnd us) s after job w := by
  intro after h
  obtain ⟨g, k, ha⟩ : ∃ g k, after = { s with granules := g, marks := k } :=
    markEnded_touches s w.loc (markBit .commit) us
  refine pairFailed_of _ s after job w _ hs (by rw [ha]) (by rw [ha]) (by rw [ha]) (by rw [ha]) (by rw [ha]) ?_
  rw [exec_writeMarked us hs hw, Bool.eq_false_iff.2 fun ht => h ((marksTook_iff _ _ _).1 ht)]
  rfl

end

/-! ### A CLEAN read changes nothing but the array's own bits -/

/-- A CLEAN report acts on nothing (Table 6-1). -/
theorem report_clean (s : State) (place : Location) : s.report ⟨.clean, place⟩ = s := by
  have hentry : s.reportEntry ⟨.clean, place⟩ = s := by
    unfold State.reportEntry
    split
    · rfl
    · split <;> rfl
  have hcapture : s.capture.take ⟨.clean, place⟩ = s.capture := rfl
  rw [State.report, hcapture, hentry, State.reportEvent, if_neg (by simp)]

/-- Settles O48: the end of a verify read, for a cell of which no bit changes of itself. -/
theorem verifyDecidesCommitMark : Obligations.VerifyDecidesCommitMark := by
  intro s job w g hs hw hf
  obtain ⟨-, hpass, hfail⟩ := write_verify_ends [] hs hw
  obtain ⟨hgranules, hmarks, -⟩ := same_report s ⟨(s.readGranule w.loc g).1, w.loc, g, some w.entry, .engine⟩
  refine ⟨fun hread => ?_, fun p rest hread hpool => ?_⟩
  · have hafter : s.readEnded w.loc g (some w.entry) [] = s := by
      show s.report ⟨(s.readGranule w.loc g).1, _⟩ = s
      rw [hread]
      exact report_clean s _
    have hx := hpass hread hf
    rw [hafter] at hx
    exact hx
  · obtain ⟨hspare, -⟩ := hfail hread
    obtain ⟨t, hx, hbad, -, hleft, hreserved, hwork, huser, hflags, hg, hm, -, -⟩ := hspare p rest hpool
    refine ⟨t, hx, hbad, hleft, hreserved, hwork, huser, fun hlow q => ?_, hg.trans hgranules, hm.trans hmarks⟩
    rw [hflags q, if_pos hlow, BitVec.getLsbD_or]
    exact Bool.or_true _

end Sys2Proof.Machine
end

section
/-! How a COMMIT or REFRESH ends (5.3): the bad marks, the completion with DONE or NO_SPARE, and the whole sequence. -/

namespace Sys2Proof.Machine

/-! ### Completion (R71, R104, R106, R123) -/

/-- The relocated flag: a pair failed in the job, or the entry was stranded and went to a spare (R104). -/
theorem relocated_eq (w : WriteJob) :
    w.relocated = decide (w.failed ≠ [] ∨ w.stranded = true ∧ w.spare = true) := by
  rw [Bool.eq_iff_iff]
  simp [WriteJob.relocated]

/-- What the completion of the COMMIT `j` with DONE leaves in `t` of the state `u`. -/
structure CommitDone (u t : State) (j : Job) (rest : List Job) (w : WriteJob) : Prop where
  completed : jobCompleted u t j rest .done (some w.newGen)
    (decide (w.failed ≠ [] ∨ w.stranded = true ∧ w.spare = true))
  entry : t.entry w.entry = { u.entry w.entry with jobs := (u.entry w.entry).jobs - 1 }
  others : ∀ i, i ≠ w.entry → t.entry i = u.entry i
  told : censusTold u t w.cls
  granules : t.granules = u.granules
  marks : t.marks = u.marks
  bad : t.bad = u.bad
  refresh : t.refresh = u.refresh
  reserved : t.reserved = u.reserved
  arb : t.arb = u.arb

theorem commitDone_writeDone {u : State} {j : Job} {rest : List Job} {w : WriteJob} (hq : u.queue = j :: rest)
    (hi : j.body.entry? = some w.entry) : CommitDone u (u.writeDone (some j) w) j rest w := by
  let completed := u.completeJob j .done (some w.newGen) w.relocated
  have hentries : ∀ i, completed.entry i = (u.lowerJobs w.entry).entry i :=
    entry_congr (completeJob_entries u j .done (some w.newGen) w.relocated w.entry hi (.inr (.inr rfl))).1
  have hcensus : (u.writeDone (some j) w).census = (u.tellCensus w.cls).census := by
    simp only [State.writeDone, State.tellCensus, (completeJob_arb_census u j .done (some w.newGen) w.relocated).2]
  have hdone := completeJob_facts u j rest .done (some w.newGen) w.relocated hq
  obtain ⟨hgranules, hmarks, -⟩ := same_completeJob u j .done (some w.newGen) w.relocated
  obtain ⟨q, wk, pm, ps, b, es, hs, ht⟩ := completeJob_touches u j .done (some w.newGen) w.relocated
  have hkept : completed.bad = u.bad ∧ completed.refresh = u.refresh ∧ completed.reserved = u.reserved := by
    simp only [completed, ht, and_self]
  obtain ⟨hbad, hrefresh, hreserved⟩ := hkept
  refine ⟨?_, (hentries w.entry).trans (entry_setEntry_same _ _ _),
    fun i h => (hentries i).trans (entry_setEntry_other _ _ _ _ h), censusTold_of_census hcensus, hgranules, hmarks, hbad,
    hrefresh, hreserved, (completeJob_arb_census u j .done (some w.newGen) w.relocated).1⟩
  rw [← relocated_eq]
  exact hdone

/-- A completion on a free array, with nobody waiting, is the whole next state. -/
theorem commitDone_of {c : Instr} {s u : State} {j : Job} {rest : List Job} {w : WriteJob} (hfree : u.arrayFree)
    (hq : u.queue = j :: rest) (hi : j.body.entry? = some w.entry)
    (hx : exec c s = .next ((u.writeDone (some j) w).stepBoundary)) :
    ∃ t, exec c s = .next t ∧ CommitDone u t j rest w := by
  have hdone := commitDone_writeDone hq hi
  have hfree' : (u.writeDone (some j) w).arrayFree := by
    rw [State.arrayFree, hdone.arb]
    exact hfree
  rw [stepBoundary_quiet _ hfree'] at hx
  exact ⟨_, hx, hdone⟩

section

variable {s : State} {job : Option Job} {w : WriteJob} {l : Loc} {m : BitVec 12}

/-- The end of the supersede mark or of the last bad mark ends the sequence, whether the mark took or not. -/
theorem exec_writeDone (us : List Upset) (hs : s.engineAlone (.mark l m))
    (hw : s.work = .write job w .supersede ∨ s.work = .write job w (.badMarks [])) :
    exec (.markProgramEnd us) s = .next (((s.markEnded l m us).release.writeDone job w).stepBoundary) := by
  rcases hw with hw | hw <;> exact exec_writeMarked us hs hw

/-- A COMMIT completes with DONE and the new generation (R71, R104). -/
theorem commit_done_ends {j : Job} {rest : List Job} {k : Key} {b : Fin 8} {len : Nat} {g : Gen} (us : List Upset)
    (hs : s.engineAlone (.mark l m))
    (hw : s.work = .write (some j) w .supersede ∨ s.work = .write (some j) w (.badMarks []))
    (hq : s.queue = j :: rest) (hb : j.body = .commit w.entry k b len g) :
    let after := s.markEnded l m us
    ∃ t, exec (.markProgramEnd us) s = .next t ∧
      jobCompleted s t j rest .done (some w.newGen) (decide (w.failed ≠ [] ∨ w.stranded = true ∧ w.spare = true)) ∧
      t.entry w.entry = { s.entry w.entry with jobs := (s.entry w.entry).jobs - 1 } ∧ censusTold s t w.cls ∧
      t.granules = after.granules ∧ t.marks = after.marks := by
  intro after
  have hx : exec (.markProgramEnd us) s = .next ((after.release.writeDone (some j) w).stepBoundary) :=
    exec_writeDone us hs hw
  obtain ⟨x, f, ha⟩ : ∃ x f, after = { s with granules := x, marks := f } := markEnded_touches s l m us
  clear_value after
  subst ha
  have hfree : (State.release { s with granules := x, marks := f }).arrayFree := arrayFree_release hs rfl
  obtain ⟨t, hx, hdone⟩ := commitDone_of hfree (by exact hq) (by rw [hb]; rfl) hx
  exact ⟨t, hx, hdone.completed, hdone.entry, hdone.told, hdone.granules, hdone.marks⟩

/-- A REFRESH ends without a result (R123). -/
theorem refresh_done_ends (us : List Upset) (hs : s.engineAlone (.mark l m))
    (hw : s.work = .write none w .supersede ∨ s.work = .write none w (.badMarks [])) :
    ∃ t, exec (.markProgramEnd us) s = .next t ∧ censusTold s t w.cls ∧
      t = { (s.markEnded l m us).engineDone with census := t.census } := by
  have hx := exec_writeDone us hs hw
  obtain ⟨x, f, ha⟩ := markEnded_touches s l m us
  rw [ha] at hx ⊢
  have hfree : (State.release { s with granules := x, marks := f }).arrayFree := arrayFree_release hs rfl
  rw [stepBoundary_quiet _ (by exact hfree)] at hx
  exact ⟨_, hx, tellCensus_told _ w.cls, rfl⟩

/-- A COMMIT without a spare completes with NO_SPARE; a NASCENT entry is freed (R10, R106). -/
theorem commit_noSpare_ends {j : Job} {rest : List Job} {k : Key} {b : Fin 8} {len : Nat} {g : Gen} (us : List Upset)
    (hs : s.engineAlone (.mark l m)) (hw : s.work = .write (some j) w (.exhaustMarks [])) (hq : s.queue = j :: rest)
    (hb : j.body = .commit w.entry k b len g) :
    ∃ t, exec (.markProgramEnd us) s = .next t ∧ jobCompleted s t j rest .noSpare none false ∧
      (∀ l p n, s.entry w.entry = ⟨.live l, p, n⟩ → t.entry w.entry = ⟨.live l, p, n - 1⟩) ∧
      (∀ key c p n, s.entry w.entry = ⟨.nascent key c, p, n⟩ →
        ((∃ q, p = some q ∧ s.isBad q = true) → t.entry w.entry = ⟨.free, none, n - 1⟩) ∧
        ((∀ q, p = some q → s.isBad q = false) → t.entry w.entry = ⟨.free, p, n - 1⟩)) ∧
      t.census = s.census := by
  have hi : j.body.entry? = some w.entry := by rw [hb]; rfl
  have hc : j.body.isCommit = true := by rw [hb]; rfl
  obtain ⟨x, f, ha⟩ := markEnded_touches s l m us
  have hx : exec (.markProgramEnd us) s =
      .next (((s.markEnded l m us).release.completeJob j .noSpare none false).stepBoundary) :=
    exec_writeMarked us hs hw
  rw [ha] at hx
  generalize hu : State.release { s with granules := x, marks := f } = u at hx
  have hfree : u.arrayFree := by rw [← hu]; exact arrayFree_release hs rfl
  have hdone := completeJob_facts u j rest .noSpare none false (by rw [← hu]; exact hq)
  have hcensus := (completeJob_arb_census u j .noSpare none false).2
  have hlive := fun h => (completeJob_entries u j .noSpare none false w.entry hi (.inl h)).1
  have hfreed := fun k c p n h =>
    completeJob_frees_nascent u j .noSpare none false (k := k) (c := c) (p := p) (n := n) hi hc (by decide) h
  rw [stepBoundary_quiet _ (arrayFree_completeJob hfree _ _ _)] at hx
  subst hu
  refine ⟨_, hx, hdone, fun l p n he => ?_, fun key c p n he => ⟨fun ⟨q, hq, hbad⟩ => ?_, fun hgood => ?_⟩, hcensus⟩
  · have hbody : ∀ k c, (s.entry w.entry).body ≠ .nascent k c := by
      intro k c
      rw [he]
      exact EntryBody.noConfusion
    rw [entry_congr (hlive hbody), State.lowerJobs, entry_setEntry_same]
    show ({ s.entry w.entry with jobs := (s.entry w.entry).jobs - 1 } : Entry) = _
    rw [he]
  · rw [hfreed key c p n he, hq, Option.filter_some]
    show (⟨.free, if (!s.isBad q) = true then some q else none, n - 1⟩ : Entry) = _
    rw [hbad]
    rfl
  · rw [hfreed key c p n he]
    cases p with
    | none => rfl
    | some q =>
      show (⟨.free, Option.filter (fun q => !s.isBad q) (some q), n - 1⟩ : Entry) = _
      rw [Option.filter_some, hgood q rfl]
      rfl

/-- A REFRESH without a spare ends, and its entry leaves the refresh list (R106, R123). -/
theorem refresh_noSpare_ends (us : List Upset) (hs : s.engineAlone (.mark l m))
    (hw : s.work = .write none w (.exhaustMarks [])) :
    ∃ t, exec (.markProgramEnd us) s = .next t ∧ t.work = .idle ∧ t.queue = s.queue ∧ w.entry ∉ t.refresh.list ∧
      t.portM = s.portM ∧ t.portS = s.portS ∧ t.census = s.census := by
  have hx : exec (.markProgramEnd us) s =
      .next (((s.markEnded l m us).release.unlist w.entry).idle.stepBoundary) := exec_writeMarked us hs hw
  obtain ⟨x, f, ha⟩ := markEnded_touches s l m us
  rw [ha] at hx
  have hfree : (State.release { s with granules := x, marks := f }).arrayFree := arrayFree_release hs rfl
  rw [stepBoundary_quiet _ (by exact hfree)] at hx
  exact ⟨_, hx, rfl, rfl, not_mem_unlist _ _, rfl, rfl, rfl⟩

/-- A bad mark is tolerated when it fails: the next one is granted (R105, R106). -/
theorem write_badMark_ends (us : List Upset) (hs : s.engineAlone (.mark l m)) (p : Nat) (c : CellName)
    (others : List (Nat × CellName)) :
    let after := s.markEnded l m us
    (s.work = .write job w (.badMarks ((p, c) :: others)) →
      exec (.markProgramEnd us) s =
        .next (after.atStep (.write job w (.badMarks others)) (.mark (Loc.num p c) (markBit .bad)))) ∧
    (s.work = .write job w (.exhaustMarks ((p, c) :: others)) →
      exec (.markProgramEnd us) s =
        .next (after.atStep (.write job w (.exhaustMarks others)) (.mark (Loc.num p c) (markBit .bad)))) := by
  intro after
  have harb : after.arb = s.arb := markEnded_arb s l m us
  exact ⟨fun hw => goesTo_of hs harb (exec_writeMarked us hs hw),
    fun hw => goesTo_of hs harb (exec_writeMarked us hs hw)⟩

end

/-! ### The statement -/

/-- Settles O51, clause by clause along Figure 3-1: the classification, the erase, the programs, the verify reads, the
failing commit mark, the bad marks, and the ends with DONE and NO_SPARE. -/
theorem writeSequenceRuns : Obligations.WriteSequenceRuns := by
  refine ⟨following_eq_some, fun w hkey hentry hgen h1 h224 => headerOf_headerData _ _ _ _ _ hkey hentry hgen h1 h224, ?_⟩
  intro s job w at' verifies programs header
  refine ⟨write_classifies s job w, fun us => ⟨write_erase_ends us, fun d hs hw => ?_, fun g d hs hw => ?_,
    fun g hs hw => write_verify_ends us hs hw, write_commitMark_fails us, ?_⟩⟩
  · exact write_data_continues us hs (exec_writeProgrammed us hs hw)
  · exact write_data_continues us hs (exec_writeProgrammed us hs hw)
  intro loc m hs after
  refine ⟨?_, ?_, ?_, ?_, ?_, ?_⟩
  · exact fun p c others => (write_badMark_ends us hs p c others).1
  · exact fun p c others => (write_badMark_ends us hs p c others).2
  · rintro j rest k b len g x hw rfl hq hb -
    exact commit_done_ends us hs hw hq hb
  · rintro hw rfl
    exact refresh_done_ends us hs hw
  · rintro j rest k b len g hw rfl hq hb
    exact commit_noSpare_ends us hs hw hq hb
  · rintro hw rfl
    exact refresh_noSpare_ends us hs hw

end Sys2Proof.Machine
end

section
/-! The directory switch of a COMMIT or REFRESH (5.3): the entry on the record written, and what the end of the commit mark
is followed by. -/

namespace Sys2Proof.Machine

/-! ### The switch (R69, R9, R104) -/

/-- The record written, as the directory holds it: guard map all GUARDED, damaged and refresh_wanted clear. -/
def WriteJob.record (w : WriteJob) (isFixed : Bool) : EntryBody :=
  .live ⟨w.key, w.cls, w.length, w.newGen, w.cell, 0, isFixed, false, false⟩

section

variable {s : State} {w : WriteJob} {p : Option Nat} {n : Nat}

/-- A LIVE entry is switched to the record, and stays fixed when it was. -/
theorem switch_entry_of_live {l : Live} (he : s.entry w.entry = ⟨.live l, p, n⟩) :
    (s.switch w).entry w.entry = ⟨w.record l.fixed, some w.pair, n⟩ := by
  have hunlisted : (s.unlist w.entry).entry w.entry = ⟨.live { l with refreshWanted := false }, p, n⟩ := by
    rw [unlist_entry_same, he]
    rfl
  rw [State.switch, entry_setEntry_same, hunlisted]
  rfl

/-- A NASCENT entry becomes LIVE for the first time, and is not fixed. -/
theorem switch_entry_of_nascent {k : Key} {c : Cls} (he : s.entry w.entry = ⟨.nascent k c, p, n⟩) :
    (s.switch w).entry w.entry = ⟨w.record false, some w.pair, n⟩ := by
  have hunlisted : (s.unlist w.entry).entry w.entry = ⟨.nascent k c, p, n⟩ := by
    rw [unlist_entry_same, he]
    rfl
  rw [State.switch, entry_setEntry_same, hunlisted]
  rfl

theorem switch_entry_other (s : State) (w : WriteJob) (i : Nat) (h : i ≠ w.entry) :
    (s.switch w).entry i = s.entry i :=
  (entry_setEntry_other _ _ _ _ h).trans (unlist_entry_other s w.entry i h)

/-- The entry leaves the refresh list (R69). -/
theorem not_mem_switch_refresh (s : State) (w : WriteJob) : w.entry ∉ (s.switch w).refresh.list :=
  not_mem_unlist s w.entry

/-- The switch touches the directory, the refresh list and the reserved spare alone; a spare written is no longer
reserved. -/
theorem switch_touches (s : State) (w : WriteJob) :
    ∃ es rl, s.switch w =
      { s with entries := es, refresh := rl, reserved := if w.spare = true then none else s.reserved } :=
  ⟨_, _, rfl⟩

end

/-! ### What is bad-marked after the switch (R105) -/

/-- Both cells of the pairs that failed in the job, in the order in which they failed. -/
def WriteJob.failedCells (w : WriteJob) : List (Nat × CellName) :=
  (w.failed.map (fun f => [(f.1, CellName.a), (f.1, .b)])).flatten

/-- The old pair of a stranded entry comes first. -/
theorem badCells_of_stranded {w : WriteJob} {p : Nat} {c : CellName} (hs : w.stranded = true) (ho : w.old = some (p, c)) :
    w.badCells = (p, .a) :: (p, .b) :: w.failedCells := by
  simp only [WriteJob.badCells, hs, ho]
  rfl

/-- An entry that was not stranded, or had no old record, has the cells of the failed pairs alone. -/
theorem badCells_of_failed {w : WriteJob} (h : w.stranded = false ∨ w.old = none) : w.badCells = w.failedCells := by
  rcases h with h | h
  · simp only [WriteJob.badCells, h]
    rfl
  · cases hs : w.stranded <;>
      (simp only [WriteJob.badCells, h, hs]; rfl)

theorem failedCells_of_none {w : WriteJob} (h : w.failed = []) : w.failedCells = [] := by
  rw [WriteJob.failedCells, h]
  rfl

/-! ### The sequence after the switch (R70, R105) -/

section

variable {s : State} {job : Option Job} {w : WriteJob}

theorem afterSwitch_supersedes {p : Nat} {c : CellName} (hsp : w.spare = false) (ho : w.old = some (p, c)) :
    s.afterSwitch job w = s.claims (.write job w .supersede) (.mark (Loc.num p c) (markBit .supersede)) := by
  simp only [State.afterSwitch, hsp, ho, Bool.false_eq_true, if_false]

/-- The first COMMIT on the entry's own pair has nothing to mark. -/
theorem afterSwitch_completes (hsp : w.spare = false) (ho : w.old = none) : s.afterSwitch job w = s.writeDone job w := by
  simp only [State.afterSwitch, hsp, ho, Bool.false_eq_true, if_false]

theorem afterSwitch_badMarks (hsp : w.spare = true) {p : Nat} {c : CellName} {others : List (Nat × CellName)}
    (hb : w.badCells = (p, c) :: others) :
    s.afterSwitch job w = s.claims (.write job w (.badMarks others)) (.mark (Loc.num p c) (markBit .bad)) := by
  simp only [State.afterSwitch, hsp, hb, if_true, State.writeBadMarks]

/-- On a spare with no pair to mark the job completes. -/
theorem afterSwitch_noBadMarks (hsp : w.spare = true) (hb : w.badCells = []) :
    s.afterSwitch job w = s.writeDone job w := by
  simp only [State.afterSwitch, hsp, hb, if_true, State.writeBadMarks]

end

/-! ### The end of a commit mark that took -/

/-- The command leads from `s` to `t`, in which the directory has been switched and the array is as in `after`. -/
abbrev SwitchesTo (c : Instr) (s after : State) (w : WriteJob) (t : State) : Prop :=
  exec c s = .next t ∧ (∀ i, i ≠ w.entry → t.entry i = s.entry i) ∧ w.entry ∉ t.refresh.list ∧
    t.granules = after.granules ∧ t.marks = after.marks ∧ t.bad = s.bad

section

variable {s : State} {job : Option Job} {w : WriteJob} {us : List Upset} {e : Entry}

/-- When the commit mark took the directory is switched. -/
theorem exec_commitMark_took (hs : s.engineAlone (.mark w.loc (markBit .commit)))
    (hw : s.work = .write job w .commitMark)
    (htook : (s.markEnded w.loc (markBit .commit) us).marksStand w.loc (markBit .commit)) :
    exec (.markProgramEnd us) s =
      .next (((((s.markEnded w.loc (markBit .commit) us).release).switch w).afterSwitch job w).stepBoundary) := by
  rw [exec_writeMarked us hs hw, (marksTook_iff _ _ _).2 htook]
  rfl

/-- A sequence that goes on with a mark after the switch is granted it. -/
theorem commitMark_claims (hs : s.engineAlone (.mark w.loc (markBit .commit)))
    (hw : s.work = .write job w .commitMark)
    (htook : (s.markEnded w.loc (markBit .commit) us).marksStand w.loc (markBit .commit))
    (he : ((s.markEnded w.loc (markBit .commit) us).release.switch w).entry w.entry = e) {work : Work} {step : EngineStep}
    (hnext : ∀ u : State, u.afterSwitch job w = u.claims work step) :
    ∃ t, SwitchesTo (.markProgramEnd us) s (s.markEnded w.loc (markBit .commit) us) w t ∧ t.entry w.entry = e ∧
      t.arb.user = some (.engine step) ∧ t.work = work ∧
      t.reserved = (if w.spare = true then none else s.reserved) ∧ t.queue = s.queue := by
  have hx := exec_commitMark_took hs hw htook
  rw [hnext] at hx
  clear htook
  obtain ⟨g, k, ha⟩ := markEnded_touches s w.loc (markBit .commit) us
  rw [ha] at hx he ⊢
  have hothers := switch_entry_other (State.release { s with granules := g, marks := k }) w
  have hlisted := not_mem_switch_refresh (State.release { s with granules := g, marks := k }) w
  have hfree : (State.release { s with granules := g, marks := k }).arrayFree := arrayFree_release hs rfl
  obtain ⟨es, rl, hu⟩ := switch_touches (State.release { s with granules := g, marks := k }) w
  rw [hu] at hx he hothers hlisted
  rw [stepBoundary_claims _ _ _ (by exact hfree)] at hx
  exact ⟨_, ⟨hx, hothers, hlisted, rfl, rfl, rfl⟩, he, rfl, rfl, rfl, rfl⟩

/-- A COMMIT that has nothing to mark after the switch completes at once with DONE (R70, R71). -/
theorem commitMark_completes {j : Job} {rest : List Job} (hs : s.engineAlone (.mark w.loc (markBit .commit)))
    (hw : s.work = .write (some j) w .commitMark)
    (htook : (s.markEnded w.loc (markBit .commit) us).marksStand w.loc (markBit .commit))
    (he : ((s.markEnded w.loc (markBit .commit) us).release.switch w).entry w.entry = e)
    (hnext : ∀ u : State, u.afterSwitch (some j) w = u.writeDone (some j) w) (hq : s.queue = j :: rest)
    (hi : j.body.entry? = some w.entry) (hrel : ¬(w.failed ≠ [] ∨ w.stranded = true ∧ w.spare = true)) :
    ∃ t, SwitchesTo (.markProgramEnd us) s (s.markEnded w.loc (markBit .commit) us) w t ∧
      t.entry w.entry = { e with jobs := e.jobs - 1 } ∧
      t.reserved = (if w.spare = true then none else s.reserved) ∧
      jobCompleted s t j rest .done (some w.newGen) false ∧ censusTold s t w.cls := by
  have hx := exec_commitMark_took hs hw htook
  rw [hnext] at hx
  clear htook
  obtain ⟨g, k, ha⟩ := markEnded_touches s w.loc (markBit .commit) us
  rw [ha] at hx he ⊢
  have hothers := switch_entry_other (State.release { s with granules := g, marks := k }) w
  have hlisted := not_mem_switch_refresh (State.release { s with granules := g, marks := k }) w
  have hfree : (State.release { s with granules := g, marks := k }).arrayFree := arrayFree_release hs rfl
  obtain ⟨es, rl, hu⟩ := switch_touches (State.release { s with granules := g, marks := k }) w
  rw [hu] at hx he hothers hlisted
  obtain ⟨t, hx, hdone⟩ := commitDone_of (by exact hfree) (by exact hq) hi hx
  have hcompleted := hdone.completed
  rw [decide_eq_false hrel] at hcompleted
  refine ⟨t, ⟨hx, fun i h => (hdone.others i h).trans (hothers i h), ?_, hdone.granules, hdone.marks, hdone.bad⟩,
    hdone.entry.trans (by rw [he]), hdone.reserved, hcompleted, hdone.told⟩
  rw [hdone.refresh]
  exact hlisted

end

/-- Settles O50: the switch of a LIVE and of a NASCENT entry, on the entry's own pair and on a spare. -/
theorem commitMarkSwitchesDirectory : Obligations.CommitMarkSwitchesDirectory := by
  intro s job w n us hs hw after htook record switches
  have hentry : after.release.entry w.entry = s.entry w.entry := by
    obtain ⟨g, k, ha⟩ : ∃ g k, after = { s with granules := g, marks := k } := markEnded_touches s _ _ us
    exact entry_congr (by rw [release_entries, ha]) w.entry
  have hlive := fun l p he => switch_entry_of_live (w := w) (l := l) (p := p) (n := n) (hentry.trans he)
  have hnascent := fun k c p he => switch_entry_of_nascent (w := w) (k := k) (c := c) (p := p) (n := n) (hentry.trans he)
  refine ⟨fun l hspare he hold => ?_, fun k c j rest b len g hspare he hold hfailed hjob hq hb => ?_, fun hspare => ?_⟩
  · obtain ⟨t, hswitch, hsame, huser, hwork, hreserved, hqueue⟩ :=
      commitMark_claims hs hw htook (hlive l _ he) (fun u => afterSwitch_supersedes hspare hold)
    rw [hspare] at hreserved
    exact ⟨t, hswitch, hsame, huser, hwork, hreserved, hqueue⟩
  · subst hjob
    obtain ⟨t, hswitch, hsame, -, hdone, htold⟩ :=
      commitMark_completes hs hw htook (hnascent k c _ he) (fun u => afterSwitch_completes hspare hold) hq
        (by rw [hb]; rfl) (by simp [hfailed, hspare])
    exact ⟨t, hswitch, hsame, hdone, htold⟩
  · intro failedCells marks
    have hmarks : ∀ (isFixed : Bool) (p : Nat) (c : CellName) (others : List (Nat × CellName)),
        (after.release.switch w).entry w.entry = ⟨w.record isFixed, some w.pair, n⟩ → w.badCells = (p, c) :: others →
          marks isFixed p c others := by
      intro isFixed p c others he hbad
      obtain ⟨t, hswitch, hsame, huser, hwork, hreserved, hqueue⟩ :=
        commitMark_claims hs hw htook he (fun u => afterSwitch_badMarks hspare hbad)
      rw [hspare] at hreserved
      exact ⟨t, hswitch, hsame, hreserved, hwork, huser, hqueue⟩
    refine ⟨fun l old he hold => ⟨fun hstranded => ?_, fun p c others hstranded hcells => ?_⟩,
      fun k c pair he hold => ⟨fun p cell others hcells => ?_, ?_⟩⟩
    · exact hmarks _ _ _ _ (hlive l _ he) (badCells_of_stranded hstranded hold)
    · exact hmarks _ _ _ _ (hlive l _ he) ((badCells_of_failed (.inl hstranded)).trans hcells)
    · exact hmarks _ _ _ _ (hnascent k c _ he) ((badCells_of_failed (.inr hold)).trans hcells)
    · intro j rest b len g hfailed hstranded hjob hq hb
      subst hjob
      have hnone : w.badCells = [] := (badCells_of_failed (.inr hold)).trans (failedCells_of_none hfailed)
      obtain ⟨t, hswitch, hsame, hreserved, hdone, htold⟩ :=
        commitMark_completes hs hw htook (hnascent k c _ he) (fun u => afterSwitch_noBadMarks hspare hnone) hq
          (by rw [hb]; rfl) (by simp [hfailed, hstranded])
      rw [hspare] at hreserved
      exact ⟨t, hswitch, hsame, hreserved, hdone, htold⟩

end Sys2Proof.Machine
end
